-- ==== Sys2Proof/Word.lean ====
section
/-!
DEFINITION. The word and index types of the block and their plainest names. The block is a set of registers, queues
and records, so one "machine word" does not exist: a value that crosses a port keeps the width its table gives.
-/
namespace Sys2Proof

/-- One byte. -/
abbrev Byte := BitVec 8
/-- A 64-bit word, the unit of record layouts and of the register window (R6, R602). -/
abbrev Word := BitVec 64
/-- A 32-bit unit address or mask (R19, R22). -/
abbrev UnitAddr := BitVec 32
/-- A core of this chip: bits [15:3] of the chip-local unit address (R21, R494). -/
abbrev CoreIx := BitVec 13
/-- An engine of a core: bits [2:0] of the unit address (R19). -/
abbrev EngIx := BitVec 3
/-- A cluster of this chip, hence a leaf and a trace stream: bits [15:7] of the chip-local address (R150). -/
abbrev ClusterIx := BitVec 9
/-- A partition of this chip: bits [15:13] of the chip-local address. -/
abbrev PartIx := BitVec 3
/-- A global-time instant or interval in quarter nanoseconds (R5, R41), as an exact count. -/
abbrev GT := Nat

end Sys2Proof
end

