-- ==== Sys2Proof/Syntax.lean ====
section
/-!
DEFINITION. The commands of the block: one constructor per row of spec/opcode_table.json, in the table's order, with
the operands the chapter of the row's rule gives. A catalogue command (rows HELLO to FUSE_WRITE) carries the path it
was taken from (`Via`) and the parameters of its table, each with the table's width. A row that is an event at a port
carries what the surroundings present there; `read` is what the host has in the READ word that the hub reads; `dc` is the number of `ts_clk` cycles since the core's previous row.
-/
namespace Sys2Proof

/-- The path on which a catalogue command was taken, which also says where its answer goes (R484, R464, R548, R552). -/
inductive Via where
  | mailbox (m : BitVec 4)
  | narrow (seq : BitVec 16)
  | remote (src : BitVec 16) (tag : BitVec 24)
  | narrowRemote (src : BitVec 16) (tag : BitVec 24)
deriving DecidableEq, Repr

/-- PAIL_CONFIG parameters, Table 04.6. -/
structure PailParams where
  set : BitVec 2
  enable : Bool
  kind : BitVec 2
  interval : BitVec 32
  phase : Word
  addr : UnitAddr
  mask : UnitAddr
  ctxFirst : BitVec 16
  ctxLast : BitVec 16
  ext : Bool
  cmd : Bool
  ringBase : Word
  ringLog2 : BitVec 6
deriving DecidableEq, Repr

/-- TRACE_CONFIG parameters, Table 05.1. -/
structure TraceParams where
  enable : Bool
  addr : UnitAddr
  mask : UnitAddr
  kinds : BitVec 3
  dsel : BitVec 3
  gate : Bool
  sink : BitVec 2
  ringBase : Word
  ringLog2 : BitVec 6
  incl : Bool
deriving DecidableEq, Repr

/-- SKIM_ARM parameters of OP ARM, Table 07.3. -/
structure SkimParams where
  addr : UnitAddr
  mask : UnitAddr
  cores : BitVec 16
  engines : BitVec 8
  sel : BitVec 4
  elfmt : BitVec 4
  idxmode : Bool
  idxLo : BitVec 32
  idxHi : BitVec 32
  ctx : BitVec 16
  ctxMask : BitVec 16
  thresh : BitVec 33
  tseed : Word
  sseed : Word
  lsb : BitVec 10
  hbase : BitVec 10
  startMode : BitVec 2
  start : Word
  duration : Word
  maxcount : BitVec 32
  incl : Bool
deriving DecidableEq, Repr

/-- DUMP_START START parameters, Table 09.6. -/
structure DumpParams where
  addr : UnitAddr
  mask : UnitAddr
  region : BitVec 4
  content : BitVec 6
  incl : Bool
  cutId : BitVec 32
  tag : BitVec 32
deriving DecidableEq, Repr

/-- RESET_RUNG APPLY parameters, Table 13.3, RUNG itself being the row. -/
structure RungParams where
  addr : UnitAddr
  mask : UnitAddr
  ctx : BitVec 16
  gen : BitVec 8
  genchk : Bool
  escalate : Bool
  maxRung : BitVec 3
  reason : BitVec 8
deriving DecidableEq, Repr

/-- AUTOFENCE_POLICY SLOT parameters, Table 13.9. -/
structure SlotParams where
  slot : BitVec 2
  enable : Bool
  addr : UnitAddr
  mask : UnitAddr
  classes : BitVec 4
  portslot : Bool
  threshold : BitVec 16
  window : BitVec 32
  action : BitVec 2
deriving DecidableEq, Repr

/-- TEST_REQUEST REQUEST parameters, Table 14.2. -/
structure TestParams where
  addr : UnitAddr
  mask : UnitAddr
  coreType : BitVec 16
  patterns : BitVec 13
  seed : Word
  expect : Word
  deadline : Word
deriving DecidableEq, Repr

/-- What the tie-offs of one core's tap port show when observation reset is released (R85), with the core descriptor
the core returns from space 15 (R284). -/
structure CoreTie where
  core : CoreIx
  engPresent : BitVec 8
  steerPresent : BitVec 4
  scanEnrolled : Bool
  scanChains : BitVec 6
  scanDiv : BitVec 2
  defect : Bool
  descriptor : List Word
deriving DecidableEq, Repr

/-- The tie-offs of the chip, sampled at the release of observation reset (R85, R593, Table 15.2, Table 18.1). -/
structure TieOffs where
  cores : List CoreTie
  linkPresent : BitVec 16
  linkUntagged : BitVec 16
  linkNogen : BitVec 16
  tpPresent : BitVec 16
  izMode : List (BitVec 2)
  tapMfr : BitVec 11
deriving DecidableEq, Repr

/-- A frame header, Table 15.5. -/
structure FrameHdr where
  dst : BitVec 16
  src : BitVec 16
  type : BitVec 8
  hops : BitVec 8
  tag : BitVec 24
  sgen : BitVec 8
  tgen : BitVec 8
  genchk : Bool
  resp : Bool
  detour : Bool
  minlevel : BitVec 2
  noroute : Bool
  transit : Bool
  result : BitVec 8
  fseq : BitVec 16
  principal : BitVec 8
  domain : BitVec 8
deriving DecidableEq, Repr

/-- A frame: its header and its payload, whole words with the last one zero-padded, and LEN in bytes (R440). The last three are
the reserved bits of header words 1 ([18:10]), 2 ([31:0]) and 3: zero in a frame the block produces, and of no meaning but
for CHECK in one it receives (R9). -/
structure Frame where
  hdr : FrameHdr
  len : BitVec 16
  payload : List Word
  rsv1 : BitVec 9 := 0
  rsv2 : BitVec 32 := 0
  rsv3 : Word := 0
deriving DecidableEq, Repr

/-- A link flit, Table 15.4. -/
structure LinkFlit where
  checkOk : Bool
  chip : BitVec 16
  major : BitVec 8
  minor : BitVec 8
  maxlevel : BitVec 4
  port : BitVec 3
  avoid : Bool
  fw : Bool
  unset : Bool
  nak : Bool
  dimx : BitVec 6
  dimy : BitVec 5
  dimz : BitVec 5
  ackseq : BitVec 16
  credits : Word
deriving DecidableEq, Repr

/-- The commands. The row's mnemonic is in LAWS.json. -/
inductive Instr where
  -- the mailbox poll and the command catalogue
  | mailboxPoll
  | hello (via : Via) (minLevel maxLevel : BitVec 8) (setcoord : Bool) (x : BitVec 6) (y z : BitVec 5)
      (dimx : BitVec 6) (dimy dimz : BitVec 5)
  | capsSummary (via : Via)
  | capsPresence (via : Via) (first : BitVec 13)
  | capsIazan (via : Via)
  | eventRingSet (via : Via) (base : Word) (log2 : BitVec 6) (enable : Bool)
  | ctxDefine (via : Via) (first : BitVec 16) (count : BitVec 17) (attr : Word)
  | ctxRetire (via : Via) (first : BitVec 16) (count : BitVec 17)
  | cntConfig (via : Via) (addr mask : UnitAddr) (full : Bool)
  | pailConfig (via : Via) (p : PailParams)
  | traceConfig (via : Via) (p : TraceParams)
  | trigSetLoad (via : Via) (addr mask : UnitAddr) (dsel : BitVec 3) (block : List Word)
  | trigSetChannel (via : Via) (ch : BitVec 3) (caddr cmask haddr hmask : UnitAddr) (enable : Bool)
  | trigSetClear (via : Via) (addr mask : UnitAddr)
  | trigSetStatus (via : Via) (addr mask : UnitAddr)
  | skimArm (via : Via) (p : SkimParams)
  | skimCancel (via : Via) (addr mask : UnitAddr)
  | skimRead (via : Via) (addr mask : UnitAddr)
  | chanmapLoad (via : Via) (inline : Bool) (addr : Word) (first : BitVec 18) (count : BitVec 19) (data : List Word)
  | chanmapClear (via : Via) (first : BitVec 18) (count : BitVec 19)
  | chanmapConfig (via : Via) (knots : BitVec 2) (blockGt period : BitVec 32) (progSweeps : BitVec 16)
      (actions : BitVec 3) (actWait : BitVec 32)
  | chanmapReport (via : Via) (hangId : BitVec 32) (first : BitVec 16)
  | chanmapStatus (via : Via)
  | stopAtArm (via : Via) (addr mask : UnitAddr) (hard tform : Bool) (t : Word) (watchdog : BitVec 32)
  | stopAtCancel (via : Via) (cutId : BitVec 32)
  | stopAtReport (via : Via) (cutId first : BitVec 32)
  | stepCommand (via : Via) (cutId : BitVec 32) (addr mask : UnitAddr) (bound : BitVec 32)
  | stepContext (via : Via) (cutId : BitVec 32) (addr mask : UnitAddr) (ctx rounds : BitVec 16) (bound : BitVec 32)
  | stepFiring (via : Via) (cutId : BitVec 32) (addr mask : UnitAddr) (steer : BitVec 4) (withEng : Bool)
      (bound : BitVec 32)
  | stepTime (via : Via) (cutId : BitVec 32) (addr mask : UnitAddr) (delta : Word)
  | resume (via : Via) (cutId : BitVec 32) (addr mask : UnitAddr) (tform : Bool) (r : Word)
  | stateRead (via : Via) (addr : UnitAddr) (space : BitVec 5) (waddr : BitVec 32) (count : BitVec 9)
      (gen : BitVec 8) (incl : Bool)
  | stateWrite (via : Via) (addr : UnitAddr) (space : BitVec 5) (waddr : BitVec 32) (count : BitVec 9)
      (gen : BitVec 8) (incl : Bool) (data : List Word)
  | scanOut (via : Via) (p : DumpParams) (read : Word)
  | dumpSetup (via : Via) (region : BitVec 4) (base size : Word) (declBw : BitVec 16) (share : BitVec 9)
  | dumpStart (via : Via) (p : DumpParams) (read : Word)
  | dumpCancel (via : Via) (dumpId : BitVec 16)
  | churn (via : Via) (cutId : BitVec 32) (content : BitVec 6) (region : BitVec 4) (stream : Bool)
      (tag deadline : BitVec 32) (read : Word)
  | dumpStatus (via : Via) (dumpId : BitVec 16)
  | faultRetry (via : Via) (target : BitVec 2) (index : BitVec 16) (abandon : Bool)
  | checkFeed (via : Via) (crc64 : Bool) (source : BitVec 2) (addr : Word) (length : BitVec 32) (seed : Word)
      (data : List Byte)
  | fence (via : Via) (addr mask : UnitAddr)
  | unfence (via : Via) (addr mask : UnitAddr)
  | contextAbort (via : Via) (p : RungParams)
  | engineReset (via : Via) (p : RungParams)
  | coreFenceAndReset (via : Via) (p : RungParams)
  | partitionReset (via : Via) (p : RungParams)
  | chipComputeReset (via : Via) (p : RungParams)
  | trayPowerCycle (via : Via) (p : RungParams)
  | reopen (via : Via) (gen : BitVec 8) (links : BitVec 16)
  | resetRungStatus (via : Via)
  | autofenceSlot (via : Via) (p : SlotParams)
  | autofenceLimits (via : Via) (chipMax : BitVec 14) (partMax : BitVec 11) (rate : BitVec 16)
  | autofenceStatus (via : Via)
  | testLend (via : Via) (addr mask : UnitAddr)
  | testReclaim (via : Via) (addr mask : UnitAddr)
  | testSlotConfig (via : Via) (maxChip : BitVec 5) (maxCluster : BitVec 2)
  | testRequest (via : Via) (p : TestParams)
  | testCancel (via : Via) (testId : BitVec 16)
  | testStatus (via : Via) (testId : BitVec 16)
  | timeCalStart (via : Via) (root : BitVec 16) (setroot : Bool) (rootGt : Word)
  | timeCalLink (via : Via) (chip : BitVec 16) (port : BitVec 3)
  | timeCalSweep (via : Via)
  | windowOpen (via : Via) (win : BitVec 6) (base size : Word) (aaddr amask : UnitAddr)
  | windowClose (via : Via) (win : BitVec 6)
  | remoteCmd (via : Via) (target : BitVec 16) (notify : Bool) (cmd : BitVec 16) (genchk : Bool) (gen : BitVec 8)
      (timeout : BitVec 32) (inner : List Word)
  | remoteWrite (via : Via) (target : BitVec 16) (genchk : Bool) (gen : BitVec 8) (timeout : BitVec 32)
      (win : BitVec 6) (wgen : BitVec 8) (bytes : BitVec 32) (offset : Word) (data : List Word)
  | protectNonce (via : Via)
  | protectPropose (via : Via) (desc : List Word) (key sig extra : List Byte)
  | protectConfirm (via : Via) (proposalId : BitVec 16) (key sig extra : List Byte)
  | lifecycleAdvance (via : Via) (desc : List Word) (key sig : List Byte)
  | localRead (via : Via) (space : BitVec 2) (offset : BitVec 32) (length : BitVec 12)
  | fuseWrite (via : Via) (item : BitVec 2) (hash : List Byte)
  -- firmware
  | fwGo (wdata : Word) (wstrb : BitVec 8)
  | firmwareReady
  | firmwareWatchdog
  | firmwareStartTimeout
  -- check-value unit 1 and the register window
  | ckCtrlHost (wdata : Word) (wstrb : BitVec 8)
  | ckHostGrant
  | ckStatusRead
  | ckOverrunClear (wdata : Word) (wstrb : BitVec 8)
  | ckRun (wdata : Word) (wstrb : BitVec 8)
  | ckFeedB (wdata : Word) (wstrb : BitVec 8)
  | ckFeedH (wdata : Word) (wstrb : BitVec 8)
  | ckFeedW (wdata : Word) (wstrb : BitVec 8)
  | ckResultRead (result : Bool)
  | timeRateWrite (wdata : Word) (wstrb : BitVec 8)
  | rateErrClear (wdata : Word) (wstrb : BitVec 8)
  | irqStatusClear (wdata : Word) (wstrb : BitVec 8)
  | irqTest (wdata : Word) (wstrb : BitVec 8)
  | registerWrite (addr : BitVec 17) (wdata : Word) (wstrb : BitVec 8)
  -- the core-facing port
  | obsResetRelease (ties : TieOffs)
  | tsCmdBegin (core : CoreIx) (eng : EngIx) (dc : Nat) (ctx layer op : BitVec 16) (seq : BitVec 32)
      (st : BitVec 2) (stall : BitVec 4) (chan : BitVec 18) (endSt : Option (BitVec 2))
  | tsCmdEnd (core : CoreIx) (eng : EngIx) (dc : Nat) (st : BitVec 2)
  | engineStateChange (core : CoreIx) (eng : EngIx) (dc : Nat) (st : BitVec 2) (stall : BitVec 4) (chan : BitVec 18)
  | crockStallEntry (core : CoreIx) (eng : EngIx) (cyc : Nat)
  | programRetire (core : CoreIx) (eng : EngIx) (dc : Nat) (ret : BitVec 2) (br : Bool) (tgt : BitVec 24)
  | progRecordTimeout (core : CoreIx) (eng : EngIx) (cyc : Nat)
  | dataAccess (core : CoreIx) (dc : Nat) (wr : Bool) (size : BitVec 2) (addr : BitVec 32) (data : Word)
  | steeringArrival (core : CoreIx) (dc : Nat) (unit : BitVec 2) (tok dat : Bool) (old : BitVec 6)
  | steeringFire (core : CoreIx) (dc : Nat) (unit : BitVec 2) (tok dat : Bool) (old : BitVec 6)
  | epochChange (core : CoreIx) (dc : Nat) (epoch : BitVec 8)
  | epochRequest (core : CoreIx) (dc : Nat)
  | slotOperation (core : CoreIx) (dc : Nat) (op : BitVec 2) (full : Bool) (slot : BitVec 20) (eng : EngIx)
      (peerCtx : BitVec 16) (peerV : Bool)
  | storeBeat (core : CoreIx) (dc : Nat) (eng : EngIx) (cnt : BitVec 7) (idx : BitVec 32) (data : BitVec 256)
      (scale : BitVec 16)
  | stretchChange (core : CoreIx) (dc : Nat) (active : Bool)
  | gateWarn (core : CoreIx) (dc : Nat) (waits : Bool)
  | coreWake (core : CoreIx) (ret : Bool)
  | coreErrorReport (core : CoreIx) (dc : Nat) (cls : BitVec 2) (n : BitVec 4) (eng : EngIx) (code : BitVec 16)
      (addr : BitVec 32)
  | fenceAck (core : CoreIx) (dc : Nat)
  | fenceAckTimeout (core : CoreIx)
  | abortAck (core : CoreIx) (dc : Nat)
  | stateAccessAck (core : CoreIx) (dc : Nat) (rdata : Word) (err : BitVec 2)
  | stateAccessTimeout (core : CoreIx) (dc : Nat)
  | engineResetAssert (core : CoreIx) (eng : EngIx) (dc : Nat)
  | engineResetRelease (core : CoreIx) (eng : EngIx) (dc : Nat)
  | coreResetAssert (core : CoreIx) (dc : Nat)
  | coreResetRelease (core : CoreIx) (dc : Nat)
  | keepAlive (core : CoreIx) (dc : Nat)
  -- the leaf, the observation link and time
  | clockStopDetect (core : CoreIx) (cyc : Nat)
  | obsLinkWordRead (core : CoreIx) (cyc : Nat)
  | counterCrossing (core : CoreIx) (eng : EngIx) (dc : Nat) (comparator : BitVec 4)
  | timeBeat (obsCycles : List Nat) (hubCycles : Nat) (tpCycles : List Nat)
  | refLostAssert
  | refLostDeassert
  | referenceStopDetect
  | timeExchange (port : BitVec 3) (depart : Nat)
  | timeReqReceive (port : BitVec 3) (exch : BitVec 4) (t1 : Word) (arrive depart : Nat)
  | timeRspReceive (port : BitVec 3) (exch : BitVec 4) (parentState : BitVec 4) (depth : BitVec 8)
      (t1 t2 t3 : Word) (corr : BitVec 32) (arrive : Nat) (preempted : Bool)
  | timeCalTimeout
  -- stops, steps and the cut
  | leafStopArm (core : CoreIx) (cyc : Nat) (cutId : BitVec 32) (n : BitVec 32)
  | shimArmReceive (core : CoreIx) (dc : Nat)
  | shimHoldRaise (core : CoreIx) (dc : Nat)
  | shimStopCycle (core : CoreIx) (dc cyc : Nat)
  | leafCutReport (cluster : ClusterIx) (cutId : BitVec 32)
  | stopWatchdogExpiry (cutId : BitVec 32)
  | cutReportDeadline (cutId : BitVec 32)
  | stepBoundExpiry (cutId : BitVec 32)
  | timeStepRelease (cutId : BitVec 32)
  | resumeRelease (cutId : BitVec 32)
  | rindPacket (link : BitVec 4) (tagged : Bool) (tag : BitVec 20) (reply : Bool) (echo : BitVec 16) (dpart : PartIx)
      (g : GT)
  | rindTxDrop (link : BitVec 4)
  -- the pail
  | pailSampleInstant (set : BitVec 2) (read : Word)
  | pailLeafArm (set : BitVec 2) (core : CoreIx) (cyc : Nat) (n : BitVec 32)
  | pailShimSample (core : CoreIx) (dc cyc : Nat)
  | pailRecordArrival (set : BitVec 2)
  | housekeepingSample
  -- trace and triggers
  | milkRunBeat (part : PartIx)
  | traceSinkWrite
  | traceReadPoll (read : Word)
  | triggerStopRequest
  | crossTriggerRaise
  | crossTriggerDeliver (cluster : ClusterIx) (cyc : Nat)
  -- skim
  | skimElement (cluster : ClusterIx)
  | skimCaptureOpen (cluster : ClusterIx) (cyc : Nat)
  | skimCloseTime (cluster : ClusterIx) (cyc : Nat)
  -- dumps and host memory
  | dumpCreditGrant (part : PartIx)
  | scanPassComplete (core : CoreIx) (chunk : List Word)
  | governorWindow
  | hostMemoryWriteResponse (tag : BitVec 16) (code : BitVec 2)
  | hostMemoryReadBeat (tag : BitVec 16) (beat : List Word) (last : Bool) (code : BitVec 2)
  | hostMemoryTimeout (tag : BitVec 16)
  -- errors
  | errorRecordArrival
  | stormNoticeReceive (cluster : ClusterIx) (cyc : Nat)
  | intakeLogMove (read : Word)
  | coalesceIntervalEnd (cluster : ClusterIx) (cyc : Nat)
  | stormWindowEnd
  | leafSramError (cluster : ClusterIx) (cyc : Nat) (code : BitVec 16) (addr : BitVec 32) (corrected : Bool)
  | hubSramError (code : BitVec 16) (addr : BitVec 32) (corrected : Bool)
  -- hangs
  | waitEdgeRaise (core : CoreIx) (eng : EngIx) (cyc : Nat)
  | waitEdgeReceive
  | knotSweep (read : Word)
  | fallbackResendDone (cluster : ClusterIx)
  | hangAbortTimeout (hangId : BitVec 32)
  -- recovery and self-test
  | rungTimeout (rungId : BitVec 16)
  | partitionResetDone (part : PartIx)
  | chipResetDone
  | resetDoneLower (part : Option PartIx)
  | testSchedulerPass
  | testDeadlineExpiry
  | testSequenceEnd (core : CoreIx) (responses : List (BitVec 32))
  -- Iazan
  | iazanPhyUp (port : BitVec 3)
  | iazanPhyDown (port : BitVec 3)
  | linkFlitReceive (port : BitVec 3) (flit : LinkFlit)
  | linkFlitSend (port : BitVec 3)
  | linkFlitTimeout (port : BitVec 3)
  | checkFailureLimit (port : BitVec 3)
  | iazanFencedRetry (port : BitVec 3)
  | iazanFrameReceive (port : BitVec 3) (lane : Bool) (frame : Frame) (check : BitVec 32) (arrive : GT)
  | iazanFrameAged (port : BitVec 3)
  | floodArm
  | floodCancel
  | floodResume
  | floodStepTime
  | floodChurn (read : Word)
  | floodRecordExpiry
  | triggerFrameReceive
  | linkStatePeriodic
  | linkStateReceive
  | linkStateStale (chip : BitVec 16)
  | avoidEntry
  | remoteReqReceive
  | remoteWriteReceive
  | remoteRspReceive
  | remoteEventReceive
  | trackerTimeout (index : BitVec 14)
  | responseRecordExpiry
  | reportReceive
  | churnDeadline (churnId : BitVec 32)
  | dumpStreamReceive (read : Word)
  | streamRspReceive
  | narrowFrameReceive
  -- events
  | eventRingWrite
  | eventRingReadPoll (read : Word)
  -- the narrow port
  | tapReset
  | testLogicReset
  | captureIr
  | idcode
  | challenge
  | response (bits : List Byte)
  | dwepCapture
  | dwepUpdate (shifted : List Word) (shiftedOutWhole : Bool)
  | dstatus
  | narrowRemoteTimeout (seq : BitVec 16)
  | sessionExpiry
  | lockoutExpiry
  | inclGrantExpiry (platform : Bool)
  -- power
  | aoPowerUp (slots : List (List Word))
  | aoPowerLoss
  | obsPowerUp (ties : TieOffs)
  | partGatedChange (part : PartIx) (gated : Bool)
  | pfWarnRecognise (nvAvail : Bool)
  | retentionRequestRecognise (nvAvail : Bool)
  | nvDurable
  | nvFlushTimeout
  | trayBlockWrite (offset : BitVec 16) (pecOk : Bool)
  | trayBlockRead
  | trayStatusPoll (status : List Byte) (pecOk : Bool)
  | trayTimeout
  | accountWord
  | rindLinksOpen
  | beatsLost (port : Option (BitVec 4)) (cluster : Option ClusterIx)
  | firmwareWatchdogSignal
  | fuseCommit
deriving DecidableEq, Repr

end Sys2Proof
end

