-- ==== Sys2Proof/Machine/StateCore.lean ====
section
/-!
DEFINITION. The state of one chip's block as plain data: the hub, its leaves, its shims and its rind. Every structure
names the rules of spec/ its fields come from; a field's default value is its value at reset (log entry 2 names the
values the manual does not give). Sparse tables are association lists in ascending key order.
-/
namespace Sys2Proof.Machine

/-- A sparse table: ascending keys, no repeats. -/
abbrev Tab (α : Type) := List (Nat × α)

/-- An addressed byte memory: ascending addresses, no entry equal to zero, which is what an unlisted address reads as
(log entry 5). -/
abbrev Mem := List Host.Cell

/-! ## Engines, cores and the tap shim -/

/-- The state an engine holds (R29, Table 01.5). -/
inductive EngState where
  | run | softStopping | stopped | resetting
deriving DecidableEq, Repr

/-- The state a core holds over its engines; `active` when it holds none and reports its engines (R29, R30). -/
inductive CoreState where
  | active | hardStopped | quiet | fenced | stale | resetting
deriving DecidableEq, Repr

/-- The tags captured at a command's begin (R26, R27), with the secure and privileged marks of the context's ATTR as
read at that begin (R155, R287). -/
structure Tags where
  ctx : BitVec 16 := 0
  layer : BitVec 16 := 0
  op : BitVec 16 := 0
  seq : BitVec 32 := 0
  secure : Bool := false
  priv : Bool := false
deriving DecidableEq, Repr

/-- One crock entry, Table 09.4, with the secure mark fixed when the leaf writes it (R287, R573). -/
structure CrockEntry where
  w0 : Word := 0
  w1 : Word := 0
  marked : Bool := false
deriving DecidableEq, Repr

/-- A standing wait edge (R357). `full` is the direction FULL. -/
structure WaitEdge where
  chan : BitVec 18
  full : Bool
  ctx : BitVec 16
  layer : BitVec 16
  gen : BitVec 8
  since : GT
  serial : BitVec 16
deriving DecidableEq, Repr

/-- One program entry (Table 05.5): its 32 bits, the count it carries, the target of its transfer, its instant. -/
structure ProgEntry where
  word : BitVec 32
  count : Nat
  tgt : Option (BitVec 24) := none
  stamp : GT
deriving DecidableEq, Repr

/-- One PROG record being filled (R164): its first entry, the tags it carries, the stamp of its last entry and the leaf's
GT at its first entry. -/
structure ProgOpen where
  entry0 : ProgEntry
  ctx : BitVec 16
  secret : Bool
  stamp : GT
  first : GT
deriving DecidableEq, Repr

/-- One engine, as its shim, its leaf and the hub hold it. -/
structure Engine where
  /-- R29, R31. -/
  st : EngState := .run
  /-- Marked INCOMPLETE under a cut or step (R249, R268). -/
  incomplete : Bool := false
  /-- `ts_eng_hold[e]` (Table 03.1, R103). -/
  hold : Bool := false
  /-- `ts_eng_rst_req[e]` (R114). -/
  rstReq : Bool := false
  /-- `ts_eng_rst_n[e]` as the shim sees it (R83). -/
  rstN : Bool := true
  /-- The command in flight (R88). -/
  cur : Option Tags := none
  /-- Tags of the last command that ended, or of the command before the begin of the present cycle (R132). -/
  last : Option Tags := none
  /-- The core cycle of the last begin (R132, EDGE). -/
  beginCC : Option (BitVec 32) := none
  /-- The present cycle is the last of the command that ended in it, and not yet counted (R88, R131). -/
  counted : Bool := false
  /-- Core cycles since the last one with a command in flight, at most 2 (R132, ENDED). -/
  fresh : Nat := 2
  /-- `ts_eng_state`, `ts_eng_stall`, `ts_eng_chan` as last reported (R86, R87). -/
  rep : BitVec 2 := 0
  stall : BitVec 4 := 0
  chan : BitVec 18 := 0
  /-- CMD_BUSY, CMD_STALL (R129) and their values before the last begin (R131). -/
  cmdBusy : BitVec 48 := 0
  cmdStall : BitVec 48 := 0
  prevBusy : BitVec 48 := 0
  prevStall : BitVec 48 := 0
  /-- In-flight cycles of the command already carried by interim accounts (R133). -/
  accounted : Nat := 0
  /-- The full set, indices 0 to 19 of Table 04.2, and its enable (R124). -/
  full : List (BitVec 48) := List.replicate 20 0
  fullEn : Bool := false
  /-- A run of Table 03.4 row 4 or row 5 is in progress (R96). -/
  violIdle : Bool := false
  violBusy : Bool := false
  /-- COUNTER comparators, bit per comparator, that have pulsed and not been below since (R185). -/
  crossed : BitVec 16 := 0
  /-- Engine generation (R36) and the GT of its advances (R40). -/
  gen : BitVec 8 := 0
  advances : List GT := []
  /-- The generation before the fence or the gating (R108). -/
  oldGen : BitVec 8 := 0
  /-- In the release set of a running step (R104); its command has begun; rounds left of a CONTEXT step. -/
  released : Bool := false
  stepBegun : Bool := false
  rounds : Nat := 0
  /-- The command in flight at that release, whose end is no end of the step (R268); the command of an INCOMPLETE engine
  whose end the cut's record is still to note (R250). -/
  oldCmd : Bool := false
  owed : Bool := false
  /-- Trace gate (R151, R197). -/
  gate : Bool := false
  /-- Program trace: running instruction count, previous target and its stamp, open PROG record (R164). -/
  progCount : Nat := 0
  prevTgt : Option (BitVec 24) := none
  tgtAt : GT := 0
  prog : Option ProgOpen := none
  /-- DISC is due on the engine's next record (Table 02.4). -/
  disc : Bool := false
  /-- The leaf's view: command in flight, reported state, and the stamp at which the state began. -/
  lCur : Option Tags := none
  lRep : BitVec 2 := 0
  lStall : BitVec 4 := 0
  lChan : BitVec 18 := 0
  lSince : GT := 0
  /-- The stamp at which the present stall reason began (R285). -/
  lReason : GT := 0
  /-- The STALL crock entry of the present stall has been written (R285). -/
  stallLogged : Bool := false
  /-- Crock ring, oldest first, its freeze and OVERRUN (R285, R286). -/
  crock : List CrockEntry := []
  frozen : Bool := false
  overrun : BitVec 16 := 0
  /-- The standing wait edge, its serial, and the GT from which BLOCK_GT counts (R357 to R359). -/
  edge : Option WaitEdge := none
  serial : BitVec 16 := 0
  blockFrom : GT := 0
  /-- Named in a declared hang (R106, R371). -/
  named : Bool := false
  /-- Firmware's 64-bit extension: high parts and last top bits of the full set (R148). -/
  extHigh : List (BitVec 15) := List.replicate 20 0
  extMsb : List Bool := List.replicate 20 false
  /-- Per pail set, a cause of the DISC flag of its next record of this engine's full set (R127). -/
  fullDisc : BitVec 4 := 0
deriving DecidableEq, Repr

/-- A word of the observation link (R119, R120). The class is a function of the kind. A QUIET word carries every final value
(R116) and is marked where the leaf synthesised it (R75), a WAKE word takes the leaf's last QUIET stamp as the leaf reads
it. -/
inductive UpKind where
  | keepAlive
  | begin (eng : EngIx) (t : Tags) (held : Bool)
  | fin (eng : EngIx) (t : Tags) (status : BitVec 2) (implicit_ : Bool) (busy stall : BitVec 48) (acct : Nat)
  | account (eng : EngIx) (ctx : BitVec 16) (cycles : Nat)
  | state (eng : EngIx) (st : BitVec 2) (stall : BitVec 4) (chan : BitVec 18)
  | error (eng : EngIx) (t : Option Tags) (cls : BitVec 2) (n : BitVec 4) (code : BitVec 16) (addr : BitVec 32)
  | slotMark (eng : EngIx) (t : Option Tags) (overwrite : Bool) (slot : BitVec 20) (peer : BitVec 16) (peerV : Bool)
  | prog (eng : EngIx) (t : Option Tags) (ret : BitVec 2) (br : Bool) (tgt : BitVec 24)
  | data (eng : EngIx) (t : Option Tags) (wr : Bool) (size : BitVec 2) (addr : BitVec 32) (d : Word)
  | elem (eng : EngIx) (key : Word) (bits : BitVec 32) (scale : BitVec 8)
  | epoch (old new : BitVec 8) (viol : Bool) (tok dat : BitVec 4) (oldtok : BitVec 24)
  | stopped (soft late : BitVec 8) (tok dat : BitVec 4) (old : List (BitVec 6)) (epoch : BitVec 8) (stretch hard : Bool)
    (at_ : Option GT)
  | fired (unit : BitVec 2) (held half : Bool)
  | engStopped (eng : EngIx)
  | stepDone (eng : Option EngIx) (fired : BitVec 4)
  | epochBoundary (epoch : BitVec 8) (old : BitVec 24) (tok dat : BitVec 4)
  | stretchChange
  | gateNotice (inflight : BitVec 8)
  | quiet (inflight : BitVec 8) (busy : BitVec 48) (cc : BitVec 32) (synth : Bool) (finals : List (BitVec 48))
  | wake (ret : Bool) (discarded : Nat) (cc : BitVec 32) (since : Option GT)
  | violation (row : Nat) (eng : Option EngIx) (t : Option Tags) (n : Nat)
  | crossing (cmp : BitVec 4) (eng : EngIx) (t : Option Tags)
  | slotOp (eng : EngIx) (t : Option Tags) (op : BitVec 2) (full : Bool) (slot : BitVec 20)
  | reply (rdata : Word) (code : BitVec 8) (gen : BitVec 8)
  | scanData (words : List Word)
  | drops (cmds : Nat) (progs : List Nat) (datas slots empties overs : Nat) (cls : List Nat) (elems : Nat)
  | stateChange (eng : Option EngIx) (cause old new : BitVec 4) (t : GT)
deriving DecidableEq, Repr

/-- A word with the core cycle of its capture. The link carries the low 12 bits of it, which the leaf extends to the whole
count, a word coming at least every fourth cycle (R119; log entry 83). -/
structure UpWord where
  cc : BitVec 32
  kind : UpKind
deriving DecidableEq, Repr

/-- A word of the downward queue (R121): arms, which the shim reads in rows of their own; state-access requests, step
releases, RESUME, which also starts a TIME step, with its release cycle (R275), and the start of a scan pass. -/
inductive DownWord where
  | stopArm (n : BitVec 32) (hard : Bool) (cutId : BitVec 32)
  | restartArm (cutId : BitVec 32)
  | sampleArm (n : BitVec 32) (set : BitVec 2) (k : Nat)
  | access (wr : Bool) (space : BitVec 4) (eng : EngIx) (addr : BitVec 32) (wdata : Word) (gen : BitVec 8)
  | release (engs : BitVec 8) (units : BitVec 4)
  | run (resume : Bool) (n : Option (BitVec 32))
  | scan
deriving DecidableEq, Repr

/-- The leaf's running map from a core's cycles to stamps (R97): an older reading, a later one at least 4,096 cycles on, and
the last; `n` counts the readings (log entry 83). -/
structure LinkMap where
  n : Nat := 0
  oldCC : BitVec 32 := 0
  oldStamp : GT := 0
  midCC : BitVec 32 := 0
  midStamp : GT := 0
  lastCC : BitVec 32 := 0
  lastStamp : GT := 0
deriving DecidableEq, Repr

/-- What a state access in progress on a core serves: a STATE_READ or STATE_WRITE, a chunk of a dump section (R281, R299),
or nothing any more while its word is still outstanding (R307). -/
inductive AccessFor where
  | command (via : Via)
  | dump (dumpId : BitVec 16) (sect : Nat)
  | nobody
deriving DecidableEq, Repr

/-- A self-test sequence in the shim (R425, R426): the cycle of its start, its patterns and the prefix of its seed. -/
structure TestScan where
  start : BitVec 32
  patterns : Nat
  pre : Word
deriving DecidableEq, Repr

/-- A state access job of one core: the words are issued in ascending order, one request at a time (R281). `gen` is the
generation its replies carry (R108), `now` that of the unit's smallest domain when the job started (R39). -/
structure AccessJob where
  serves : AccessFor
  write : Bool := false
  space : BitVec 4 := 0
  eng : EngIx := 0
  engSpace : Bool := false
  first : Nat := 0
  remaining : Nat := 0
  wdata : List Word := []
  got : List Word := []
  failed : Nat := 0
  firstFail : Nat := 0
  firstCode : BitVec 8 := 0
  gen : BitVec 8 := 0
  now : BitVec 8 := 0
  stale : Bool := false
deriving DecidableEq, Repr

/-- The per-core window count of one autofence slot (R354, R355). -/
structure SlotCount where
  window : Nat := 0
  count : Nat := 0
  fired : Bool := false
deriving DecidableEq, Repr

/-- One core: its shim (retained with the core's power domain, R84), and what its leaf and the hub hold about it. -/
structure Core where
  ties : CoreTie
  /-- R29; `wasFenced` is the state before the running reset (R397). -/
  st : CoreState := .active
  wasFenced : Bool := false
  /-- Core generation, its advances, and the generation before the fence or gating (R36, R40, R108). -/
  gen : BitVec 8 := 0
  advances : List GT := []
  oldGen : BitVec 8 := 0
  engs : List Engine := List.replicate 8 {}
  /-- The free-running core-cycle count CC (chapter 03, "Holds and the stop cycle"). -/
  cc : BitVec 32 := 0
  /-- The light set: CORE_BUSY and the four error counters (Table 04.1), with their extension state (R148). -/
  coreBusy : BitVec 48 := 0
  errs : List (BitVec 48) := List.replicate 4 0
  extHigh : List (BitVec 15) := List.replicate 5 0
  extMsb : List Bool := List.replicate 5 false
  /-- `ts_pw_stretch` (R115). -/
  stretch : Bool := false
  /-- Steering units: token, data, queued old tokens, hold, release set, fired in the step (R92, R101, R104). -/
  tok : BitVec 4 := 0
  dat : BitVec 4 := 0
  old : List (BitVec 6) := List.replicate 4 0
  stHold : BitVec 4 := 0
  stReleased : BitVec 4 := 0
  stNamed : BitVec 4 := 0
  stFired : BitVec 4 := 0
  /-- What the shim has recorded of each steering unit: arrivals of tokens and of data, firings, and whether the last firing
  was half-present (R92, R96). -/
  tokArrivals : List Nat := List.replicate 4 0
  datArrivals : List Nat := List.replicate 4 0
  firings : List Nat := List.replicate 4 0
  halfFired : BitVec 4 := 0
  /-- Epoch, `ts_epoch_hold`, `ts_epoch_req` (R104, R105). -/
  epoch : BitVec 8 := 0
  epochHold : Bool := false
  epochReq : Bool := false
  /-- Port-violation count, saturating (R96). -/
  violations : BitVec 16 := 0
  /-- `ts_abort_req`, `ts_abort_ctx`, and the rung it serves (R113). -/
  abortReq : Bool := false
  abortCtx : BitVec 16 := 0
  /-- Aborts waiting, the one in progress first: the context, and the rung that waits for it (none for a hang's, R380). -/
  abortQ : List (BitVec 16 × Option (BitVec 16)) := []
  /-- The engines that the abort in progress concerns. -/
  abortHeld : BitVec 8 := 0
  /-- `ts_fence`, `ts_fence_ack`, and the GT at which the acknowledgement is overdue (R112, R402). -/
  fence : Bool := false
  fenceAck : Bool := false
  fenceDue : Option GT := none
  /-- `ts_core_rst_req`, `ts_core_rst_n` (R114). -/
  rstReq : Bool := false
  rstN : Bool := true
  /-- The state-access outputs and the job they serve (R107, R108). -/
  saReq : Bool := false
  saWr : Bool := false
  saSpace : BitVec 4 := 0
  saEng : EngIx := 0
  saAddr : BitVec 32 := 0
  saWdata : Word := 0
  saTimedOut : Bool := false
  saSince : BitVec 32 := 0
  saGen : BitVec 8 := 0
  /-- A request that waits for the earliest cycle at which it may be raised (Table 03.6, R108): the request, that cycle. -/
  saNext : Option DownWord := none
  saFrom : BitVec 32 := 0
  /-- A request is on its way, standing, or its reply is on its way (R107). -/
  saBusy : Bool := false
  jobs : List AccessJob := []
  /-- The scan pass in progress: dump, section, pass (R301). -/
  scan : Option (BitVec 16 × Nat × Nat) := none
  /-- The cycle at which the scan sequence of Table 03.7 started. -/
  scanRun : Option (BitVec 32) := none
  /-- The self-test sequence of Table 14.3 that runs. -/
  testScan : Option TestScan := none
  /-- `ts_func_clk_en`, `ts_scan_mode`, `ts_scan_se`, `ts_scan_si` (R102, R110). -/
  funcClkEn : Bool := true
  scanMode : Bool := false
  scanSe : Bool := false
  scanSi : BitVec 32 := 0
  /-- `ts_da_sel`, `ts_so_sel`, `ts_so_en` (R184, R208). -/
  daSel : BitVec 3 := 0
  soSel : BitVec 4 := 0
  soEn : Bool := false
  /-- `ts_pw_gate_warn`, `ts_pw_gate_ok`, QUIET written (by the shim, or by the leaf for it), events discarded since
  (R75, R116, R117). -/
  gateWarn : Bool := false
  gateOk : Bool := false
  quietDone : Bool := false
  discarded : Nat := 0
  /-- The stop arm latched by the shim, holds already raised for it, and the sample arm (R97 to R101, R138). -/
  arm : Option (BitVec 32 × Bool × BitVec 32) := none
  /-- A release that waits for its cycle, and whether it is a RESUME (R275). -/
  runAt : Option (BitVec 32 × Bool) := none
  holdsUp : Bool := false
  /-- `ts_pw_stretch` changed between the arm and N, and the leaf's stamp of that change (R99). -/
  armStretch : Bool := false
  stretchAt : GT := 0
  /-- Sample arms read by the shim: N, the set, k, and whether the arm came at or after N (R138). -/
  sampleArms : List (BitVec 32 × BitVec 2 × Nat × Bool) := []
  /-- The last sample instant of each pail set that the leaf has armed the core for (R138). -/
  pailArmed : List GT := List.replicate 4 0
  /-- The upward queue of 64 entries, and what waits in the shim for the one write of a cycle: words of the control class,
  the buffer of protected words, thinned words; writes already made in cycles that the rows have not counted yet (R119,
  R120). -/
  upQ : List UpWord := []
  upCtl : List UpWord := []
  upBuf : List UpWord := []
  upThin : List UpWord := []
  upAhead : Nat := 0
  /-- Pending drop counts: command events, program words of each engine, data accesses, slot operations, marked ones of
  the two kinds, errors of each class, skim elements (R120). -/
  dropCmds : Nat := 0
  dropProg : List Nat := List.replicate 8 0
  dropData : Nat := 0
  dropSlots : Nat := 0
  dropEmpty : Nat := 0
  dropOver : Nat := 0
  dropErrs : List Nat := List.replicate 4 0
  dropElems : Nat := 0
  /-- The downward queue of 16 entries, what the leaf holds back for it, and whether the shim has read an entry in the
  present cycle (R121). -/
  downQ : List DownWord := []
  downWait : List DownWord := []
  downRead : Bool := false
  /-- The counts behind `tl_ob_wptr`, `tl_ob_rptr`, `tl_cm_wptr` and `tl_cm_rptr` (R122). -/
  obW : BitVec 7 := 0
  obR : BitVec 7 := 0
  cmW : BitVec 5 := 0
  cmR : BitVec 5 := 0
  /-- Errors counted in the present cycle, by class (R131). -/
  errNow : List Nat := List.replicate 4 0
  /-- Core cycles since the last word written (R119). -/
  sinceWord : Nat := 0
  /-- The leaf's view of the link: clock taken as stopped, about-to-gate notice with its INFLIGHT, the stamps of the
  last word and of the last QUIET, and the running map from cycles to stamps (R74, R75, R97). -/
  clockStopped : Bool := false
  gateNotice : Option (BitVec 8) := none
  lastStamp : GT := 0
  map : LinkMap := {}
  /-- The leaf's GT at the last read, less the latency, and the words read then (R119). -/
  readAt : GT := 0
  reads : Nat := 0
  /-- The engine of the last word read where that was an END (R160). -/
  lastFin : Option EngIx := none
  quietStamp : Option GT := none
  /-- Gated for its present interval with its generations already advanced by a rung (R388, R399). -/
  rungWhileGated : Bool := false
  /-- Secure taint (R283), self-test lending (R419), under test (R425). -/
  tainted : Bool := false
  lent : Bool := false
  /-- Per pail set, causes of the flags DISC and LOSS of its next record of the core (Table 04.7). -/
  pailDisc : BitVec 4 := 0
  pailLoss : BitVec 4 := 0
  /-- DISC due on the core's next trace record (Table 02.4). -/
  disc : Bool := false
  /-- Autofence window counts, slots 0 to 3 (R354). -/
  slotCounts : List SlotCount := List.replicate 4 {}
  /-- The cut that claims the core, and the cut under which it is stopped (R243, R35). -/
  claim : Option (BitVec 32) := none
  /-- The core answered for a stopped clock under its cut (R255). -/
  answered : Bool := false
deriving DecidableEq, Repr

/-! ## Time -/

/-- Time states, codes 0 to 3 of Table 02.2. -/
inductive TimeState where
  | free | calibrating | locked | holdover
deriving DecidableEq, Repr

/-- An interpolator (R47 to R49): the last beat's value, its increment with 16 fractional bits, its local value at
that beat, the beats received in a row since it lost validity (0 to 2), and a discontinuity mark that is due. -/
structure Interp where
  beat : GT := 0
  inc : Nat := 0
  local0 : GT := 0
  beats : Nat := 0
  lost : Bool := false
deriving DecidableEq, Repr

/-- One completed time exchange (R59, R61). -/
structure Exchange where
  fwd : Int
  rev : Int
  asym : Int
  /-- The request or the response was pre-empted (R470). -/
  preempted : Bool
deriving DecidableEq, Repr

/-- Who issued a command whose completion is raised later as an event: the event names MAILBOX and SEQ (R502); a
narrow-port command's events go to the port (R550), and those of a relayed one back in NARROW frames (R552); NOTIFY
of a remote command forwards them (R464). -/
structure Owner where
  mailbox : BitVec 4 := 0
  seq : BitVec 16 := 0
  narrow : Bool := false
  notifyChip : Option (BitVec 16) := none
  narrowChip : Option (BitVec 16) := none
  /-- Due from before an entry into basic service: no event is raised for it any more (R506). -/
  silent : Bool := false
deriving DecidableEq, Repr

/-- A calibration this hub runs (R61, R69, R70): MODE, its requester, the child's port, the next exchange, the exchanges
sent and not answered, those answered, and the GT at which START times out. -/
structure Calibration where
  mode : BitVec 2
  via : Option Via
  owner : Owner
  port : BitVec 3
  nextExch : Nat := 0
  sent : List (BitVec 4) := []
  got : List Exchange := []
  deadline : GT := 0
  depth : BitVec 8 := 0xFF
  /-- A retrained link that is no tree link is measured only (R70). -/
  measureOnly : Bool := false
  automatic : Bool := false
  /-- The hub's state before the exchange, taken again if the calibration fails (Table 02.2). -/
  before : TimeState := .free
  lastSend : Option GT := none
  /-- The draw of the free values that stand for what the other hubs report. -/
  draw : Nat := 0
  /-- This hub is the root of the tree: its children exchange, it waits for them (R65, R69). -/
  isRoot : Bool := false
deriving DecidableEq, Repr

/-- The time base and the time registers (R44 to R46, R54, Table 20.10). -/
structure Time where
  acc : BitVec 96 := 0
  rate : BitVec 40 := 0x2800000000
  rateErr : Bool := false
  delay : BitVec 16 := 0
  xlat : BitVec 4 := 3
  asym : List (BitVec 32) := List.replicate 6 0
  state : TimeState := .free
  /-- Ever calibrated since always-on power-up (R54, R56). -/
  calibrated : Bool := false
  refLost : Bool := false
  refStopped : Bool := false
  /-- The time base counts on `th_ao_clk` (R559). -/
  onAo : Bool := false
  diam : Option (BitVec 8) := none
  /-- The chips that the most recent START tree reached (R265). -/
  tree : List (BitVec 16) := []
  depth : BitVec 8 := 0xFF
  root : Bool := false
  parentPort : Option (BitVec 3) := none
  /-- GT still to be added (positive) or withheld (negative) by the slew (R63). -/
  slew : Int := 0
  /-- The GT that the next edge adds or withholds (R63). -/
  adjust : Int := 0
  cal : Option Calibration := none
  /-- Ports whose link has retrained and is still to be calibrated or measured (R70). -/
  retrained : List (BitVec 3) := []
  /-- The last TIME_CAL result (Table 16.10). -/
  result : List Word := []
  /-- The hub's own interpolator and the 16 time ports (R46, R77). -/
  hub : Interp := {}
  tp : List Interp := List.replicate 16 {}
deriving DecidableEq, Repr

end Sys2Proof.Machine
end

