-- ==== Sys2Proof/Machine/StateHub.lean ====
section
/-!
DEFINITION. The hub's own state as plain data: firmware, mailboxes, protection table and fuses, narrow port, events,
error intake, host memory port, Iazan fabric and the power and register groups. A field's default value is its value at
reset (log entry 2 names the values the manual does not give).
-/
namespace Sys2Proof.Machine

/-! ## Principals, protection table and fuses (chapter 17) -/

/-- Table 17.1. -/
inductive Principal where
  | operator | platform | tenant (domain : BitVec 8) | vendor
deriving DecidableEq, Repr

/-- Table 17.2, Table 17.6: the debug levels, ascending. -/
inductive DebugLevel where
  | sealedLevel | observe | invasive
deriving DecidableEq, Repr

/-- Table 17.9, Table 17.11. -/
inductive Lifecycle where
  | manufacture | provision | deployed | returned
deriving DecidableEq, Repr

/-- An INCL grant (Table 17.2, Table 17.10). -/
structure InclGrant where
  scope : BitVec 4
  domain : BitVec 8
  all : Bool
  notAfter : Word
deriving DecidableEq, Repr

/-- The open proposal (R522): its descriptor, proposer, expiry, refused confirmations and, for OPERATOR_KEY and
REDACT_KEY, the extra field the proposer gave. `narrow` says that it was proposed on the narrow port. -/
structure Proposal where
  id : BitVec 16
  kind : BitVec 8
  proposer : BitVec 8
  desc : List Word
  extra : List Byte
  expires : GT
  denials : Nat := 0
deriving DecidableEq, Repr

/-- The fuses (Table 17.3). A committed slot is listed; `opUsed` and `svnUsed` count the slots used, committed or not. -/
structure Fuses where
  lifecycle : Lifecycle := .manufacture
  platformKey : Option (List Byte) := none
  vendorKey : Option (List Byte) := none
  fwKey : Option (List Byte) := none
  opKeys : List (List Byte) := []
  opUsed : Nat := 0
  opRevoked : Bool := false
  svn : List (BitVec 16) := []
  svnUsed : Nat := 0
  redactKey : Option (List Byte) := none
  redactDestroyed : Bool := false
deriving DecidableEq, Repr

/-- A fused write in progress (R511): its value is programmed and its commit bit is not blown. -/
inductive FuseItem where
  | platformKey (hash : List Byte)
  | vendorKey (hash : List Byte)
  | fwKey (hash : List Byte)
  | opKey (hash : List Byte)
  | svn (floor : BitVec 16)
  | redact (key : List Byte)
  | lifecycle (next : Lifecycle)
deriving DecidableEq, Repr

structure FuseWrite where
  item : FuseItem
  via : Via
deriving DecidableEq, Repr

/-- The protection table (Table 17.2) and the 16-bit proposal sequence (R613). -/
structure Protect where
  domains : List (BitVec 8) := []
  /-- Mailboxes 0 to 15 (R508). -/
  bindings : List (Option Principal) :=
    [some .operator] ++ List.replicate 14 none ++ [some .platform]
  debug : DebugLevel := .invasive
  inclOp : Option InclGrant := none
  inclPl : Option InclGrant := none
  proposal : Option Proposal := none
  nonces : List (BitVec 128 × GT) := []
  /-- Consecutive narrow-port failures, saturating, and the end of a lockout (R535). -/
  fails : BitVec 8 := 0
  lockedUntil : Option GT := none
  nextProposal : BitVec 16 := 1
deriving DecidableEq, Repr

/-! ## Mailboxes and firmware (chapter 16) -/

/-- A command that was TAKEN and is not answered: its path, code, SEQ and NOTIFY, the principal and the debug level
under which it was taken (R488, R489, R516), and the command row its parameters spell (R485). -/
structure Taken where
  via : Via
  cmd : BitVec 16
  seq : BitVec 16
  notify : Bool
  who : Option Principal
  debug : DebugLevel
  instr : Option Instr
  /-- LEN, CHECK or a parameter is malformed; whether it is CHECK (R487). -/
  bad : Option Bool := none
  /-- The command runs; its completion is still to come. -/
  running : Bool := false
deriving DecidableEq, Repr

/-- The torus coordinates and dimensions minus 1 (R492). -/
structure Coord where
  x : BitVec 6
  y : BitVec 5
  z : BitVec 5
  dimx : BitVec 6
  dimy : BitVec 5
  dimz : BitVec 5
deriving DecidableEq, Repr

structure Mailboxes where
  /-- The 16 mailbox pages, byte address `0x1000 * m + offset` (R481). -/
  mem : Mem := []
  /-- Protocol level of each mailbox in the retention SRAM, 0 for none (R490). -/
  levels : List (BitVec 8) := List.replicate 16 0
  /-- A HELLO has completed since observation reset (R487). -/
  hello : List Bool := List.replicate 16 false
  /-- The coordinates in the retention SRAM (R492). -/
  coord : Option Coord := none
  taken : List Taken := []
deriving DecidableEq, Repr

/-- `FW_STATUS.STATE`, Table 16.2, in code order. -/
inductive FwState where
  | absent | loading | running | rejectedFormat | rejectedKey | rejectedVersion | rejectedSig | sramFault | failed
deriving DecidableEq, Repr

structure Firmware where
  state : FwState := .absent
  /-- `FW_BASE.BASE` and the value latched by GO (R603). -/
  base : BitVec 52 := 0
  latched : BitVec 52 := 0
  /-- The load in progress: its number, so that reads of an abandoned load are not taken, the header and the body read
  so far, and the reads still outstanding (R476). -/
  load : Nat := 0
  header : List Word := []
  pieces : Tab (List Word) := []
  awaited : Nat := 0
  /-- The instruction RAM and the data RAM below 256 KiB as step 3 leaves them; the rest of each is zero (R476). -/
  iram : List Word := []
  dram : List Word := []
  /-- Started at ENTRY; the GT of the start and of the last watchdog signal (R480). -/
  started : Bool := false
  startGt : GT := 0
  lastSignal : GT := 0
  /-- Of the image that last reached RUNNING (R603). -/
  major : BitVec 16 := 0
  minor : BitVec 16 := 0
  /-- The layout version stored in the state area by the firmware that last used it (R479). -/
  stateVer : Option (BitVec 16) := none
deriving DecidableEq, Repr

/-! ## Narrow port (chapter 18) -/

/-- A frame waiting for output: its words with trailer, whether it is an event, and the key of the open request whose
response it is; none for an event and for the answer of a request that was not taken. -/
structure OutFrame where
  words : List Word
  event : Bool
  closes : Option (BitVec 16) := none
deriving DecidableEq, Repr

/-- An open request (R547), or the origin's record of a relayed one (R551). -/
structure OpenReq where
  /-- The debugger's SEQ, and the number under which the model holds the request: SEQ itself unless an open request has it. -/
  seq : BitVec 16
  key : BitVec 16 := seq
  cmd : BitVec 16 := 0
  /-- Relayed: destination, tracker index and the GT of the timeout. -/
  remote : Option (BitVec 16 × Nat × GT) := none
  /-- Taken in a session that has ended: it completes without a response (R550). -/
  dead : Bool := false
  /-- The response is ready or was put in the output queue. -/
  answered : Bool := false
deriving DecidableEq, Repr

structure Narrow where
  /-- The session's level, principal and end (R532, R535). In MANUFACTURE it is INVASIVE, Platform. -/
  level : DebugLevel := .invasive
  who : Option Principal := some .platform
  until_ : Option GT := none
  /-- The challenge last read: its 8 words and the GT at which its nonce ceases to be valid (R534). -/
  challenge : Option (List Word × GT) := none
  respResult : BitVec 8 := 0
  /-- The instruction register's captured value, the captured data register and the instruction selected (R539). -/
  irCapture : BitVec 8 := 0
  drCapture : List Word := []
  ir : BitVec 8 := 0x01
  outQ : List OutFrame := []
  /-- The frame loaded by the Capture-DR of the pass in progress (R546). -/
  offered : Option OutFrame := none
  repeatNext : Bool := false
  lastReleased : Option OutFrame := none
  open_ : List OpenReq := []
  full : Bool := false
  evdrop : Bool := false
  discarded : BitVec 8 := 0
deriving DecidableEq, Repr

/-! ## Events (chapter 16) -/

/-- An event of Table 16.12 as the queue holds it (Table 16.11). -/
structure Event where
  code : BitVec 16
  result : BitVec 8
  seq : BitVec 16
  mailbox : BitVec 4
  remote : Bool
  basic : Bool
  line : BitVec 2
  stamp : GT
  origin : BitVec 16
  number : BitVec 32
  payload : List Word
deriving DecidableEq, Repr

/-- What the ring writer is waiting for (R500, R591): the response to the write of the control block, of an entry, or
of the WRITE offset past an entry of a line. -/
inductive RingWait where
  | control | entry (line : BitVec 2) | pointer (line : BitVec 2) | read
deriving DecidableEq, Repr

structure Events where
  queue : List Event := []
  number : BitVec 32 := 0
  /-- DROPPED, and the drops since the last OVERFLOW with the GT of the first and the last (R501). -/
  dropped : Word := 0
  overflow : Option (Nat × GT × GT) := none
  /-- The ring's setting in the retention SRAM (R498). -/
  base : BitVec 52 := 0
  log2 : BitVec 6 := 0
  enabled : Bool := false
  write : Nat := 0
  read : Nat := 0
  wait : Option RingWait := none
  /-- The event whose entry or WRITE is in flight: back at the head of the queue where the ring faults or is set anew. -/
  flying : Option Event := none
  /-- Writes are held after a ring fault until the next EVENT_RING_SET (R503). -/
  held : Bool := false
  line : BitVec 4 := 0
  en : BitVec 4 := 0
  ringFault : Bool := false
deriving DecidableEq, Repr

/-! ## Error intake (chapter 11) -/

/-- An error record, Table 11.3. -/
structure ErrRec where
  w0 : Word
  w1 : Word
  w2 : Word
  w3 : Word
  /-- Attributed to a secure or privileged context (R518, R573). -/
  marked : Bool := false
deriving DecidableEq, Repr

structure Errors where
  /-- Records on their way from the leaves to the intake queue, oldest first (R347). -/
  flight : List ErrRec := []
  queue : List ErrRec := []
  /-- Intake log, oldest first, with the header counts of Table 11.5 (R351, R352). -/
  log : List ErrRec := []
  logged : BitVec 32 := 0
  replaced : BitVec 32 := 0
  storms : BitVec 32 := 0
  stormGt : GT := 0
  storm : Bool := false
  /-- Storm window: its start, the records that reached the queue in it, quiet windows in a row, SUMMARY records
  written since entry (R347 to R350). -/
  winStart : GT := 0
  winRecords : Nat := 0
  quiet : Nat := 0
  summaries : Nat := 0
deriving DecidableEq, Repr

/-! ## Host memory port (chapter 20) -/

/-- The governor's classes in serving order (R303). -/
inductive GovClass where
  | ring | pail | crash | capture | trace
deriving DecidableEq, Repr

/-- What an outstanding request of the host memory port serves. -/
inductive Purpose where
  | fwImage (load piece : Nat)
  | eventControl
  | eventEntry (line : BitVec 2)
  | eventPointer (line : BitVec 2)
  | eventRead
  | pailData (set : BitVec 2)
  | pailPointer (set : BitVec 2)
  | pailControl (set : BitVec 2)
  | pailRead (set : BitVec 2)
  | dumpData (dumpId : BitVec 16) (sect : Nat) (bytes : Nat)
  | dumpHeader (dumpId : BitVec 16) (sect : Nat)
  | dumpPointer (region : BitVec 4)
  | traceData
  | tracePointer
  | traceControl
  | traceRead
  | checkFeed (via : Via) (piece : Nat)
  | chanmap (via : Via) (piece : Nat)
  | window (src : BitVec 16) (tag : BitVec 24) (win : BitVec 6)
  | stream (src : BitVec 16) (tag : BitVec 24) (churn : BitVec 32)
  | nobody
deriving DecidableEq, Repr

/-- A request: `tag` is channel [9:8] and `hm_a_tag` [7:0]. Write data is kept until the write is acknowledged. -/
structure HmReq where
  tag : BitVec 16 := 0
  purpose : Purpose
  cls : GovClass
  wr : Bool
  phys : Bool := false
  dom : BitVec 8 := 0
  addr : Word
  /-- Bytes moved, and write data as 64-bit words. -/
  bytes : Nat
  data : List Word := []
  /-- `hm_w_be` where not every byte is written. -/
  be : Option (BitVec 64) := none
  issued : GT := 0
  got : List Word := []
deriving DecidableEq, Repr

structure HostMem where
  out : List HmReq := []
  /-- Requests waiting for the governor, in order of arrival (R302). -/
  waiting : List HmReq := []
  /-- Tags whose request was taken as an error after 1 ms and not reissued (R590). -/
  lateTags : List (BitVec 16) := []
  /-- The present window of 4,000 GT and the bytes issued in it (R302). -/
  window : Nat := 0
  used : Nat := 0
  /-- The bytes of them that dumps have written (R335). -/
  dumped : Nat := 0
  /-- DECL_BW and SHARE (R302). -/
  declBw : Nat := 1000
  share : Nat := 200
deriving DecidableEq, Repr

/-! ## Iazan fabric (chapter 15) -/

/-- R444, Table 16.8. -/
inductive PortState where
  | down | training | live | fenced
deriving DecidableEq, Repr

/-- A frame waiting at an output port for credits, with its class, lane and the GT since which it waits. -/
structure TxFrame where
  frame : Frame
  cls : BitVec 2
  lane : Bool
  since : GT
deriving DecidableEq, Repr

structure IzPort where
  mode : BitVec 2 := 0
  phy : Bool := false
  st : PortState := .down
  level : BitVec 4 := 0
  neighbour : BitVec 16 := 0
  navoid : Bool := false
  /-- Bring-up: valid link flits in a row, the neighbour check passed, link flits sent and received since (R445). -/
  rxFlits : Nat := 0
  checked : Bool := false
  /-- The level the check settled on (R445). -/
  agreed : BitVec 4 := 0
  txAfter : Nat := 0
  rxAfter : Nat := 0
  fencedAt : GT := 0
  lastFlit : GT := 0
  lastSent : GT := 0
  /-- The last link flit sent (Table 15.4). -/
  sentFlit : Option LinkFlit := none
  /-- The port has been LIVE since observation reset (R70). -/
  everLive : Bool := false
  /-- GT of the check failures of frames and link flits in the current window (R444). -/
  failures : List GT := []
  /-- `iz_retrain` pulses given (R435). -/
  retrainPulses : Nat := 0
  /-- HOPSEQ of the next frame sent and of the next frame expected; unacknowledged frames with their HOPSEQ (R441, R442);
  a frame has been rejected and its retransmission is awaited; a NAK is due. -/
  txSeq : BitVec 16 := 0
  rxSeq : BitVec 16 := 0
  replay : List (BitVec 16 × TxFrame) := []
  rejecting : Bool := false
  nakDue : Bool := false
  /-- Credits held and flits freed since the last link flit, index 2c + l (R443). -/
  credits : List Nat := [16, 16, 16, 16, 128, 128, 128, 128]
  freed : List Nat := List.replicate 8 0
  txQ : List TxFrame := []
  /-- The flits of the last frame, or the last link flit, put on the transmit interface, or those a NAK had resent (R435,
  R438, R442). -/
  tx : List (List Word) := []
  checkFail : BitVec 32 := 0
  nak : BitVec 32 := 0
  retrain : BitVec 32 := 0
  aged : BitVec 32 := 0
  hopsDrop : BitVec 32 := 0
  badType : BitVec 32 := 0
  dupFlood : BitVec 32 := 0
  versionDrop : BitVec 32 := 0
deriving DecidableEq, Repr

/-- A frame received for this hub and not yet acted on: its arrival port (none for a flood of this hub's own), the
hub's GT when its first flit crossed the receive interface (R468). -/
structure InFrame where
  port : Option (BitVec 3)
  frame : Frame
  arrive : GT
deriving DecidableEq, Repr

/-- A link-state entry of one chip (R454): port states, levels and neighbour AVOID, the chip's AVOID, sequence number
and the GT at which it was last heard. -/
structure LinkEntry where
  ports : List (BitVec 2 × BitVec 2 × Bool)
  avoid : Bool
  seq : BitVec 16
  heard : GT
deriving DecidableEq, Repr

/-- What a tracker entry waits for (R463). -/
inductive TrackFor where
  | remote (via : Via)
  | stream (dump : BitVec 16) (sect : Nat) (header : Bool)
  | narrow (seq : BitVec 16)
deriving DecidableEq, Repr

structure TrackEntry where
  use : BitVec 10
  target : BitVec 16
  purpose : TrackFor
  deadline : GT
deriving DecidableEq, Repr

/-- A response kept under R465. -/
structure RespRec where
  src : BitVec 16
  tag : BitVec 24
  /-- None while the request is still running. -/
  frame : Option Frame
  at_ : GT
deriving DecidableEq, Repr

/-- A remote window (R466 to R468). -/
structure Window where
  wgen : BitVec 8 := 0
  isOpen : Bool := false
  everOpened : Bool := false
  closedAt : GT := 0
  base : Word := 0
  size : Word := 0
  aaddr : UnitAddr := 0
  amask : UnitAddr := 0
  /-- Admitted writes not completed; the WINDOW_CLOSE that waits for them. -/
  admitted : Nat := 0
  closing : Option Via := none
  completed : Nat := 0
  rejected : Nat := 0
deriving DecidableEq, Repr

structure Iazan where
  ports : List IzPort := List.replicate 6 {}
  avoid : Bool := false
  fseq : BitVec 16 := 0
  floods : List (BitVec 16 × BitVec 16 × GT) := []
  links : Tab LinkEntry := []
  linkSeq : BitVec 16 := 0
  lastLinkFlood : GT := 0
  local_ : List InFrame := []
  tracker : Tab TrackEntry := []
  useCount : Tab (BitVec 10) := []
  nextIndex : Nat := 0
  lateRsp : BitVec 32 := 0
  responses : List RespRec := []
  windows : List Window := List.replicate 64 {}
  /-- Parts of a window write or of a streamed frame that host memory refused: the request and the code (R468, R472). -/
  badParts : List (BitVec 16 × BitVec 24 × BitVec 8) := []
  /-- Floods CANCEL ignored at or after T (Table 15.8), and floods TIME_REQ or transit frames dropped for want of a
  route or an address outside the torus (R447, R450, R451). -/
  cancelIgnored : Nat := 0
  transitDrops : Nat := 0
  /-- Writes dropped and counted as WINDOW_CLOSED are counted in their window; time answers given (R72). -/
  timeAnswers : Nat := 0
deriving DecidableEq, Repr

end Sys2Proof.Machine
end

