-- ==== Sys2Proof/Machine/StateUnits.lean ====
section
/-!
DEFINITION. The units between the cores and the hub as plain data: leaves with their trace streams, comparator blocks and
skim engines, and the hub's engines: pail, trace sink, cuts, dumps, hang walker, rungs, self-test, power.
-/
namespace Sys2Proof.Machine

/-! ## The pail (chapter 04) -/

/-- A sampled record on its way to the hub (R138 to R141): the counters as read, before the hub extends and lays them out.
`engs` holds (engine, full set, command words, DISC) of the engines included. -/
structure PailRec where
  set : BitVec 2
  k : Nat
  core : Nat
  gen : BitVec 8
  skew : Int
  disc : Bool := false
  loss : Bool := false
  quiet : Bool := false
  stale : Bool := false
  absent : Bool := false
  late : Bool := false
  light : List (BitVec 48) := []
  engs : List (Nat × List (BitVec 48) × List Word) := []
deriving DecidableEq, Repr

/-- A sample that is open: its k and instant, units expected, records written and the bytes of its ring area used. -/
structure OpenSample where
  k : Nat
  instant : GT
  expected : Nat
  records : Nat := 0
  offset : Nat
deriving DecidableEq, Repr

structure PailSet where
  cfg : Option PailParams := none
  /-- The Tenant domain that configured the set, 0 for the Operator's or the Platform's (R147, R588). -/
  domain : BitVec 8 := 0
  /-- A configuration that waits for the open sample to close: its domain, whether a mailbox gave it, the hub's GT at its
  acceptance (Table 04.6, R137). -/
  next : Option (PailParams × BitVec 8 × Bool × GT) := none
  /-- Configured through a mailbox (R516). -/
  mailbox : Bool := true
  nextK : Nat := 0
  sample : Option OpenSample := none
  /-- Instants skipped since the last start record, and word 2 of the ring (R137, R143). -/
  missed : Nat := 0
  skipped : Nat := 0
  write : Nat := 0
  read : Nat := 0
  /-- The last sample has filled the ring exactly, so that equal offsets stand for no free space (R143; log entry 90). -/
  full : Bool := false
  /-- Writes not answered; the offset to publish once they are (R143, R591). -/
  unanswered : Nat := 0
  publish : Option Nat := none
  /-- Stopped by a fault at this address until FAULT_RETRY (R145). -/
  fault : Option Word := none
deriving DecidableEq, Repr

structure Pail where
  sets : List PailSet := List.replicate 4 {}
  flight : List PailRec := []
deriving DecidableEq, Repr

/-! ## Trace (chapter 05) -/

/-- A trace record before its DELTA is known: its stamp, whether it is in the stamp chain, word 0 with DELTA zero, the words
after it, and the program entries of a PROG or PROG_FULL. -/
structure TRec where
  stamp : GT
  chain : Bool
  w0 : Word
  rest : List Word
  entries : List ProgEntry := []
deriving DecidableEq, Repr

/-- A pending LOST record (R168, R169). -/
structure Lost where
  first : GT
  last : GT
  count : Nat
  kinds : Nat
deriving DecidableEq, Repr

/-- The stream of one leaf (R162 to R168). -/
structure Stream where
  /-- Records waiting for the merge, by stamp (R165). -/
  merge : List TRec := []
  running : GT := 0
  sinceFull : Nat := 0
  /-- The stamp of the stream's last FULL_STAMP (R164). -/
  lastFull : GT := 0
  /-- The engines, by unit address, whose target a record since that FULL_STAMP gives (R164 step 4). -/
  known : List Nat := []
  /-- The FULL_STAMP of a session's start is due before the first record stamped from here on (R162). -/
  startDue : Option GT := none
  lost : Option Lost := none
  /-- The output buffer: records with their final words (R166). -/
  out : List (List Word) := []
deriving DecidableEq, Repr

/-- What the hub holds about one stream (R169). -/
structure HubStream where
  running : GT := 0
  lost : Option Lost := none
  resync : Bool := false
deriving DecidableEq, Repr

structure Trace where
  enabled : Bool := false
  cfg : Option TraceParams := none
  /-- The principal that configured the session (R153) and started it through a mailbox (R516). -/
  owner : Option Principal := none
  mailbox : Bool := false
  start : GT := 0
  startState : BitVec 4 := 0
  /-- Bytes of the on-chip buffer the session may use (R170, R175). -/
  capacity : Nat := 8388608
  /-- The on-chip buffer of the ONCHIP sinks (R170). -/
  buf : Mem := []
  write : Nat := 0
  read : Nat := 0
  wrapped : Bool := false
  dropped : Word := 0
  /-- Records on the milk runs that have reached the hub, with their cluster (R166). -/
  hubQ : List (Nat × List Word) := []
  streams : Tab HubStream := []
  /-- Next leaf served by each partition's milk run (R166). -/
  milkNext : List Nat := List.replicate 8 0
  /-- HOST: staged records, how many of them are being written, the writes not answered, the offset to publish, the
  fault address (R172 to R174). -/
  staged : List (List Word) := []
  sending : Nat := 0
  unanswered : Nat := 0
  publish : Option Nat := none
  fault : Option Word := none
  /-- Hub GT when the last session ended (Table 10.3). -/
  endGt : GT := 0
  /-- The control block of the ring is still to be written (R174). -/
  ctlDue : Bool := false
  /-- The session has ended and its last records are on their way to the sink; the TRACE_CONFIG that waits for them (R176). -/
  stopping : Bool := false
  ending : Option Via := none
deriving DecidableEq, Repr

/-! ## Triggers (chapter 06) -/

/-- One sequencer: present state, counter, the latches (bit per source), the discards, the GT of its last event (R192 to
R198). -/
structure Seq where
  state : Nat := 0
  counter : BitVec 32 := 0
  latch : BitVec 40 := 0
  drops : BitVec 16 := 0
  lastEvent : Option GT := none
deriving DecidableEq, Repr

/-- A leaf block of 196 words (R205) with the principal that loaded it and whether it came by a mailbox. -/
structure LeafBlock where
  words : List Word := []
  owner : Option Principal := none
  mailbox : Bool := false
  dsel : BitVec 3 := 0
deriving DecidableEq, Repr

/-- The triggers of one leaf (R179, R189, R206): the block in force in merge order, and the block last loaded. -/
structure Trig where
  block : LeafBlock := {}
  newest : LeafBlock := {}
  seqs : List Seq := List.replicate 4 {}
  readEmpty : BitVec 32 := 0
  overFull : BitVec 32 := 0
  missed : List (BitVec 32) := List.replicate 16 0
  derived : BitVec 32 := 0
deriving DecidableEq, Repr

/-- An event that the leaf has stamped and not yet evaluated in merge order (R165, R194): a word of a core's link, a
cross-trigger pulse with its channel, SRC and ORIGIN, the advance of a generation (UNIT, DOMAIN, RUNG, the old one), the
start, the replacement or the end of the trace session (R152, R176), or the load of a leaf block (R206). -/
inductive LeafEvent where
  | word (core : Nat) (k : UpKind)
  | pulse (channel src : Nat) (origin : BitVec 16)
  | gen (unit : BitVec 16) (domain rung : Nat) (old : BitVec 8)
  | session (p : Option TraceParams)
  | load (b : LeafBlock)
deriving DecidableEq, Repr

/-- A STOP request on its way to the hub (R196, R200). -/
structure StopAsk where
  cluster : Nat
  seq : Nat
  state : Nat
  value : BitVec 16
  stamp : GT
  scope : Nat
  hard : Bool
  t : GT
  owner : Option Principal
  mailbox : Bool
deriving DecidableEq, Repr

/-- A cross-trigger channel (R201 to R203). -/
structure Channel where
  caddr : UnitAddr := 0
  cmask : UnitAddr := 0xFFFFFFFF
  loaded : Bool := false
  haddr : UnitAddr := 0
  hmask : UnitAddr := 0
  chips : Bool := false
  last : Option GT := none
  merged : Nat := 0
deriving DecidableEq, Repr

structure Triggers where
  channels : List Channel := List.replicate 8 {}
  stops : List StopAsk := []
  /-- Raises on their way to the hub: channel, G, the origin chip of a trigger frame, and the frame as received where
  one came. -/
  raises : List (Nat × GT × Option (BitVec 16)) := []
  /-- Deliveries on their way to a leaf: cluster, channel, SRC, ORIGIN. -/
  deliveries : List (Nat × Nat × Nat × BitVec 16) := []
deriving DecidableEq, Repr

/-! ## Skim (chapter 07) -/

/-- An element on its way through the leaf's skim input queue (R212). -/
structure SkimElem where
  core : Nat
  eng : EngIx
  key : Word
  bits : BitVec 32
  scale : BitVec 8
  stamp : GT
deriving DecidableEq, Repr

inductive SkimPhase where
  | waiting | loaded | isOpen | closed
deriving DecidableEq, Repr

/-- A capture and its record (R216 to R234). MIN and MAX are kept as (integer, exponent of two, key). -/
structure Capture where
  p : SkimParams
  who : Option Principal
  mailbox : Bool
  owner : Owner
  phase : SkimPhase
  openAt : GT := 0
  /-- The closing instant that is due, its cause, and the hub's time state at that instant once it has come (R229, R234). -/
  closeAt : Option (GT × BitVec 4 × Option (BitVec 4)) := none
  endCause : BitVec 4 := 0
  endGt : GT := 0
  endState : BitVec 4 := 0
  count : BitVec 32 := 0
  zero : BitVec 32 := 0
  subnorm : BitVec 32 := 0
  pinf : BitVec 32 := 0
  ninf : BitVec 32 := 0
  nan : BitVec 32 := 0
  dropped : BitVec 32 := 0
  /-- Elements dropped while a TRIGGER capture waits for its instant, with their stamps (R228). -/
  early : List (GT × Nat) := []
  under : BitVec 32 := 0
  above : BitVec 32 := 0
  least : Option (Int × Int × Word) := none
  most : Option (Int × Int × Word) := none
  sumsq : Word := 0
  sumsqC : Word := 0
  sum : BitVec 160 := 0
  sketch : List (BitVec 160) := List.replicate 8 0
  hist : List (BitVec 32) := List.replicate 64 0
  late : Bool := false
  gap : Bool := false
  scaleNan : Bool := false
  multi : Bool := false
  reset : Bool := false
  incomparable : Bool := false
  first : Option (Nat × EngIx) := none
deriving DecidableEq, Repr

structure Skim where
  cap : Option Capture := none
  queue : List SkimElem := []
deriving DecidableEq, Repr

/-! ## Leaf errors (chapter 11) -/

/-- Coalescing and storm state of one leaf (R345, R346, R348): the open interval, the storm latch, the counts of the present
storm window by class. -/
structure LeafErr where
  start : Option GT := none
  last : GT := 0
  cores : BitVec 16 := 0
  counts : List Nat := List.replicate 4 0
  storm : Bool := false
  latch : Option ErrRec := none
  window : List Nat := List.replicate 4 0
deriving DecidableEq, Repr

/-! ## Cuts and steps (chapter 08) -/

inductive StepForm where
  | command | context | firing
deriving DecidableEq, Repr

/-- A running step of FORM COMMAND, CONTEXT or FIRING (R267 to R274). -/
structure StepRun where
  num : Nat
  form : StepForm
  ctx : BitVec 16 := 0
  rounds : Nat := 0
  bound : Nat
  steer : BitVec 4 := 0
  owner : Owner
  release : GT
  /-- Released engines without an outcome, with the GT at which their bound ends; cores whose steering has none. -/
  engs : List (Nat × Nat × GT) := []
  fires : List Nat := []
  no : Bool := false
  incomplete : Bool := false
  epoch : Bool := false
  late : Bool := false
  /-- The units released, whatever their outcome: engines, and the cores whose steering units `steer` names (R274). -/
  relEngs : List (Nat × Nat) := []
  relCores : List Nat := []
  /-- Clusters for which an epoch boundary has ended the step (R272). -/
  ended : List Nat := []
deriving DecidableEq, Repr

/-- A compute link in a cut (Table 08.4 words 8 to 23). -/
structure CutLink where
  leaked : Bool := false
  held : BitVec 20 := 0
  untagged : BitVec 20 := 0
deriving DecidableEq, Repr

/-- The record of a cut and what the hub, its leaves and its rind hold about it (R243 to R265). -/
structure Cut where
  id : BitVec 32
  addr : UnitAddr
  mask : UnitAddr
  hard : Bool
  t : GT
  watchdog : Nat
  accept : GT
  owner : Owner
  /-- This hub originated it; it names cores of another chip. -/
  origin : Bool
  system : Bool
  /-- Present cores the cut names on this chip; those not armed or answered for; those whose stop the leaf has not read;
  engines SOFT_STOPPING by the leaf's word; cores the cut has stopped and not released. -/
  cores : List Nat
  unarmed : List Nat
  unheard : List Nat
  soft : List (Nat × Nat) := []
  stopped : List Nat := []
  excluded : List Nat := []
  /-- Cores that left the cut by the reset of an engine: complete for it, and still to be released (R263). -/
  left : List Nat := []
  /-- Clusters that have not reported their part, and those whose report is on its way. -/
  leaves : List Nat
  reports : List Nat := []
  watchdogDone : Bool := false
  timeState : Option (BitVec 4) := none
  done : Option GT := none
  complete : Bool := false
  consistent : Bool := true
  unverified : Bool := false
  unaligned : Bool := false
  stretch : Bool := false
  rind : Bool := true
  truncated : Bool := false
  cancelled : Bool := false
  answered : Bool := false
  engStopped : Nat := 0
  /-- Engines found late, each once (Table 08.4). -/
  lates : List (Nat × Nat) := []
  engIncomplete : Nat := 0
  coresExcluded : Nat := 0
  coresHard : Nat := 0
  maxSkew : Int := 0
  total : Nat := 0
  entries : List Word := []
  /-- An entry of kind HALF_PRESENT, CARRIED, EPOCH was due (Table 08.5, R272). -/
  half : Bool := false
  carried : Bool := false
  epoch : Bool := false
  /-- Clusters whose TIME step an epoch boundary has ended (R272). -/
  epochs : List Nat := []
  links : List CutLink := List.replicate 16 {}
  /-- At the origin: chips named besides this one, those that reported, late and incomplete ones, those refused. -/
  named : List (BitVec 16) := []
  reported : List (BitVec 16) := []
  chipsLate : Nat := 0
  chipsIncomplete : Nat := 0
  refused : Nat := 0
  missing : Nat := 0
  step : Option StepRun := none
  /-- Releases that wait: set, instant, issuer (none for a flood's), and the new cut for a TIME step. -/
  resumes : List (UnitAddr × UnitAddr × GT × Option Owner) := []
  timeStep : Option (BitVec 32 × UnitAddr × UnitAddr × GT) := none
  /-- The step that armed this cut, where one did: its number and its issuer (R271). -/
  byStep : Option (Nat × Owner) := none
  /-- Armed by a TIME step, of this hub or by flood. -/
  timed : Bool := false
  /-- Who the cut acts for (R278, R200). -/
  who : Option Principal := none
deriving DecidableEq, Repr

structure Cuts where
  active : List Cut := []
  /-- Ended records, the most recent first (R262). -/
  ended : List Cut := []
  next : BitVec 16 := 1
  stepNum : Nat := 1
deriving DecidableEq, Repr

/-- One compute link at the rind (R79, R256 to R259, R410): the low tag it last passed, the cut that holds it, and counts. -/
structure RindLink where
  lastTag : Option (BitVec 20) := none
  lastG : GT := 0
  held : Bool := false
  /-- Closed from observation reset (R411). -/
  closed : Bool := true
  /-- Verdict of the last packet: 0 PASS, 1 HOLD, 2 DROP. -/
  verdict : BitVec 2 := 0
  /-- `rp_release` pulses given (R595). -/
  releases : Nat := 0
  closedDrop : BitVec 24 := 0
  genDrop : BitVec 24 := 0
deriving DecidableEq, Repr

structure Rind where
  links : List RindLink := List.replicate 16 {}
deriving DecidableEq, Repr

/-! ## Wait edges on their way (chapter 12) -/

/-- An edge or a withdrawal on a milk run control beat (R357, R358, R360). -/
inductive EdgeMsg where
  | edge (core eng : Nat) (e : WaitEdge)
  | withdraw (core eng : Nat) (gen : BitVec 8) (serial : BitVec 16)
deriving DecidableEq, Repr

/-- A hang report (Tables 12.5, 12.6): its header with the words that change kept apart, and its entries of 3 words. -/
structure HangReport where
  id : BitVec 32
  kind : Nat
  declared : GT
  firstSeen : GT
  ctx : BitVec 16 := 0
  engine : BitVec 16 := 0xFFFF
  layer : BitVec 16 := 0
  cycle : Nat := 0
  dependents : Nat := 0
  contexts : Nat := 0
  mapver : BitVec 32 := 0
  actions : BitVec 3 := 0
  done : Nat := 0
  refused : Nat := 0
  dump : BitVec 16 := 0
  truncated : Bool := false
  resolved : Bool := false
  inFallback : Bool := false
  entries : List Word := []
deriving DecidableEq, Repr

/-- A declared knot that stands: its cycle members and every listed engine as core × 8 + engine (R371, R372), and the
ABORT action that is still to be taken with the GT at which it is due (R381). -/
structure Knot where
  id : BitVec 32
  cycle : List Nat
  listed : List Nat
  abort : Option (BitVec 16 × GT) := none
deriving DecidableEq, Repr

/-- A channel map LOAD from host memory that runs (R365): the next entry and entries left, the address read next, and
bytes read of an entry that is not whole yet. -/
structure MapLoad where
  via : Via
  next : Nat
  left : Nat
  addr : Nat
  rest : List Byte := []
deriving DecidableEq, Repr

/-- The hang detector (chapter 12). -/
structure Hang where
  flight : List EdgeMsg := []
  /-- Channel map entries that are not zero, and those with an uncorrectable error (R361, Table 16.13). -/
  map : Tab Word := []
  mapBad : List Nat := []
  mapver : BitVec 32 := 0
  load : Option MapLoad := none
  knots : Bool := true
  blockGt : Nat := 400000
  period : Nat := 4000000
  progSweeps : Nat := 250
  actions : BitVec 3 := 0
  actWait : Nat := 80000000
  /-- Edges the walker holds, by engine (R360, R367). -/
  edges : Tab WaitEdge := []
  /-- Candidates of the last sweep: cycle members with serials in ascending address, and when each was first found; the
  MAPVER of that sweep (R369). -/
  cands : List (List (Nat × BitVec 16) × GT) := []
  candMapver : BitVec 32 := 0
  lastSweep : GT := 0
  live : Nat := 0
  unmapped : BitVec 16 := 0
  external : BitVec 16 := 0
  mismatch : BitVec 16 := 0
  staleEdge : BitVec 16 := 0
  sweeps : BitVec 32 := 0
  declared : BitVec 32 := 0
  fallback : Bool := false
  overflows : BitVec 32 := 0
  /-- Clusters still to answer the request to send every standing edge again (R379). -/
  resend : Option (List Nat) := none
  next : BitVec 16 := 1
  /-- The most recent first (R375). -/
  reports : List HangReport := []
  standing : List Knot := []
deriving DecidableEq, Repr

/-! ## The dump engine (chapters 09, 10) -/

/-- A region (R289, R291); `size` zero is not set. Offsets count bytes from BASE: the end of the space reserved, WRITE
as published, LAST. -/
structure Region where
  base : Word := 0
  size : Nat := 0
  reserved : Nat := 0
  write : Nat := 0
  last : Nat := 0
  skipped : BitVec 64 := 0
deriving DecidableEq, Repr

/-- Where a section stands: due; a chunk of it being read, or being written; to be written as omitted with a cause of
Table 09.8; its header being written; done. -/
inductive SectStat where
  | due | reading | writing | omitting (cause : Nat) | header | done
deriving DecidableEq, Repr

/-- A section of an image (Tables 10.1, 10.3, 10.5). -/
structure Section where
  type : Nat
  phase : Nat
  core : Nat := 0
  eng : Nat := 0
  space : Nat := 0
  unit : UnitAddr := 0
  offset : Nat := 0
  /-- Largest payload, bytes. -/
  size : Nat
  stat : SectStat := .due
  /-- 0 WRITTEN, 1 OMITTED, 2 REDACTED. -/
  status : Nat := 0
  cause : Nat := 0
  stale : Bool := false
  incl : Bool := false
  zeroed : Bool := false
  truncated : Bool := false
  gen : BitVec 8 := 0
  len : Nat := 0
  failed : Nat := 0
  firstFail : Nat := 0
  stamp : GT := 0
  typeA : Word := 0
  typeB : Word := 0
  /-- Payload bytes read so far, as the digest and the check take them. -/
  body : List Byte := []
  /-- SCAN: the chain bits read so far, bit n × j + c, and their count (R301). -/
  scanBits : Nat := 0
  scanCount : Nat := 0
  /-- Payload bytes in memory; writes of the present chunk that are not answered. -/
  sent : Nat := 0
  pend : Nat := 0
  check : Word := 0
  /-- CROCK of a core whose reset has begun (R307). -/
  kept : Bool := false
deriving DecidableEq, Repr

inductive DumpState where
  | active | parked | done | cancelled
deriving DecidableEq, Repr

/-- A dump (R293 to R312, Table 09.10). -/
structure Dump where
  id : BitVec 16
  p : DumpParams
  /-- Table 10.4 ORIGIN. -/
  origin : Nat
  owner : Owner
  who : Option Principal
  st : DumpState := .active
  result : BitVec 8 := 0
  offset : Nat
  total : Nat
  written : Nat := 0
  fault : Word := 0
  started : GT
  timeState : BitVec 4
  /-- INCL accepted and still held (R531). -/
  incl : Bool
  churn : BitVec 32 := 0
  /-- Phases 0 to 2 go to the chip that originated the churn (R314); streaming was given up or never possible. -/
  stream : Option (BitVec 16) := none
  streamed : Bool := false
  localOnly : Bool := false
  firstSent : Bool := false
  /-- Ends early: its sections not yet begun are omitted with this cause (R310, R312). -/
  ending : Option Nat := none
  /-- The hang whose report is the HANG section (R295, R380). -/
  hang : Option (BitVec 32) := none
  sections : List Section := []
deriving DecidableEq, Repr

/-- A churn at its origin (R313, R315). -/
structure Churn where
  id : BitVec 32
  owner : Owner
  deadline : GT
  region : BitVec 4
  /-- Chips named and not yet heard of; chips that reported, and of them those other than OK. -/
  awaited : List (BitVec 16)
  reporting : Nat := 0
  notOk : Nat := 0
deriving DecidableEq, Repr

/-- The image of another chip's phases 0 to 2 that this hub writes (R472). -/
structure StreamIn where
  chip : BitVec 16
  churn : BitVec 32
  dump : BitVec 16
  region : BitVec 4
  offset : Nat
  size : Nat
  started : GT
  /-- The last frame of phase 2 has arrived. -/
  last : Bool := false
deriving DecidableEq, Repr

structure Dumps where
  regions : List Region := List.replicate 9 {}
  /-- Active dumps and the 16 most recent (R311), the most recent first. -/
  list : List Dump := []
  next : BitVec 16 := 1
  /-- Free credits of each partition relay (R299), and where its round-robins stand. -/
  credits : List Nat := List.replicate 8 16
  nextLeaf : List Nat := List.replicate 8 0
  nextCore : Tab Nat := []
  churns : List Churn := []
  nextChurn : BitVec 16 := 1
  streams : List StreamIn := []
deriving DecidableEq, Repr

/-! ## The check-value units (chapter 10) -/

/-- A feed entry: a RUN write, or bytes with the ALGO at their arrival (R331, Table 10.9). -/
inductive CkFeed where
  | run (v : Word)
  | bytes (crc64 : Bool) (bs : List Byte)
deriving DecidableEq, Repr

/-- A CHECK_FEED whose span lies in host memory (R336): the value so far, the address read next and the bytes left. -/
structure FeedRun where
  via : Via
  crc64 : Bool
  phys : Bool
  run : Word
  addr : Nat
  left : Nat
  piece : Nat := 0
deriving DecidableEq, Repr

/-- Unit 0's RUN and algorithm; unit 1 with its registers (Table 10.9); CHECK_FEEDs that read host memory. -/
structure Check where
  run0 : Word := 0
  crc0 : Bool := false
  run : Word := 0
  crc64 : Bool := false
  host : Bool := false
  owner : Bool := false
  overrun : Bool := false
  ignored : BitVec 32 := 0
  queue : List CkFeed := []
  feeds : List FeedRun := []
deriving DecidableEq, Repr

/-! ## Autofence (chapters 11, 13) -/

/-- The policy slots and limits (R354, Table 13.9), the counts and the fences of AUTOFENCE (R407). -/
structure Autofence where
  slots : List (Option SlotParams) := List.replicate 4 none
  chipMax : Nat := 0
  partMax : Nat := 0
  rate : Nat := 0
  /-- The present window of 4,000,000,000 GT and the fences made in it (R406). -/
  window : Nat := 0
  inWindow : Nat := 0
  /-- Cores fenced on the hub's own initiative and not since UNFENCED; the counts of R406 are theirs. -/
  owned : List Nat := []
  fires : List (BitVec 32) := List.replicate 4 0
  fences : List (BitVec 32) := List.replicate 4 0
  refusals : List (BitVec 32) := List.replicate 4 0
deriving DecidableEq, Repr

/-! ## Recovery (chapter 13) -/

/-- What a unit of a running rung waits for; `late` is a reset handshake that outlived its hub timeout (R615). -/
inductive UnitPhase where
  | abort | fence | reset | late
deriving DecidableEq, Repr

/-- A unit of a rung that has not completed: the rung applied to it now, its core, engine or partition, the chip-local
addresses of the units named that it counts for, and the GT of its hub timeout. -/
structure RungUnit where
  rung : Nat
  core : Nat := 0
  eng : Nat := 0
  part : Nat := 0
  origs : List (BitVec 16)
  phase : UnitPhase
  due : GT
deriving DecidableEq, Repr

/-- A running rung (R389 to R394, Table 13.4). `single` is the unit named where it is one; `done` and `failed` list the
units named that completed and that failed. -/
structure Rung where
  id : BitVec 16
  rung : Nat
  p : RungParams
  owner : Owner
  accept : GT
  highest : Nat
  single : Option (BitVec 16) := none
  units : List RungUnit := []
  done : List (BitVec 16) := []
  failed : List (BitVec 16) := []
  timedOut : Bool := false
  superseded : Bool := false
  noack : Bool := false
  escalated : Bool := false
  /-- The completion event has been raised (R615). -/
  reported : Bool := false
deriving DecidableEq, Repr

/-- A FENCE that waits for acknowledgements (R401, R402). -/
structure FenceWait where
  via : Via
  due : GT
  waiting : List Nat
  refused : List Nat
  noack : List Nat := []
deriving DecidableEq, Repr

/-- The tray sideband (R414, R415): REQ_SEQ, the last request sent, the rung 6 that waits with its timeout. -/
structure Tray where
  seq : BitVec 32 := 0
  request : List Byte := []
  waits : Option (BitVec 16 × GT) := none
  /-- The REASON of that rung 6, kept once it is accepted until the power falls (R414). -/
  reason : Option (BitVec 8) := none
deriving DecidableEq, Repr

structure Recovery where
  rungs : List Rung := []
  next : BitVec 16 := 1
  last : BitVec 16 := 0
  fences : List FenceWait := []
  /-- `th_part_rst_req`, `th_part_rst_done`, `th_chip_rst_req`, `th_chip_rst_done` (R387). -/
  partReq : BitVec 8 := 0
  partDone : BitVec 8 := 0
  chipReq : Bool := false
  chipDone : Bool := false
  /-- REOPENs that wait for their instant: the links (R412). -/
  opens : List (GT × BitVec 16) := []
  tray : Tray := {}
deriving DecidableEq, Repr

/-! ## Self-test (chapter 14) -/

inductive JobPhase where
  | pending
  | running (start : GT)
  | closing (start : GT) (outcome : Nat) (signature : Word)
deriving DecidableEq, Repr

structure Job where
  core : Nat
  test : BitVec 16
  deadline : GT
  patterns : Nat
  seed : Word
  expect : Word
  phase : JobPhase := .pending
deriving DecidableEq, Repr

/-- A request with the counts of its finished jobs by outcome (Table 14.4). -/
structure TestRun where
  id : BitVec 16
  owner : Owner
  counts : List Nat := List.replicate 6 0
  complete : Bool := false
deriving DecidableEq, Repr

/-- A test that ended in basic service, reported ABORTED when the firmware returns (R432). -/
structure HeldTest where
  core : Nat
  test : BitVec 16
  gen : BitVec 8
  noreset : Bool
  fenced : Bool
  start : GT
  stop : GT
deriving DecidableEq, Repr

structure SelfTest where
  maxChip : Nat := 4
  maxCluster : Nat := 1
  /-- In order of acceptance. -/
  jobs : List Job := []
  /-- The most recent first. -/
  runs : List TestRun := []
  next : BitVec 16 := 1
  /-- Test results held while basic service lasts. -/
  held : List HeldTest := []
deriving DecidableEq, Repr

/-! ## Power and last gasp (chapter 19) -/

/-- Words 16 to 95 of the critical crash record, as the hub keeps them staged (R572, Table 19.5). -/
structure Staging where
  cut : List Word := []
  hang : List Word := []
  rung : List Word := []
  crockEngine : BitVec 16 := 0
  /-- 0 none, 1 hang, 2 stop watchdog. -/
  crockSrc : Nat := 0
  crockGen : BitVec 8 := 0
  crockId : BitVec 32 := 0
  crockGt : GT := 0
  crock : List CrockEntry := []
deriving DecidableEq, Repr

/-- Where the last-gasp sequence stands: none runs; words 0 to 1,019 are written and their flush is outstanding; the
seal is written and its flush is outstanding (Table 19.4). -/
inductive LgPhase where
  | idle | body | sealing
deriving DecidableEq, Repr

/-- The always-on power logic: outputs and inputs of Table 19.3, the sequence, the last record and the tray's offset. -/
structure PowerLogic where
  /-- `pf_shed`, `pf_obs_off`, `pf_lg_done`. -/
  shed : Bool := true
  obsOff : Bool := true
  lgDone : Bool := false
  /-- `pf_part_gated` and `pf_warn`, synchronised (Table 20.12). -/
  gated : BitVec 8 := 0
  warn : Bool := false
  staging : Staging := {}
  phase : LgPhase := .idle
  /-- The record that the sequence writes: words 0 to 1,019, then with its seal. -/
  record : List Word := []
  /-- The slot written by the present or the last sequence and the `nv_flush` pulses it has given (R574, R576). -/
  slot : Nat := 0
  flushes : Nat := 0
  /-- SEQ of the next record (R574). -/
  nextSeq : BitVec 32 := 1
  /-- The last record, 1,024 words, and whether it is held in the retention SRAM alone (R574, R578). -/
  last : Option (List Word) := none
  nvFailed : Bool := false
  /-- `LG_SEL.PAGE`. -/
  page : BitVec 4 := 0
  /-- The tray's byte offset; the answer to its last Block Read 0x71; its last Block Write was NACKed (R601). -/
  trayOffset : BitVec 16 := 0
  trayReply : List Byte := []
  trayNack : Bool := false
deriving DecidableEq, Repr

/-! ## Leaves -/

/-- One leaf station. -/
structure Leaf where
  interp : Interp := {}
  /-- A FULL_STAMP is due before the stream's next record, with its reason (R162). -/
  fullDue : Option Nat := none
  /-- The trace session as the leaf's merge has reached it (R152, R176). -/
  session : Option TraceParams := none
  stream : Stream := {}
  /-- Stamped events not yet evaluated, by stamp (R165, R194). -/
  events : List (GT × LeafEvent) := []
  /-- Events of the leaf's own that wait for a valid interpolator (R49). -/
  own : List LeafEvent := []
  trig : Trig := {}
  skim : Skim := {}
  err : LeafErr := {}
deriving DecidableEq, Repr

end Sys2Proof.Machine
end

