-- ==== Sys2Proof/Machine/State.lean ====
section
/-!
DEFINITION. The state of the block: the queue of waiting commands, and everything the manual gives one chip's hub, leaves,
shims and rind; the reasons a command can stop; the state after reset.
-/
namespace Sys2Proof.Machine

/-- Why a command stops the machine. -/
inductive Fault where
  /-- Raised by OBS_RESET_RELEASE and OBS_POWER_UP when the tie-offs name units beyond the maxima of Table 01.1: no such
  configuration exists (R15). Safe: no chip presents it. -/
  | noSuchConfiguration
deriving DecidableEq, Repr

/-- Why a command has no meaning. -/
inductive Refusal where
  /-- Raised by `exec` for a command that the model does not give a meaning yet. Safe: nothing is claimed of it. -/
  | notModelled (mnemonic : String)
deriving DecidableEq, Repr

/-- Generations of the partitions and of the chip compute domain, and the GT of their advances (R36, R40). -/
structure Gens where
  part : List (BitVec 8) := List.replicate 8 0
  chip : BitVec 8 := 0
  partAdv : List (List GT) := List.replicate 8 []
  chipAdv : List GT := []
deriving DecidableEq, Repr

/-- A context table entry (Table 04.5) and its progress word (R376). `defined` is false once the context is retired; its
counters then stay as they are (R135). -/
structure Ctx where
  defined : Bool := true
  attr : Word := 0
  busy : Word := 0
  done : Word := 0
  aborted : BitVec 32 := 0
  error : BitVec 32 := 0
  accrued : Bool := false
  ended : Bool := false
  sweeps : BitVec 16 := 0
  /-- GT of the first sweep of the present count (Table 12.5, FIRST_SEEN). -/
  firstSweep : GT := 0
  /-- A NO_PROGRESS report stands (R377), by its HANG_ID. -/
  report : Option (BitVec 32) := none
deriving DecidableEq, Repr

/-- The host register port's outputs: the data of the last answered access and the answers given (R583, R584). -/
structure HostPort where
  rdata : Word := 0
  answered : Nat := 0
deriving DecidableEq, Repr

/-- The always-on counter summary, Table 20.11; the four error totals are by class. -/
structure Summary where
  unattrib : Word := 0
  lostCycles : Word := 0
  lostCmds : Word := 0
  errs : List Word := List.replicate 4 0
  genDrop : Word := 0
  hmLate : Word := 0
deriving DecidableEq, Repr

/-- Power states, codes of Table 19.1 as `PF_STATUS.POWER` and the mode beyond it (R561). -/
inductive PowerMode where
  | on | partialOn | lastGasp | retained | off
deriving DecidableEq, Repr

/-- An account or END word on its way from a leaf to the hub: its context, its cycles, and the end status (R133). -/
structure Account where
  ctx : BitVec 16
  cycles : Nat
  ended : Option (BitVec 2) := none
deriving DecidableEq, Repr

structure State where
  /-- Commands that are waiting, first in, first out. -/
  pending : List Instr := []
  time : Time := {}
  cores : Tab Core := []
  leaves : Tab Leaf := []
  gens : Gens := {}
  ctxs : Tab Ctx := []
  accounts : List Account := []
  hr : HostPort := {}
  ao : Summary := {}
  ties : TieOffs := { cores := [], linkPresent := 0, linkUntagged := 0, linkNogen := 0, tpPresent := 0,
                      izMode := List.replicate 6 0, tapMfr := 0 }
  power : PowerMode := .on
  pw : PowerLogic := {}
  fw : Firmware := {}
  mb : Mailboxes := {}
  protect : Protect := {}
  fuses : Fuses := {}
  /-- Fused writes in progress, oldest first. -/
  fuseWrites : List FuseWrite := []
  narrow : Narrow := {}
  events : Events := {}
  errors : Errors := {}
  hm : HostMem := {}
  pail : Pail := {}
  trace : Trace := {}
  iz : Iazan := {}
  triggers : Triggers := {}
  cuts : Cuts := {}
  rind : Rind := {}
  autofence : Autofence := {}
  hang : Hang := {}
  dumps : Dumps := {}
  check : Check := {}
  rec_ : Recovery := {}
  test : SelfTest := {}
  /-- The model's own counter of free values drawn (log entry 4). -/
  free : Nat := 0
deriving DecidableEq, Repr

/-- The block right after always-on reset (R565): GT is zero in FREE, every retention SRAM item has its reset value, no
record is held, `pf_shed` and `pf_obs_off` are 1 and no tie-off has been sampled (R83). -/
def State.reset : State := {}

end Sys2Proof.Machine
end

