-- ==== Sys2Proof/Machine/Data.lean ====
section
/-!
DEFINITION. Operations on plain data that the meanings share: sparse tables, the canonical byte memory, bit fields of
64-bit words, byte order (R6), the two CRC functions (R325, R326) and the hash of R223.
-/
namespace Sys2Proof.Machine

/-! ## Sparse tables -/

/-- The value at a key. -/
def tget {α : Type} (k : Nat) : Tab α → Option α
  | [] => none
  | (k', v) :: t => if k' = k then some v else tget k t

/-- The table with a key set to a value; the order stays ascending. -/
def tset {α : Type} (k : Nat) (v : α) : Tab α → Tab α
  | [] => [(k, v)]
  | (k', v') :: t =>
    if k' < k then (k', v') :: tset k v t
    else if k' = k then (k, v) :: t
    else (k, v) :: (k', v') :: t

/-- The table with the value at a key changed; unchanged where the key is absent. -/
def tmod {α : Type} (k : Nat) (f : α → α) : Tab α → Tab α
  | [] => []
  | (k', v) :: t => if k' = k then (k', f v) :: t else (k', v) :: tmod k f t

/-- The table without a key. -/
def tdel {α : Type} (k : Nat) : Tab α → Tab α
  | [] => []
  | (k', v) :: t => if k' = k then t else (k', v) :: tdel k t

/-- Every value of a table changed. -/
def tmap {α : Type} (f : Nat → α → α) : Tab α → Tab α
  | [] => []
  | (k, v) :: t => (k, f k v) :: tmap f t

/-- The first element that satisfies `p` removed. -/
def eraseFirst {α : Type} (p : α → Bool) : List α → List α
  | [] => []
  | a :: l => if p a then l else a :: eraseFirst p l

/-- The first element that satisfies `p` changed. -/
def modFirst {α : Type} (p : α → Bool) (f : α → α) : List α → List α
  | [] => []
  | a :: l => if p a then f a :: l else a :: modFirst p f l

/-- `l` with a new element at its end, the oldest giving way when `cap` elements are already held. -/
def pushRing {α : Type} (cap : Nat) (a : α) (l : List α) : List α :=
  if l.length < cap then l ++ [a] else l.drop 1 ++ [a]

/-! ## Byte memory in canonical form -/

/-- The byte at an address; an unlisted address reads zero (log entry 5). -/
def memRead (a : Nat) : Mem → Byte
  | [] => 0
  | (a', b) :: m => if a' = a then b else if a < a' then 0 else memRead a m

/-- The memory with one byte written. Writing zero removes the entry, so the form stays canonical. -/
def memWrite (a : Nat) (b : Byte) : Mem → Mem
  | [] => if b = 0 then [] else [(a, b)]
  | (a', b') :: m =>
    if a' < a then (a', b') :: memWrite a b m
    else if a' = a then (if b = 0 then m else (a, b) :: m)
    else if b = 0 then (a', b') :: m else (a, b) :: (a', b') :: m

/-- Addresses above `lo` rise strictly and no entry holds zero. -/
def memWfFrom (lo : Nat) : Mem → Bool
  | [] => true
  | (a, b) :: m => decide (lo ≤ a) && decide (b ≠ 0) && memWfFrom (a + 1) m

/-- The canonical form: strictly rising addresses, no entry equal to what an unlisted address reads as. -/
def memWf (m : Mem) : Bool := memWfFrom 0 m

/-- `n` bytes from an address, in address order. -/
def memBytes (a : Nat) : Nat → Mem → List Byte
  | 0, _ => []
  | n + 1, m => memRead a m :: memBytes (a + 1) n m

/-- Bytes written in address order. -/
def memWriteBytes (a : Nat) : List Byte → Mem → Mem
  | [], m => m
  | b :: bs, m => memWriteBytes (a + 1) bs (memWrite a b m)

/-! ## Words, bytes and fields -/

/-- The little-endian bytes of a word (R6). -/
def wordBytes (w : Word) : List Byte :=
  (List.range 8).map fun k => BitVec.ofNat 8 (w.toNat >>> (8 * k))

/-- A word from at most 8 bytes in address order, missing ones zero. -/
def bytesWord (bs : List Byte) : Word :=
  BitVec.ofNat 64 (bs.foldr (fun b acc => acc * 256 + b.toNat) 0)

def bytesOf (ws : List Word) : List Byte := ws.flatMap wordBytes

/-- Words from bytes, the last one zero-padded. `n` bounds the number of words. -/
def wordsOfN : Nat → List Byte → List Word
  | 0, _ => []
  | _, [] => []
  | n + 1, bs => bytesWord (bs.take 8) :: wordsOfN n (bs.drop 8)

def wordsOf (bs : List Byte) : List Word := wordsOfN (bs.length / 8 + 1) bs

def memWord (a : Nat) (m : Mem) : Word := bytesWord (memBytes a 8 m)

def memWriteWords (a : Nat) (ws : List Word) (m : Mem) : Mem := memWriteBytes a (bytesOf ws) m

/-- Bits [hi:lo] of a word as a number. -/
def bits (w : Word) (hi lo : Nat) : Nat := (w.toNat >>> lo) % 2 ^ (hi - lo + 1)

/-- Bit n of a word. -/
def bit (w : Word) (n : Nat) : Bool := w.toNat.testBit n

/-- Bits [hi:lo] of a word as a bit vector of width `k`. -/
def fieldB (k : Nat) (w : Word) (lo : Nat) : BitVec k := BitVec.ofNat k (w.toNat >>> lo)

/-- A word built from fields (low bit, width, value); every other bit is zero (R9). -/
def pk (fs : List (Nat × Nat × Nat)) : Word :=
  BitVec.ofNat 64 (fs.foldl (fun acc f => acc + (f.2.2 % 2 ^ f.2.1) <<< f.1) 0)

def b2n (b : Bool) : Nat := if b then 1 else 0

/-- A signed number as an `n`-bit two's-complement value. -/
def sgn (n : Nat) (i : Int) : Nat := (i % (2 ^ n : Int)).toNat

/-- A 64-bit word from a count. -/
def wn (n : Nat) : Word := BitVec.ofNat 64 n

/-- An `n`-bit value read as signed. -/
def toSigned (n v : Nat) : Int := if v < 2 ^ (n - 1) then (v : Int) else (v : Int) - 2 ^ n

/-- A saturating increment. -/
def satInc {n : Nat} (b : BitVec n) (by_ : Nat := 1) : BitVec n :=
  BitVec.ofNat n (min (b.toNat + by_) (2 ^ n - 1))

def satN (n : Nat) (v : Nat) : Nat := min v (2 ^ n - 1)

/-- Bit `i` of a bit vector set to `v`. -/
def setBit {n : Nat} (b : BitVec n) (i : Nat) (v : Bool) : BitVec n :=
  if v then b ||| BitVec.ofNat n (1 <<< i) else b &&& ~~~ BitVec.ofNat n (1 <<< i)

/-- The positions of the ones of a bit vector, ascending. -/
def onesOf {n : Nat} (b : BitVec n) : List Nat := (List.range n).filter fun i => b.getLsbD i

def popcount {n : Nat} (b : BitVec n) : Nat := (onesOf b).length

/-- The sequence number after a 16-bit one: 0xFFFF is followed by 1 (R613). -/
def nextSeq (n : BitVec 16) : BitVec 16 := if n = 0xFFFF then 1 else n + 1

/-- Bytes enabled by `wstrb` of a register write merged into a word (R583). -/
def mergeBytes (old new : Word) (strb : BitVec 8) : Word :=
  bytesWord (((wordBytes old).zip (wordBytes new)).zipIdx.map fun p =>
    if strb.getLsbD p.2 then p.1.2 else p.1.1)

/-! ## CRC (R325, R326) -/

def crc32Step (r : BitVec 32) : BitVec 32 :=
  if r.getLsbD 0 then (r >>> 1) ^^^ 0x82F63B78#32 else r >>> 1

def crc32Byte (r : BitVec 32) (b : Byte) : BitVec 32 :=
  let r := r ^^^ b.setWidth 32
  crc32Step (crc32Step (crc32Step (crc32Step (crc32Step (crc32Step (crc32Step (crc32Step r)))))))

/-- CRC-32C with a seed (R326). -/
def crc32c (seed : BitVec 32) (bs : List Byte) : BitVec 32 :=
  (bs.foldl crc32Byte (0xFFFFFFFF#32 ^^^ seed)) ^^^ 0xFFFFFFFF#32

def crc64Step (r : Word) : Word :=
  if r.getLsbD 63 then (r <<< 1) ^^^ 0x42F0E1EBA9EA3693#64 else r <<< 1

def crc64Byte (r : Word) (b : Byte) : Word :=
  let r := r ^^^ (b.setWidth 64 <<< 56)
  crc64Step (crc64Step (crc64Step (crc64Step (crc64Step (crc64Step (crc64Step (crc64Step r)))))))

/-- CRC-64 with a seed (R325). -/
def crc64 (seed : Word) (bs : List Byte) : Word := bs.foldl crc64Byte seed

/-! ## Hashing (R223 to R225) -/

/-- The mix of R223. -/
def mixHash (z : Word) : Word :=
  let z := (z ^^^ (z >>> 29)) * 0xB5D13A6E4C29F0C7#64
  let z := (z ^^^ (z >>> 32)) * 0x8E6F24D9C1B357A5#64
  z ^^^ (z >>> 31)

/-- The prefix of R223 for a seed and a tag. -/
def hashPrefix (seed tag : Word) : Word := mixHash (seed ^^^ (tag * 0x5C4E91A32B78D6F1#64))
def hashKey (pre key : Word) : Word := mixHash (pre ^^^ key)

end Sys2Proof.Machine
end

