-- ==== Sys2Proof/Decode.lean ====
section
/-!
DEFINITION. Reading commands. `requestOf` reads the parameters of a catalogue command as R485 lays them out. The opcode
table gives no row any bits, so a word spells no command (`decodeTableWord`).
-/
namespace Sys2Proof

open Sys2Proof.Machine

/-- The command a word spells by the bits of spec/opcode_table.json: its rows give none. -/
def decodeTableWord (_nbits _w : Nat) : Option Instr := none

/-! ## Parameters (R485)

Word `i` of the parameters; a word past LEN reads zero, and a value above its parameter's width is malformed (log
entry 70). A parameter that the OP, MODE or FORM does not use is ignored. -/

/-- The parameter of `k` bits in word `i`; read loosely, its low bits whatever stands above them. -/
def par (loose : Bool) (k : Nat) (ws : List Word) (i : Nat) : Option (BitVec k) :=
  let w := (ws.getD i 0).toNat
  if loose || decide (w < 2 ^ k) then some (BitVec.ofNat k w) else none

/-- A parameter of one bit. -/
def flag (loose : Bool) (ws : List Word) (i : Nat) : Option Bool := (par loose 1 ws i).map fun b => b.getLsbD 0

/-- A byte array of `n` bytes from word `i`; shorter where LEN ends before it. -/
def byteArray (ws : List Word) (i n : Nat) : List Byte := (bytesOf (ws.drop i)).take n

def helloOf (loose : Bool) (via : Via) (ws : List Word) : Option Instr := do
  let lo ← par loose 8 ws 0; let hi ← par loose 8 ws 1; let c ← flag loose ws 2
  if c then
    let x ← par loose 6 ws 3; let y ← par loose 5 ws 4; let z ← par loose 5 ws 5
    let dx ← par loose 6 ws 6; let dy ← par loose 5 ws 7; let dz ← par loose 5 ws 8
    some (.hello via lo hi true x y z dx dy dz)
  else some (.hello via lo hi false 0 0 0 0 0 0)

def capsOf (loose : Bool) (via : Via) (ws : List Word) : Option Instr := do
  let part ← par loose 2 ws 0
  match part.toNat with
  | 0 => some (.capsSummary via)
  | 1 => do let f ← par loose 13 ws 1; some (.capsPresence via f)
  | 2 => some (.capsIazan via)
  | _ => none

def pailOf (loose : Bool) (via : Via) (ws : List Word) : Option Instr := do
  let set ← par loose 2 ws 0
  let on ← flag loose ws 1
  if on then
    let kind ← par loose 2 ws 2; let iv ← par loose 32 ws 3; let ph ← par loose 64 ws 4
    let ctx := decide (kind = 2)
    let a ← if ctx then some 0 else par loose 32 ws 5
    let m ← if ctx then some 0 else par loose 32 ws 6
    let f ← if ctx then par loose 16 ws 7 else some 0
    let l ← if ctx then par loose 16 ws 8 else some 0
    let ext ← if ctx then some false else flag loose ws 9
    let cmd ← if kind = 1 then flag loose ws 10 else some false
    let base ← par loose 64 ws 11; let log2 ← par loose 6 ws 12
    some (.pailConfig via { set := set, enable := true, kind := kind, interval := iv, phase := ph, addr := a, mask := m
                            ctxFirst := f, ctxLast := l, ext := ext, cmd := cmd, ringBase := base, ringLog2 := log2 })
  else some (.pailConfig via { set := set, enable := false, kind := 0, interval := 0, phase := 0, addr := 0, mask := 0
                               ctxFirst := 0, ctxLast := 0, ext := false, cmd := false, ringBase := 0, ringLog2 := 0 })

def traceOf (loose : Bool) (via : Via) (ws : List Word) : Option Instr := do
  let on ← flag loose ws 0
  if on then
    let a ← par loose 32 ws 1; let m ← par loose 32 ws 2; let kinds ← par loose 3 ws 3; let dsel ← par loose 3 ws 4
    let gate ← flag loose ws 5; let sink ← par loose 2 ws 6
    let base ← if sink = 2 then par loose 64 ws 7 else some 0
    let log2 ← if sink = 2 then par loose 6 ws 8 else some 0
    let incl ← flag loose ws 9
    some (.traceConfig via { enable := true, addr := a, mask := m, kinds := kinds, dsel := dsel, gate := gate, sink := sink
                             ringBase := base, ringLog2 := log2, incl := incl })
  else some (.traceConfig via { enable := false, addr := 0, mask := 0, kinds := 0, dsel := 0, gate := false, sink := 0
                                ringBase := 0, ringLog2 := 0, incl := false })

def trigOf (loose : Bool) (via : Via) (ws : List Word) : Option Instr := do
  let op ← par loose 2 ws 0
  match op.toNat with
  | 0 => do
    let a ← par loose 32 ws 1; let m ← par loose 32 ws 2; let d ← par loose 3 ws 3
    some (.trigSetLoad via a m d ((ws.drop 4).take 196))
  | 1 => do
    let ch ← par loose 3 ws 1; let ca ← par loose 32 ws 2; let cm ← par loose 32 ws 3; let on ← flag loose ws 6
    let ha ← if on then par loose 32 ws 4 else some 0
    let hm ← if on then par loose 32 ws 5 else some 0
    some (.trigSetChannel via ch ca cm ha hm on)
  | 2 => do let a ← par loose 32 ws 1; let m ← par loose 32 ws 2; some (.trigSetClear via a m)
  | _ => do let a ← par loose 32 ws 1; let m ← par loose 32 ws 2; some (.trigSetStatus via a m)

def skimOf (loose : Bool) (via : Via) (ws : List Word) : Option Instr := do
  let op ← par loose 2 ws 0
  let a ← par loose 32 ws 1; let m ← par loose 32 ws 2
  match op.toNat with
  | 0 => do
    let cores ← par loose 16 ws 3; let engs ← par loose 8 ws 4; let sel ← par loose 4 ws 5; let fmt ← par loose 4 ws 6; let ixm ← flag loose ws 7
    let lo ← par loose 32 ws 8; let hi ← par loose 32 ws 9; let ctx ← par loose 16 ws 10; let cmask ← par loose 16 ws 11; let th ← par loose 33 ws 12
    let ts ← par loose 64 ws 13; let ss ← par loose 64 ws 14; let lsb ← par loose 10 ws 15; let hb ← par loose 10 ws 16; let sm ← par loose 2 ws 17
    let st ← par loose 64 ws 18; let dur ← par loose 64 ws 19; let mx ← par loose 32 ws 20; let incl ← flag loose ws 21
    some (.skimArm via { addr := a, mask := m, cores := cores, engines := engs, sel := sel, elfmt := fmt, idxmode := ixm
                         idxLo := lo, idxHi := hi, ctx := ctx, ctxMask := cmask, thresh := th, tseed := ts, sseed := ss
                         lsb := lsb, hbase := hb, startMode := sm, start := st, duration := dur, maxcount := mx
                         incl := incl })
  | 1 => some (.skimCancel via a m)
  | _ => none

def chanmapOf (loose : Bool) (via : Via) (ws : List Word) : Option Instr := do
  let op ← par loose 3 ws 0
  match op.toNat with
  | 0 => do
    let inl ← flag loose ws 1; let a ← par loose 64 ws 2; let f ← par loose 18 ws 3; let n ← par loose 19 ws 4
    some (.chanmapLoad via inl a f n (if inl then (ws.drop 5).take n.toNat else []))
  | 1 => do let f ← par loose 18 ws 1; let n ← par loose 19 ws 2; some (.chanmapClear via f n)
  | 2 => do
    let k ← par loose 2 ws 1; let b ← par loose 32 ws 2; let p ← par loose 32 ws 3; let w ← par loose 16 ws 4; let acts ← par loose 3 ws 5
    let aw ← par loose 32 ws 6
    some (.chanmapConfig via k b p w acts aw)
  | 3 => do let h ← par loose 32 ws 1; let f ← par loose 16 ws 2; some (.chanmapReport via h f)
  | 4 => some (.chanmapStatus via)
  | _ => none

def stopOf (loose : Bool) (via : Via) (ws : List Word) : Option Instr := do
  let op ← par loose 2 ws 0
  match op.toNat with
  | 0 => do
    let a ← par loose 32 ws 1; let m ← par loose 32 ws 2; let h ← flag loose ws 3; let tf ← flag loose ws 4; let t ← par loose 64 ws 5
    let w ← par loose 32 ws 6
    some (.stopAtArm via a m h tf t w)
  | 1 => do let id ← par loose 32 ws 7; some (.stopAtCancel via id)
  | 2 => do let id ← par loose 32 ws 7; let f ← par loose 32 ws 8; some (.stopAtReport via id f)
  | _ => none

def stepOf (loose : Bool) (via : Via) (ws : List Word) : Option Instr := do
  let id ← par loose 32 ws 0; let form ← par loose 2 ws 1; let a ← par loose 32 ws 2; let m ← par loose 32 ws 3
  match form.toNat with
  | 0 => do let b ← par loose 32 ws 8; some (.stepCommand via id a m b)
  | 1 => do let c ← par loose 16 ws 6; let r ← par loose 16 ws 7; let b ← par loose 32 ws 8; some (.stepContext via id a m c r b)
  | 2 => do let st ← par loose 4 ws 4; let we ← flag loose ws 5; let b ← par loose 32 ws 8; some (.stepFiring via id a m st we b)
  | _ => do let d ← par loose 64 ws 9; some (.stepTime via id a m d)

def resumeOf (loose : Bool) (via : Via) (ws : List Word) : Option Instr := do
  let id ← par loose 32 ws 0; let a ← par loose 32 ws 1; let m ← par loose 32 ws 2; let tf ← flag loose ws 3; let r ← par loose 64 ws 4
  some (.resume via id a m tf r)

def stateOf (loose : Bool) (via : Via) (write : Bool) (ws : List Word) : Option Instr := do
  let a ← par loose 32 ws 0; let sp ← par loose 5 ws 1; let wa ← par loose 32 ws 2; let n ← par loose 9 ws 3; let g ← par loose 8 ws 4
  let incl ← flag loose ws 5
  some (if write then .stateWrite via a sp wa n g incl ((ws.drop 6).take n.toNat) else .stateRead via a sp wa n g incl)

/-- The parameters of Table 09.6 from word `i`. -/
def dumpParams (loose : Bool) (ws : List Word) (i : Nat) : Option DumpParams := do
  let a ← par loose 32 ws i; let m ← par loose 32 ws (i + 1); let r ← par loose 4 ws (i + 2); let c ← par loose 6 ws (i + 3)
  let incl ← flag loose ws (i + 4); let cut ← par loose 32 ws (i + 5); let tag ← par loose 32 ws (i + 6)
  some { addr := a, mask := m, region := r, content := c, incl := incl, cutId := cut, tag := tag }

/-- The `read` operand of the row is the host's READ word and no parameter. -/
def dumpStartOf (loose : Bool) (via : Via) (ws : List Word) : Option Instr := do
  let op ← par loose 2 ws 0
  match op.toNat with
  | 0 => do
    let r ← par loose 4 ws 1; let b ← par loose 64 ws 2; let n ← par loose 64 ws 3; let d ← par loose 16 ws 4; let sh ← par loose 9 ws 5
    some (.dumpSetup via r b n d sh)
  | 1 => do let p ← dumpParams loose ws 1; some (.dumpStart via p 0)
  | 2 => do let id ← par loose 16 ws 1; some (.dumpCancel via id)
  | _ => do
    let cut ← par loose 32 ws 1; let c ← par loose 6 ws 2; let r ← par loose 4 ws 3; let st ← flag loose ws 4; let tag ← par loose 32 ws 5
    let dl ← par loose 32 ws 6
    some (.churn via cut c r st tag dl 0)

/-- SCAN_OUT "takes the same parameters" as DUMP_START START (R288), its OP in word 0. -/
def scanOutOf (loose : Bool) (via : Via) (ws : List Word) : Option Instr := do
  let op ← par loose 2 ws 0
  if op = 1 then do let p ← dumpParams loose ws 1; some (.scanOut via p 0) else none

def checkFeedOf (loose : Bool) (via : Via) (ws : List Word) : Option Instr := do
  let c64 ← flag loose ws 0; let src ← par loose 2 ws 1; let n ← par loose 32 ws 3; let seed ← par loose 64 ws 4
  let inl := decide (src = 3)
  some (.checkFeed via c64 src (if inl then 0 else ws.getD 2 0) n seed (if inl then byteArray ws 5 n.toNat else []))

def rungOf (loose : Bool) (via : Via) (ws : List Word) : Option Instr := do
  let op ← par loose 2 ws 0
  match op.toNat with
  | 0 => do
    let rung ← par loose 3 ws 1; let a ← par loose 32 ws 2; let m ← par loose 32 ws 3
    let ctx ← if rung = 1 then par loose 16 ws 4 else some 0
    let chk ← flag loose ws 6
    let gen ← if chk then par loose 8 ws 5 else some 0
    let esc ← flag loose ws 7
    let mx ← if esc then par loose 3 ws 8 else some 0
    let why ← if rung = 6 then par loose 8 ws 10 else some 0
    let p : RungParams := { addr := a, mask := m, ctx := ctx, gen := gen, genchk := chk, escalate := esc, maxRung := mx
                            reason := why }
    match rung.toNat with
    | 1 => some (.contextAbort via p)
    | 2 => some (.engineReset via p)
    | 3 => some (.coreFenceAndReset via p)
    | 4 => some (.partitionReset via p)
    | 5 => some (.chipComputeReset via p)
    | 6 => some (.trayPowerCycle via p)
    | _ => none
  | 1 => do let g ← par loose 8 ws 5; let l ← par loose 16 ws 9; some (.reopen via g l)
  | 2 => some (.resetRungStatus via)
  | _ => none

def autofenceOf (loose : Bool) (via : Via) (ws : List Word) : Option Instr := do
  let op ← par loose 2 ws 0
  match op.toNat with
  | 0 => do
    let sl ← par loose 2 ws 1; let on ← flag loose ws 2
    if on then
      let a ← par loose 32 ws 3; let m ← par loose 32 ws 4; let cl ← par loose 4 ws 5; let ps ← flag loose ws 6; let th ← par loose 16 ws 7
      let w ← par loose 32 ws 8; let act ← par loose 2 ws 9
      some (.autofenceSlot via { slot := sl, enable := true, addr := a, mask := m, classes := cl, portslot := ps
                                 threshold := th, window := w, action := act })
    else some (.autofenceSlot via { slot := sl, enable := false, addr := 0, mask := 0, classes := 0, portslot := false
                                    threshold := 0, window := 0, action := 0 })
  | 1 => do let c ← par loose 14 ws 1; let p ← par loose 11 ws 2; let r ← par loose 16 ws 3; some (.autofenceLimits via c p r)
  | 2 => some (.autofenceStatus via)
  | _ => none

def testOf (loose : Bool) (via : Via) (ws : List Word) : Option Instr := do
  let op ← par loose 2 ws 0
  match op.toNat with
  | 0 => do
    let a ← par loose 32 ws 1; let m ← par loose 32 ws 2; let ty ← par loose 16 ws 3; let n ← par loose 13 ws 4; let seed ← par loose 64 ws 5
    let e ← par loose 64 ws 6; let d ← par loose 64 ws 7
    some (.testRequest via { addr := a, mask := m, coreType := ty, patterns := n, seed := seed, expect := e
                             deadline := d })
  | 1 => do let id ← par loose 16 ws 1; some (.testCancel via id)
  | 2 => do let id ← par loose 16 ws 1; some (.testStatus via id)
  | _ => none

def lendOf (loose : Bool) (via : Via) (ws : List Word) : Option Instr := do
  let op ← par loose 2 ws 0
  match op.toNat with
  | 0 => do let a ← par loose 32 ws 1; let m ← par loose 32 ws 2; some (.testLend via a m)
  | 1 => do let a ← par loose 32 ws 1; let m ← par loose 32 ws 2; some (.testReclaim via a m)
  | 2 => do let c ← par loose 5 ws 1; let k ← par loose 2 ws 2; some (.testSlotConfig via c k)
  | _ => none

def timeCalOf (loose : Bool) (via : Via) (ws : List Word) : Option Instr := do
  let mode ← par loose 2 ws 0
  match mode.toNat with
  | 0 => do
    let r ← par loose 16 ws 1; let set ← flag loose ws 2; let g ← if set then par loose 64 ws 3 else some 0
    some (.timeCalStart via r set g)
  | 1 => do let c ← par loose 16 ws 4; let p ← par loose 3 ws 5; some (.timeCalLink via c p)
  | 2 => some (.timeCalSweep via)
  | _ => none

def remoteOf (loose : Bool) (via : Via) (ws : List Word) : Option Instr := do
  let target ← par loose 16 ws 0; let op ← par loose 2 ws 1; let chk ← flag loose ws 4
  let gen ← if chk then par loose 8 ws 5 else some 0
  let tmo ← par loose 32 ws 6
  match op.toNat with
  | 0 => do
    let notify ← flag loose ws 2; let cmd ← par loose 16 ws 3
    some (.remoteCmd via target notify cmd chk gen tmo (ws.drop 11))
  | 1 => do
    let win ← par loose 6 ws 7; let wgen ← par loose 8 ws 8; let n ← par loose 32 ws 9; let off ← par loose 64 ws 10
    some (.remoteWrite via target chk gen tmo win wgen n off ((ws.drop 11).take ((n.toNat + 7) / 8)))
  | _ => none

/-- The extra field of Table 17.10, as long as its kind makes it. -/
def extraOf (ws : List Word) (i : Nat) (desc : List Word) : List Byte :=
  let k := bits (desc.getD 0 0) 55 48
  byteArray ws i (if k = 7 then 192 else if k = 9 then 32 else 0)

def proposeOf (loose : Bool) (via : Via) (ws : List Word) : Option Instr := do
  let op ← par loose 1 ws 0
  if op = 0 then some (.protectNonce via)
  else
    let desc := (ws.drop 1).take 16
    some (.protectPropose via desc (byteArray ws 17 96) (byteArray ws 29 96) (extraOf ws 41 desc))

/-- The parameters of a command as a row of the opcode table, none where they are malformed or the code has none. Read loosely,
only the low bits of each parameter count: so a malformed command is judged for what R14 puts before BAD_ARG. -/
def requestRead (loose : Bool) (via : Via) (cmd : BitVec 16) (ws : List Word) : Option Instr :=
  match cmd.toNat with
  | 0x0001 => helloOf loose via ws
  | 0x0002 => capsOf loose via ws
  | 0x0003 => do let b ← par loose 64 ws 0; let l ← par loose 6 ws 1; let e ← flag loose ws 2; some (.eventRingSet via b l e)
  | 0x0010 => do let f ← par loose 16 ws 0; let n ← par loose 17 ws 1; let a ← par loose 64 ws 2; some (.ctxDefine via f n a)
  | 0x0011 => do let f ← par loose 16 ws 0; let n ← par loose 17 ws 1; some (.ctxRetire via f n)
  | 0x0020 => do let a ← par loose 32 ws 0; let m ← par loose 32 ws 1; let f ← flag loose ws 2; some (.cntConfig via a m f)
  | 0x0021 => pailOf loose via ws
  | 0x0022 => traceOf loose via ws
  | 0x0023 => trigOf loose via ws
  | 0x0024 => skimOf loose via ws
  | 0x0025 => do let a ← par loose 32 ws 0; let m ← par loose 32 ws 1; some (.skimRead via a m)
  | 0x0026 => chanmapOf loose via ws
  | 0x0030 => stopOf loose via ws
  | 0x0031 => stepOf loose via ws
  | 0x0032 => resumeOf loose via ws
  | 0x0040 => stateOf loose via false ws
  | 0x0041 => stateOf loose via true ws
  | 0x0042 => scanOutOf loose via ws
  | 0x0043 => dumpStartOf loose via ws
  | 0x0044 => do let id ← par loose 16 ws 0; some (.dumpStatus via id)
  | 0x0045 => do let t ← par loose 2 ws 0; let ix ← par loose 16 ws 1; let ab ← flag loose ws 2; some (.faultRetry via t ix ab)
  | 0x0046 => checkFeedOf loose via ws
  | 0x0050 => do let a ← par loose 32 ws 0; let m ← par loose 32 ws 1; some (.fence via a m)
  | 0x0051 => do let a ← par loose 32 ws 0; let m ← par loose 32 ws 1; some (.unfence via a m)
  | 0x0052 => rungOf loose via ws
  | 0x0053 => autofenceOf loose via ws
  | 0x0054 => testOf loose via ws
  | 0x0055 => lendOf loose via ws
  | 0x0060 => timeCalOf loose via ws
  | 0x0061 => do
    let w ← par loose 6 ws 0; let b ← par loose 64 ws 1; let n ← par loose 64 ws 2; let a ← par loose 32 ws 3; let m ← par loose 32 ws 4
    some (.windowOpen via w b n a m)
  | 0x0062 => do let w ← par loose 6 ws 0; some (.windowClose via w)
  | 0x0063 => remoteOf loose via ws
  | 0x0070 => proposeOf loose via ws
  | 0x0071 => do
    let id ← par loose 16 ws 0
    some (.protectConfirm via id (byteArray ws 1 96) (byteArray ws 13 96) (bytesOf (ws.drop 25)))
  | 0x0072 => some (.lifecycleAdvance via (ws.take 16) (byteArray ws 16 96) (byteArray ws 28 96))
  | 0x0F00 => do let sp ← par loose 2 ws 0; let o ← par loose 32 ws 1; let n ← par loose 12 ws 2; some (.localRead via sp o n)
  | 0x0F01 => do let i ← par loose 2 ws 0; some (.fuseWrite via i (byteArray ws 1 48))
  | _ => none

def requestOf (via : Via) (cmd : BitVec 16) (ws : List Word) : Option Instr := requestRead false via cmd ws

end Sys2Proof
end

