-- ==== Sys2Proof/Config.lean ====
section
/-!
DEFINITION. What the integrator fixes, and the values the manual leaves open. Every `opaque` here is a value about
which nothing can be proved: a claim about it holds whatever it is.
-/
namespace Sys2Proof.Config

/-- The SHA-384 digest (R476, R521). The manual names the function by its standard; the model leaves its values
uninterpreted. Log entry 3. -/
opaque sha384 : List Byte → List Byte

/-- ECDSA P-384 verification of a signature (r, s) by a public key (X, Y) over a digest (R476, R521, R535).
Uninterpreted. Log entry 3. -/
opaque ecdsaVerify : (key sig digest : List Byte) → Bool

/-- HMAC-SHA-256 under the redaction key (R328). Uninterpreted. Log entry 3. -/
opaque hmacSha256 : (key msg : List Byte) → List Byte

/-- The 128-bit output of the deterministic random bit generator (R519), by draw number. Log entry 4. -/
opaque freeNonce : Nat → BitVec 128

/-- What a TIME_CAL reports of the other hubs, which answer no frame of Table 15.7 to the hub that runs it: the tree's
largest depth, whether every hub has all six links trained, the chips calibrated, the worst residual and spread, the
entries, and of one link its delay and whether it is a tree link (Table 16.10); the depths of its neighbours, whether the
tree is done only after its time, and the chips it has reached (R265), by draw number. Log entries 7 and 8. -/
opaque calDepth : Nat → BitVec 7
opaque calFullTorus : Nat → Bool
opaque calReached : Nat → BitVec 32
opaque calResidual : Nat → BitVec 64
opaque calSpread : Nat → BitVec 32
opaque calEntries : Nat → List (BitVec 64)
opaque calDelay : Nat → BitVec 64
opaque calIsTreeLink : Nat → Bool
opaque calNeighbourDepth : (draw port : Nat) → BitVec 8
opaque calLate : Nat → Bool
opaque calTree : Nat → List (BitVec 16)

/-- Which of the two check units a check of the hub's own takes, where both are its own (R330, R336), by draw number: true for
unit 1. Log entry 96. -/
opaque checkUnit : Nat → Bool

/-- The end status recorded for a command whose end shows the reserved status (R86), by draw number. Log entry 71. -/
opaque endStatus : Nat → BitVec 2

/-- Which item of a hub memory holds a word address, where the manual gives the memory no layout (R504, Table 16.13): by
memory code and address. Log entry 72. -/
opaque sramItem : (memory address : Nat) → Nat

end Sys2Proof.Config
end

