-- ==== Sys2Proof/Machine/Units.lean ====
section
/-!
DEFINITION. Units, sets and time: the unit address and its sets (chapter 01), access to cores, engines and the hub's global
time, result codes (Table 00.6).
-/
namespace Sys2Proof.Machine

/-! ## Result codes, Table 00.6 -/

def rOk : BitVec 8 := 0x00
def rPending : BitVec 8 := 0x01
def rPartial : BitVec 8 := 0x02
def rDenied : BitVec 8 := 0x10
def rSecondParty : BitVec 8 := 0x11
def rBadArg : BitVec 8 := 0x20
def rBadUnit : BitVec 8 := 0x21
def rBadContext : BitVec 8 := 0x22
def rVersion : BitVec 8 := 0x23
def rBusy : BitVec 8 := 0x30
def rNoResource : BitVec 8 := 0x31
def rTestStarved : BitVec 8 := 0x32
def rStale : BitVec 8 := 0x40
def rGeneration : BitVec 8 := 0x41
def rWindowClosed : BitVec 8 := 0x42
def rTimeout : BitVec 8 := 0x50
def rLateCut : BitVec 8 := 0x51
def rIncomplete : BitVec 8 := 0x52
def rEpochBoundary : BitVec 8 := 0x53
def rFaultXlate : BitVec 8 := 0x60
def rMemError : BitVec 8 := 0x61
def rFenced : BitVec 8 := 0x70
def rDegraded : BitVec 8 := 0x71
def rInternal : BitVec 8 := 0xFF

/-! ## Hub time and chip identity -/

/-- The hub's GT: the integer part of the time base (R44). -/
def hubGt (s : State) : GT := s.time.acc.toNat >>> 32

/-- `FW_STATUS.BASIC`: any state but RUNNING is basic service (R505). -/
def basic (s : State) : Bool := decide (s.fw.state ≠ .running)

/-- The hub serves commands in ON and PARTIAL only (Table 17.7), once its domain is powered (R565, R586). -/
def serving (s : State) : Bool := decide (s.power = .on ∨ s.power = .partialOn) && !s.pw.obsOff

/-- This chip's `CHIP` field, zero until the coordinates are set (R20, R610). -/
def chipOf (s : State) : BitVec 16 :=
  match s.mb.coord with
  | none => 0
  | some c => BitVec.ofNat 16 (c.x.toNat * 1024 + c.y.toNat * 32 + c.z.toNat)

/-- Torus dimensions; 1 x 1 x 1 until they are set (R610). -/
def dimsOf (s : State) : Nat × Nat × Nat :=
  match s.mb.coord with
  | none => (1, 1, 1)
  | some c => (c.dimx.toNat + 1, c.dimy.toNat + 1, c.dimz.toNat + 1)

def chipX (c : BitVec 16) : Nat := c.toNat / 1024
def chipY (c : BitVec 16) : Nat := c.toNat / 32 % 32
def chipZ (c : BitVec 16) : Nat := c.toNat % 32

/-- A `CHIP` field within the torus dimensions. -/
def inTorus (s : State) (c : BitVec 16) : Bool :=
  let d := dimsOf s
  decide (chipX c < d.1 ∧ chipY c < d.2.1 ∧ chipZ c < d.2.2)

/-! ## Levels and sets (R19 to R25, R610, R611) -/

/-- The level a valid mask names: 0 engine, 1 core, 2 cluster, 3 partition, 4 chip, 5 system. -/
def maskLevel (m : UnitAddr) : Option Nat :=
  if m = 0xFFFFFFFF then some 0 else if m = 0xFFFFFFF8 then some 1 else if m = 0xFFFFFF80 then some 2
  else if m = 0xFFFFE000 then some 3 else if m = 0xFFFF0000 then some 4 else if m = 0 then some 5 else none

/-- R23. -/
def setValid (a m : UnitAddr) : Bool := (maskLevel m).isSome && decide (a &&& ~~~m = 0)

/-- R610. -/
def namesOther (s : State) (a m : UnitAddr) : Bool :=
  if m >>> 16 = 0 then decide (dimsOf s ≠ (1, 1, 1)) else decide ((a >>> 16).setWidth 16 ≠ chipOf s)

/-- The set takes in this chip. -/
def namesHere (s : State) (a m : UnitAddr) : Bool :=
  decide (m >>> 16 = 0) || decide ((a >>> 16).setWidth 16 = chipOf s)

/-- The chip-local address of a core, and of an engine. -/
def coreAddr (c : Nat) : BitVec 16 := BitVec.ofNat 16 (c * 8)
def engAddr (c e : Nat) : BitVec 16 := BitVec.ofNat 16 (c * 8 + e)
def fullAddr (s : State) (l : BitVec 16) : UnitAddr := chipOf s ++ l

/-- The unit lies in the set. -/
def inSet (u a m : UnitAddr) : Bool := decide (u &&& m = a &&& m)

/-- Present cores of the set, ascending. -/
def coresIn (s : State) (a m : UnitAddr) : List Nat :=
  if namesHere s a m then
    (s.cores.map Prod.fst).filter fun c => inSet (fullAddr s (coreAddr c)) a (m &&& 0xFFFFFFF8)
  else []

def engPresent (c : Core) (e : Nat) : Bool := c.ties.engPresent.getLsbD e

/-- Present engines of a core. -/
def enginesOf (c : Core) : List Nat := (List.range 8).filter (engPresent c)

/-- Present engines of the set as (core, engine), ascending. -/
def enginesIn (s : State) (a m : UnitAddr) : List (Nat × Nat) :=
  (coresIn s a m).flatMap fun c =>
    match tget c s.cores with
    | none => []
    | some co => ((enginesOf co).filter fun e => inSet (fullAddr s (engAddr c e)) a m).map fun e => (c, e)

/-- Clusters with a present core of the set, ascending. -/
def clustersIn (s : State) (a m : UnitAddr) : List Nat := ((coresIn s a m).map (· / 16)).eraseDups

def clusterOf (core : Nat) : Nat := core / 16
def partOf (core : Nat) : Nat := core / 1024
def partOfCluster (cl : Nat) : Nat := cl / 64

/-- Every present core, every cluster and partition with a present core. -/
def allCores (s : State) : List Nat := s.cores.map Prod.fst
def allClusters (s : State) : List Nat := ((allCores s).map clusterOf).eraseDups
def allParts (s : State) : List Nat := ((allCores s).map partOf).eraseDups

/-- The set is no argument of a command at level `lvl`: R23, R25, and R611 for a command that reaches no other chip. -/
def setBadArg (s : State) (a m : UnitAddr) (lvl : Nat) (others : Bool := false) : Bool :=
  !setValid a m || decide ((maskLevel m).getD 9 < lvl) || (!others && namesOther s a m)

/-- R24: no present unit of this chip (and no other chip named), an absent single position, or a `CHIP` outside the torus. -/
def setBadUnit (s : State) (a m : UnitAddr) (lvl : Nat) : Bool :=
  (decide (m >>> 16 ≠ 0) && !inTorus s ((a >>> 16).setWidth 16)) ||
  (!namesOther s a m && (if lvl = 0 then (enginesIn s a m).isEmpty else (coresIn s a m).isEmpty))

/-! ## Access to cores and engines -/

def coreOf (s : State) (c : Nat) : Option Core := tget c s.cores
def modCore (c : Nat) (f : Core → Core) (s : State) : State := { s with cores := tmod c f s.cores }
def engOf (co : Core) (e : Nat) : Engine := co.engs.getD e {}
def modEngC (e : Nat) (f : Engine → Engine) (co : Core) : Core := { co with engs := co.engs.modify e f }
def modEng (c e : Nat) (f : Engine → Engine) (s : State) : State := modCore c (modEngC e f) s
def modCores (cs : List Nat) (f : Core → Core) (s : State) : State :=
  { s with cores := tmap (fun c co => if c ∈ cs then f co else co) s.cores }

/-- A word of the core descriptor (Table 09.3), and the length of its scan chains. -/
def descWordOf (co : Core) (i : Nat) : Word := co.ties.descriptor.getD i 0
def scanLen (co : Core) : Nat := bits (descWordOf co 1) 16 0

/-- The state a unit reports (R30): the core's own where it holds one, else its engines' by precedence. -/
def engReports (co : Core) (e : Nat) : Nat :=
  match co.st with
  | .hardStopped => 3 | .quiet => 4 | .fenced => 5 | .stale => 6 | .resetting => 7
  | .active => match (engOf co e).st with
    | .run => 0 | .softStopping => 1 | .stopped => 2 | .resetting => 7

/-- The state code of a core (Table 01.5 in the codes of the trace STATE record). -/
def coreReports (co : Core) : Nat :=
  match co.st with
  | .hardStopped => 3 | .quiet => 4 | .fenced => 5 | .stale => 6 | .resetting => 7
  | .active =>
    let es := (enginesOf co).map fun e => (engOf co e).st
    if EngState.resetting ∈ es then 7 else if EngState.softStopping ∈ es then 1
    else if EngState.stopped ∈ es then 2 else 0

/-- The core takes part in work: RUN or STOPPED in some form, not FENCED, STALE, QUIET or RESETTING. -/
def coreInService (co : Core) : Bool := decide (co.st = .active ∨ co.st = .hardStopped)

end Sys2Proof.Machine
end

