-- ==== Sys2Proof/Machine/Ops.lean ====
section
/-!
DEFINITION. The named operations every family shares: raising an event (chapter 16), logging a hub error (chapter 11), issuing
a host memory request through the governor (chapters 09, 20), sending an Iazan frame (chapter 15), answering a command on the
path it came by, and judging a command in the order of R14.
-/
namespace Sys2Proof.Machine

/-! ## Iazan: routing and sending (R440 to R451) -/

/-- The position of a neighbour through port `p` (R434). -/
def neighbourOf (s : State) (p : Nat) : BitVec 16 :=
  let c := chipOf s
  let d := dimsOf s
  let step := fun (v dim : Nat) => if p % 2 = 0 then (v + 1) % dim else (v + dim - 1) % dim
  let x := if p / 2 = 0 then step (chipX c) d.1 else chipX c
  let y := if p / 2 = 1 then step (chipY c) d.2.1 else chipY c
  let z := if p / 2 = 2 then step (chipZ c) d.2.2 else chipZ c
  BitVec.ofNat 16 (x * 1024 + y * 32 + z)

def dimOfPort (s : State) (p : Nat) : Nat :=
  let d := dimsOf s
  if p / 2 = 0 then d.1 else if p / 2 = 1 then d.2.1 else d.2.2

def axisOf (c : BitVec 16) (a : Nat) : Nat := if a = 0 then chipX c else if a = 1 then chipY c else chipZ c

def portOf (s : State) (p : Nat) : IzPort := s.iz.ports.getD p {}
def modPort (p : Nat) (f : IzPort → IzPort) (s : State) : State :=
  { s with iz := { s.iz with ports := s.iz.ports.modify p f } }

/-- The productive port of axis `a` towards `dst` (R451); none when the offset is zero. -/
def productive (s : State) (dst : BitVec 16) (a : Nat) : Option Nat :=
  let dim := dimOfPort s (2 * a)
  let k := (axisOf dst a + dim - axisOf (chipOf s) a) % dim
  if k = 0 then none else if k ≤ dim - k then some (2 * a) else some (2 * a + 1)

/-- R451: `usable(p)`. -/
def usablePort (s : State) (dst : BitVec 16) (minLevel : Nat) (arrival : Option Nat) (p : Nat) : Bool :=
  let q := portOf s p
  decide (q.st = .live) && decide (minLevel ≤ q.level.toNat) && (!q.navoid || decide (q.neighbour = dst)) &&
    decide (arrival ≠ some p)

/-- R451: the output port and whether DETOUR is set. -/
def routePort (s : State) (dst : BitVec 16) (minLevel : Nat) (arrival : Option Nat) : Option (Nat × Bool) :=
  match ([0, 1, 2].filterMap (productive s dst)) with
  | [] => none
  | first :: later =>
    let u := usablePort s dst minLevel arrival
    if u first then some (first, false)
    else match later.find? u with
      | some p => some (p, true)
      | none => ((List.range 6).find? u).map fun p => (p, true)

/-- Class of a frame type (Table 15.7). -/
def frameClass (t : BitVec 8) : BitVec 2 :=
  if t = 0x10 ∨ t = 0x11 then 0 else if t = 0x20 ∨ t = 0x21 then 1 else if t = 0x40 then 3 else 2

/-- Flits of a frame: 56 content bytes each over a 32-byte header and the payload (R440). -/
def flitsOf (f : Frame) : Nat := (32 + f.len.toNat + 55) / 56

/-! ## Frames as words (R440, R441) -/

/-- Table 15.5. -/
def headerWords (f : Frame) : List Word :=
  let h := f.hdr
  [pk [(48, 16, h.dst.toNat), (32, 16, h.src.toNat), (24, 8, h.type.toNat), (16, 8, h.hops.toNat), (0, 16, f.len.toNat)],
   pk [(40, 24, h.tag.toNat), (32, 8, h.sgen.toNat), (24, 8, h.tgen.toNat), (23, 1, b2n h.genchk), (22, 1, b2n h.resp),
     (21, 1, b2n h.detour), (19, 2, h.minlevel.toNat), (10, 9, f.rsv1.toNat), (9, 1, b2n h.noroute), (8, 1, b2n h.transit), (0, 8, h.result.toNat)],
   pk [(48, 16, h.fseq.toNat), (40, 8, h.principal.toNat), (32, 8, h.domain.toNat), (0, 32, f.rsv2.toNat)], f.rsv3]

/-- CHECK of a frame under a HOPSEQ. -/
def frameCheck (f : Frame) (hopseq : BitVec 16) : BitVec 32 :=
  crc32c 0 (bytesOf (headerWords f) ++ (bytesOf f.payload).take f.len.toNat) ^^^ hopseq.setWidth 32

/-- The flits of a frame as they cross the transmit interface (Tables 15.2, 15.3): content in address order, zero-padded, CHECK
in the last. -/
def frameFlits (t : TxFrame) (hopseq : BitVec 16) : List (List Word) :=
  let f := t.frame
  let n := flitsOf f
  let cut := bytesOf (headerWords f) ++ (bytesOf f.payload).take f.len.toNat
  let content := wordsOf (cut ++ List.replicate (56 * n - cut.length) 0)
  (List.range n).map fun k =>
    pk [(32, 32, if k + 1 = n then (frameCheck f hopseq).toNat else 0), (6, 2, 1), (4, 2, t.cls.toNat), (3, 1, b2n t.lane),
      (2, 1, b2n (decide (k = 0))), (1, 1, b2n (decide (k + 1 = n)))] :: (content.drop (7 * k)).take 7

/-- The 8 words of a link flit (Tables 15.3, 15.4). -/
def linkFlitWords (f : LinkFlit) : List Word :=
  let ws := [pk [(48, 16, f.chip.toNat), (40, 8, f.major.toNat), (32, 8, f.minor.toNat), (28, 4, f.maxlevel.toNat),
      (24, 3, f.port.toNat), (23, 1, b2n f.avoid), (22, 1, b2n f.fw), (21, 1, b2n f.unset), (20, 1, b2n f.nak),
      (10, 6, f.dimx.toNat), (5, 5, f.dimy.toNat), (0, 5, f.dimz.toNat)],
    pk [(48, 16, f.ackseq.toNat)], f.credits, 0, 0, 0, 0]
  pk [(32, 32, (crc32c 0 (bytesOf ws)).toNat), (6, 2, 2)] :: ws

/-- The link of port `p` crosses the dateline of its dimension (R443). -/
def crossesDateline (s : State) (p : Nat) : Bool :=
  let v := axisOf (chipOf s) (p / 2)
  if p % 2 = 0 then decide (v + 1 = dimOfPort s p) else decide (v = 0)

/-- The frames of a port that wait are served URGENT, TIME, CONTROL, BULK (R448), one class and lane only while its
credits cover the frame, and only while the replay buffer has room (R442, R443). -/
def nextTx (q : IzPort) : Option TxFrame :=
  let room := fun (f : TxFrame) =>
    decide (((q.replay.map fun r => flitsOf r.2.frame).foldl (· + ·) 0 + flitsOf f.frame) * 64 ≤ 32768) &&
    decide (flitsOf f.frame ≤ q.credits.getD (2 * f.cls.toNat + b2n f.lane) 0)
  let best := fun (c : Nat) => (q.txQ.find? fun f => decide (f.cls.toNat = c))
  [0, 1, 2, 3].findSome? fun c => (best c).bind fun f => if room f then some f else none

/-- The port hardware stamps a time frame as its first flit crosses the transmit interface: T1 of a request, T3 of an answer
(R59, R470). -/
def stampTime (now : GT) (f : TxFrame) : TxFrame :=
  let i := if f.frame.hdr.type = 0x20 then 1 else 3
  if f.frame.hdr.type = 0x20 ∨ f.frame.hdr.type = 0x21 then
    { f with frame := { f.frame with payload := f.frame.payload.set i (BitVec.ofNat 64 now) } } else f

/-- Send waiting frames of a port while they may be sent; `n` bounds how many. -/
def pumpPort (now : GT) : Nat → IzPort → IzPort
  | 0, q => q
  | n + 1, q =>
    if q.st ≠ .live then q else
    match nextTx q with
    | none => q
    | some f =>
      let ix := 2 * f.cls.toNat + b2n f.lane
      pumpPort now n { q with
        txQ := eraseFirst (fun g => g == f) q.txQ
        credits := q.credits.modify ix (· - flitsOf f.frame)
        replay := q.replay ++ [(q.txSeq, stampTime now f)], tx := frameFlits (stampTime now f) q.txSeq
        txSeq := q.txSeq + 1 }

/-- Put a frame in the queue of an output port at GT `now` and send what may be sent. -/
def sendAt (now : GT) (p : Nat) (lane : Bool) (f : Frame) (s : State) : State :=
  let t : TxFrame := { frame := f, cls := frameClass f.hdr.type, lane := lane, since := hubGt s }
  modPort p (fun q => pumpPort now (q.txQ.length + 1) { q with txQ := q.txQ ++ [t] }) s

def sendOn (p : Nat) (lane : Bool) (f : Frame) (s : State) : State := sendAt (hubGt s) p lane f s

/-- A header of a frame of this hub; the payload's length fills LEN. -/
def mkFrame (s : State) (dst : BitVec 16) (type : BitVec 8) (tag : BitVec 24) (minLevel : BitVec 2)
    (payload : List Word) (len : Nat) : Frame :=
  { hdr := { dst := dst, src := chipOf s, type := type, hops := 0, tag := tag, sgen := s.gens.chip, tgen := 0,
             genchk := false, resp := false, detour := false, minlevel := minLevel, noroute := false, transit := false,
             result := 0, fseq := 0, principal := 0, domain := 0 }
    len := BitVec.ofNat 16 len, payload := payload }

/-- A request that a hub answers when it cannot carry it (R447, R450, R451). -/
def isRequest (f : Frame) : Bool := decide (f.hdr.type = 0x30 ∨ f.hdr.type = 0x40 ∨ f.hdr.type = 0x50) && !f.hdr.resp

/-- The response that a hub on the way makes to a request's origin. -/
def refusalOf (s : State) (f : Frame) (code : BitVec 8) (noroute : Bool) : Frame :=
  let type : BitVec 8 := if f.hdr.type = 0x30 then 0x31 else if f.hdr.type = 0x40 then 0x41 else 0x50
  let r := mkFrame s f.hdr.src type f.hdr.tag f.hdr.minlevel [] 0
  { r with hdr := { r.hdr with resp := true, transit := true, noroute := noroute, result := code } }

def countDrop (s : State) : State := { s with iz := { s.iz with transitDrops := s.iz.transitDrops + 1 } }

/-- Put a frame among those received for this hub. -/
def receiveLocal (port : Option (BitVec 3)) (f : Frame) (arrive : GT) (s : State) : State :=
  { s with iz := { s.iz with local_ := s.iz.local_ ++ [{ port := port, frame := f, arrive := arrive }] } }

/-- Send a response: to this hub itself, or on its way; it is dropped where no port serves (R451). -/
def sendAnswer (f : Frame) (s : State) : State :=
  if f.hdr.dst = chipOf s then receiveLocal none f (hubGt s) s else
  match routePort s f.hdr.dst f.hdr.minlevel.toNat none with
  | some (p, d) => sendOn p (d || crossesDateline s p) { f with hdr := { f.hdr with detour := d } } s
  | none => countDrop s

/-- The lane a frame leaves on (R443): lane 1 after a detour, across a dateline, or on lane 1 already in this dimension. -/
def laneOut (s : State) (f : Frame) (arrival : Option Nat) (lane : Bool) (p : Nat) : Bool :=
  f.hdr.detour || crossesDateline s p || (lane && decide (arrival.map (· / 2) = some (p / 2)))

/-- Route a frame that is not for this hub (R447, R451): a request that finds no usable port is answered. -/
def routeFrame (f : Frame) (arrival : Option Nat) (lane : Bool) (s : State) : State :=
  match routePort s f.hdr.dst f.hdr.minlevel.toNat arrival with
  | some (p, d) =>
    let f := { f with hdr := { f.hdr with detour := f.hdr.detour || d } }
    sendOn p (laneOut s f arrival lane p) f s
  | none =>
    let low := routePort s f.hdr.dst 0 arrival
    let s := countDrop s
    let s := match low with
      | some (p, _) => modPort p (fun q => { q with versionDrop := satInc q.versionDrop }) s
      | none => s
    if isRequest f then
      sendAnswer (if low.isSome then refusalOf s f 0x23 false else refusalOf s f 0x50 true) s
    else s

/-- Send a frame of this hub. -/
def sendFrame (f : Frame) (s : State) : State := routeFrame f none false s

/-- Send a flood on every LIVE port at or above its level but the arrival port (R455, R457); an AVOID neighbour is sent
it too. -/
def floodOn (f : Frame) (arrival : Option Nat) (s : State) : State :=
  (List.range 6).foldl (fun s p =>
    let q := portOf s p
    if q.st = .live ∧ f.hdr.minlevel.toNat ≤ q.level.toNat ∧ arrival ≠ some p then
      sendOn p (crossesDateline s p) f s else s) s

/-- Originate a flood: FSEQ advances by one and the pair is recorded, so its echo is a duplicate (R453, R455). -/
def originateFlood (f : Frame) (s : State) : State :=
  let n := s.iz.fseq + 1
  let s := { s with iz := { s.iz with fseq := n, floods := pushRing 256 (chipOf s, n, hubGt s) s.iz.floods } }
  floodOn { f with hdr := { f.hdr with fseq := n } } none s

/-! ## Events (R500 to R503) -/

/-- A Dwepokin frame of this hub with its trailer (R544, R545). -/
def dwepFrame (s : State) (kind : Nat) (trunc : Bool) (seq : BitVec 16) (w1 : Word) (payload : List Word) : List Word :=
  let w0 := pk [(60, 4, 1), (56, 4, kind), (54, 1, b2n trunc), (32, 16, (chipOf s).toNat), (16, 16, 8 * payload.length),
    (0, 16, seq.toNat)]
  let body := w0 :: w1 :: payload
  let seed := (if kind = 1 then 0x40000000 else if kind = 2 then 0xC0000000 else 0xE0000000) + seq.toNat
  body ++ [(crc32c (BitVec.ofNat 32 seed) (bytesOf body)).setWidth 64]

/-- The 16 words of an event ring entry, Table 16.11. -/
def eventWords (e : Event) : List Word :=
  let ws := [pk [(48, 16, e.code.toNat), (40, 8, e.result.toNat), (32, 8, min e.payload.length 13), (16, 16, e.seq.toNat),
                 (12, 4, e.mailbox.toNat), (11, 1, b2n e.remote), (10, 1, b2n e.basic), (8, 2, e.line.toNat)],
             wn e.stamp, pk [(48, 16, e.origin.toNat), (0, 32, e.number.toNat)]] ++ e.payload.take 13
  ws ++ List.replicate (16 - ws.length) 0

/-- Queue an event frame for the narrow port: 64 are held, a new one replaces the oldest and sets EVDROP (R550). -/
def queueNarrow (ws : List Word) (s : State) : State :=
  let f : OutFrame := { words := ws, event := true }
  let full := decide (64 ≤ (s.narrow.outQ.filter (·.event)).length)
  let q := if full then eraseFirst (·.event) s.narrow.outQ else s.narrow.outQ
  { s with narrow := { s.narrow with outQ := q ++ [f], evdrop := s.narrow.evdrop || full } }

def narrowEvent (e : Event) (s : State) : State :=
  queueNarrow (dwepFrame s 3 false (e.number.setWidth 16) 0 (eventWords e)) s

/-- Events waiting: those of the queue and the one whose write is not complete. -/
def eventsWaiting (s : State) : Nat := s.events.queue.length + s.events.flying.toList.length

/-- Queue an event for the ring: at 1,024 the new event is dropped and counted (R501). -/
def queueEvent (e : Event) (s : State) : State :=
  let v := s.events
  let s1 := if eventsWaiting s < 1024 then { s with events := { v with queue := v.queue ++ [e] } }
    else { s with events := { v with
      dropped := satInc v.dropped
      overflow := some (match v.overflow with
        | none => (1, e.stamp, e.stamp)
        | some (n, f, _) => (n + 1, f, e.stamp)) } }
  if !v.enabled || v.held then narrowEvent e s1 else s1

/-- Completion events of commands answered PENDING, rungs excepted: not raised while basic service lasts (R506). -/
def pendingEvent (code : Nat) : Bool :=
  decide (code ∈ [0x0010, 0x0011, 0x0012, 0x0020, 0x0021, 0x0031, 0x0032, 0x0041])

/-- Raise an event (R500 to R502): NUMBER advances; an event that a narrow-port command causes goes to the port alone
(R550), of this chip or, for a relayed one, of its origin (R552); those of a remote command with NOTIFY also to its
origin (R464). -/
def raiseEvent (code : Nat) (line : Nat) (payload : List Word) (owner : Owner := {}) (result : BitVec 8 := 0)
    (s : State) : State :=
  if (basic s && pendingEvent code) || owner.silent then s else
  let e : Event := {
    code := BitVec.ofNat 16 code, result := result, seq := owner.seq, mailbox := owner.mailbox,
    remote := false, basic := basic s, line := BitVec.ofNat 2 line, stamp := hubGt s, origin := chipOf s,
    number := s.events.number, payload := payload.take 13 }
  let s := { s with events := { s.events with number := s.events.number + 1 } }
  let s := if owner.narrow then narrowEvent e s else if owner.narrowChip.isSome then s else queueEvent e s
  let s := match owner.notifyChip with
    | none => s
    | some c => sendFrame (mkFrame s c 0x32 0 1 (eventWords { e with seq := owner.seq }) 128) s
  match owner.narrowChip with
  | none => s
  | some c =>
    let f := mkFrame s c 0x50 0 1 (dwepFrame s 3 false (e.number.setWidth 16) 0 (eventWords e)) 152
    sendFrame { f with hdr := { f.hdr with resp := true } } s

/-! ## Errors of the hub's own logic (R339, R342) -/

/-- Put a record on its way to the intake queue. -/
def sendError (r : ErrRec) (s : State) : State :=
  { s with errors := { s.errors with flight := s.errors.flight ++ [r] } }

/-- An error record of a hub source: N is 1, UNIT, GEN and the tags are zero, CTX is 0xFFFF with CTX_V 0 (Table 11.3). -/
def hubError (src cls code : Nat) (addr : Nat) (detail : Word) (s : State) : State :=
  sendError { w0 := wn (hubGt s), w1 := pk [(60, 4, src), (58, 2, cls), (54, 4, 1), (0, 16, 0xFFFF)],
              w2 := pk [(48, 16, code), (0, 32, addr)], w3 := detail } s

/-! ## Host memory requests (R302, R303, R588) -/

/-- The governor's allowance per window of 4,000 GT in bytes: at most what the port moves in 1 µs at its peak of 320 GB/s (R302,
R303). -/
def allowance (s : State) : Nat := min (s.hm.declBw * s.hm.share / 10) 320000

/-- Bytes a request moves: whole beats of 64 bytes (R588). -/
def meterOf (r : HmReq) : Nat := (r.addr.toNat % 64 + r.bytes + 63) / 64 * 64

def classRank : GovClass → Nat
  | .ring => 0 | .pail => 1 | .crash => 2 | .capture => 3 | .trace => 4

/-- The lowest tag free among 64 on each of the four channels (R588). -/
def freeTag (s : State) : Option (BitVec 16) :=
  ((List.range 256).map fun i => BitVec.ofNat 16 (i / 64 * 256 + i % 64)).find? fun t =>
    !(s.hm.out.any fun r => r.tag == t)

/-- The waiting request served next: the earliest of the first class in serving order (R303). -/
def nextWaiting (ws : List HmReq) : Option HmReq :=
  [0, 1, 2, 3, 4].findSome? fun k => ws.find? fun r => decide (classRank r.cls = k)

/-- A check of the hub's own leaves RUN in the unit that made it: unit 0 while the host holds unit 1 (R335), else either one,
unit 1 after the feeds queued before it (R332; log entry 96). CK_CTRL.ALGO stays the host's. -/
def hubCheck (c64 : Bool) (run : Word) (s : State) : State :=
  let k := s.check
  if k.owner || !Config.checkUnit s.free then { s with free := s.free + 1, check := { k with run0 := run, crc0 := c64 } }
  else { s with free := s.free + 1, check := { k with run := run, queue := [] } }

/-- A write of a dump. -/
def dumpWrite (r : HmReq) : Bool := r.wr && decide (r.cls = .crash ∨ r.cls = .capture)

/-- While the host holds check unit 1, dumps write at most 160 GB/s, 160,000 bytes in a window (R335). -/
def dumpHeld (s : State) (r : HmReq) : Bool :=
  s.check.owner && dumpWrite r && decide (160000 < s.hm.dumped + meterOf r)

/-- The hub reads a READ word of the host: one beat of the window's bytes (R302; log entry 95). -/
def readMetered (s : State) : State := { s with hm := { s.hm with used := s.hm.used + 64 } }

/-- The read fits in the present window. -/
def readFits (s : State) : Bool := decide (s.hm.used + 64 ≤ allowance s)

/-- Issue waiting requests while the window's allowance and a free tag last; `n` bounds how many. -/
def pumpHm : Nat → State → State
  | 0, s => s
  | n + 1, s =>
    match nextWaiting (s.hm.waiting.filter fun r => !dumpHeld s r), freeTag s with
    | some r, some t =>
      if s.hm.used + meterOf r ≤ allowance s then
        pumpHm n { s with hm := { s.hm with
          waiting := eraseFirst (fun q => q == r) s.hm.waiting
          out := s.hm.out ++ [{ r with tag := t, issued := hubGt s }]
          lateTags := s.hm.lateTags.filter (· ≠ t)
          used := s.hm.used + meterOf r
          dumped := if dumpWrite r then s.hm.dumped + meterOf r else s.hm.dumped } }
      else s
    | _, _ => s

/-- Ask for a transfer. -/
def hmAsk (r : HmReq) (s : State) : State :=
  pumpHm (s.hm.waiting.length + 1) { s with hm := { s.hm with waiting := s.hm.waiting ++ [r] } }

/-- The pieces (offset, bytes) of a transfer that moves at most 64 beats and crosses no 4 KiB boundary (R588). -/
def piecesOf : Nat → Nat → Nat → List (Nat × Nat)
  | 0, _, _ => []
  | n + 1, addr, len =>
    if len = 0 then [] else
    let k := min len (4096 - addr % 4096)
    (addr, k) :: piecesOf n (addr + k) (len - k)

def splitTransfer (addr len : Nat) : List (Nat × Nat) := piecesOf (len / 4096 + 2) addr len

/-- Drop what waits under a purpose; what is outstanding under it is then no one's. -/
def hmCancel (p : Purpose → Bool) (s : State) : State :=
  { s with hm := { s.hm with
    waiting := s.hm.waiting.filter fun r => !p r.purpose
    out := s.hm.out.map fun r => if p r.purpose then { r with purpose := .nobody } else r } }

/-! ## Who asks (R489, R508, R514 to R517, R548, R552) -/

def principalCode : Principal → BitVec 8
  | .operator => 1 | .platform => 2 | .tenant _ => 3 | .vendor => 4

def principalDomain : Principal → BitVec 8
  | .tenant d => d | _ => 0

def principalOf (code dom : BitVec 8) : Option Principal :=
  if code = 1 then some .operator else if code = 2 then some .platform
  else if code = 3 then some (.tenant dom) else if code = 4 then some .vendor else none

def levelRank : DebugLevel → Nat
  | .sealedLevel => 0 | .observe => 1 | .invasive => 2

def levelOfNat (n : Nat) : DebugLevel := if n = 0 then .sealedLevel else if n = 1 then .observe else .invasive

def minLevel (a b : DebugLevel) : DebugLevel := if levelRank a ≤ levelRank b then a else b

/-- The principal of a mailbox: its binding; in RETURN only the Platform on mailbox 15 holds rights (Table 17.8). -/
def mailboxWho (s : State) (m : Nat) : Option Principal :=
  if s.fuses.lifecycle = .returned ∧ m ≠ 15 then none else (s.protect.bindings.getD m none)

/-- The principal and level a path stands for when its command is taken now. -/
def viaWho (s : State) : Via → Option Principal × DebugLevel
  | .mailbox m => (mailboxWho s m.toNat, s.protect.debug)
  | .narrow _ => (s.narrow.who, s.narrow.level)
  | .remote _ _ => (none, .sealedLevel)
  | .narrowRemote _ _ => (none, .sealedLevel)

def takenOf (s : State) (via : Via) : Option Taken := s.mb.taken.find? fun t => t.via == via

/-- The principal of a command that runs. -/
def whoOf (s : State) (via : Via) : Option Principal := (takenOf s via).bind (·.who)

/-- Its effective debug level (R515). -/
def debugOf (s : State) (via : Via) : DebugLevel := ((takenOf s via).map (·.debug)).getD .sealedLevel

def isNarrow : Via → Bool
  | .narrow _ => true | .narrowRemote _ _ => true | _ => false

/-- The issuer of events a command causes (R502, R550, R464, R552). -/
def ownerOf (s : State) (via : Via) : Owner :=
  match via, takenOf s via with
  | .mailbox m, some t => { mailbox := m, seq := t.seq }
  | .mailbox m, none => { mailbox := m }
  | .narrow q, t => { seq := (t.map (·.seq)).getD q, narrow := true }
  | .remote c _, some t => if t.notify then { seq := t.seq, notifyChip := some c } else {}
  | .remote _ _, none => {}
  | .narrowRemote c _, _ => { narrowChip := some c }

/-- The mailbox protocol level a command runs at; the port and remote requests run at level 4 (R490, R548). -/
def protoLevel (s : State) : Via → Nat
  | .mailbox m => (s.mb.levels.getD m.toNat 0).toNat
  | _ => 4

/-- The mailbox runs at level 3, at which R491 takes some commands and forms away. -/
def levelThree (s : State) (via : Via) : Bool := decide (protoLevel s via = 3)

/-! ## Answering (R484, R486, R548, R464, R465) -/

/-- The response word (R486). -/
def responseWord (s : State) (code : BitVec 8) (badCheck : Bool) (len : Nat) (cmd : BitVec 16) : Word :=
  pk [(0, 8, code.toNat), (8, 1, b2n badCheck), (9, 1, b2n (basic s)), (16, 16, len), (48, 16, cmd.toNat)]

/-- A seal word with its CHECK over bytes 0x008 to 0x03F + LEN (R481, R482). -/
def sealWord (check : BitVec 32) (seq : BitVec 16) (st : Nat) : Word :=
  pk [(32, 32, check.toNat), (16, 16, seq.toNat), (0, 4, st)]

/-- Write the results, the response word and the seal word DONE of mailbox `m`. -/
def mailboxDone (m : Nat) (seq cmd : BitVec 16) (code : BitVec 8) (badCheck : Bool) (ws : List Word) (s : State) : State :=
  let base := 4096 * m
  let ws := ws.take 504
  let m1 := memWriteWords (base + 0x40) ws s.mb.mem
  let m2 := memWriteWords (base + 8) [responseWord s code badCheck (8 * ws.length) cmd] m1
  let seed := BitVec.ofNat 32 (0x80000000 + m * 65536 + seq.toNat)
  let check := crc32c seed (memBytes (base + 8) (0x38 + 8 * ws.length) m2)
  { s with mb := { s.mb with mem := memWriteWords base [sealWord check seq 3] m2 } }

/-- The open request held under a key and not yet answered. -/
def openReq (key : BitVec 16) (s : State) : Option OpenReq :=
  s.narrow.open_.find? fun o => o.key == key && !o.answered

/-- Queue a RESPONSE frame at the narrow port, cut to 3,520 bytes with TRUNC (R548); none when the request's session
has ended (R550). -/
def narrowRespond (key seq cmd : BitVec 16) (code : BitVec 8) (badCheck : Bool) (ws : List Word) (s : State) : State :=
  let cut := ws.take 440
  let f : OutFrame := {
    event := false, closes := some key
    words := dwepFrame s 2 (decide (440 < ws.length)) seq (responseWord s code badCheck (8 * cut.length) cmd) cut }
  match openReq key s with
  | some o =>
    if o.dead then { s with narrow := { s.narrow with open_ := eraseFirst (fun q => q == o) s.narrow.open_ } }
    else { s with narrow := { s.narrow with
      open_ := modFirst (fun q => q == o) (fun q => { q with answered := true }) s.narrow.open_
      outQ := s.narrow.outQ ++ [f] } }
  | none => { s with narrow := { s.narrow with outQ := s.narrow.outQ ++ [f] } }

/-- Send a response frame to the origin of a tagged request and keep it under R465. -/
def sendResponse (src : BitVec 16) (tag : BitVec 24) (type : BitVec 8) (minlevel : BitVec 2) (code : BitVec 8)
    (payload : List Word) (s : State) : State :=
  let f := mkFrame s src type tag minlevel payload (8 * payload.length)
  let f := { f with hdr := { f.hdr with resp := true, result := code } }
  let now := hubGt s
  let rs := modFirst (fun r => r.src == src && r.tag == tag && r.frame.isNone) (fun r => { r with frame := some f, at_ := now })
    s.iz.responses
  let s := { s with iz := { s.iz with responses := rs } }
  sendFrame f s

/-- Answer a command on the path it came by and end it. A mailbox is DONE before any event the command causes; with
NOTIFY it raises MAILBOX_DONE (R484). A path that holds no command is not answered. -/
def respondWith (via : Via) (code : BitVec 8) (badCheck : Bool) (ws : List Word) (s : State) : State :=
  match takenOf s via with
  | none => s
  | some t =>
    let cmd := t.cmd
    let s1 := { s with mb := { s.mb with taken := eraseFirst (fun q => q.via == via) s.mb.taken } }
    match via with
    | .mailbox m =>
      let s2 := mailboxDone m.toNat t.seq cmd code badCheck ws s1
      if t.notify then
        raiseEvent 0x0001 0 [responseWord s code badCheck (8 * (ws.take 504).length) cmd] { mailbox := m, seq := t.seq } code s2
      else s2
    | .narrow q => narrowRespond q t.seq cmd code badCheck ws s1
    | .remote src tag => sendResponse src tag 0x31 1 code (ws.take 444) s1
    | .narrowRemote src tag =>
      let cut := ws.take 440
      sendResponse src tag 0x50 1 code
        (dwepFrame s 2 (decide (440 < ws.length)) t.seq (responseWord s code badCheck (8 * cut.length) cmd) cut) s1

/-- The path of a completion that nobody waits for any more: no request carries TAG 0 (R463). -/
def deadPath : Via := .remote 0 0

def respond (via : Via) (code : BitVec 8) (ws : List Word) (s : State) : State := respondWith via code false ws s

/-! ## Judging a command (R14, R487, R506, R514, R515) -/

/-- The first failing condition of a list in the order of R14. -/
def firstCode : List (Bool × BitVec 8) → Option (BitVec 8)
  | [] => none
  | (b, c) :: l => if b then some c else firstCode l

/-- The command's record, marked running. A row whose path holds no TAKEN command stands for the sealing and taking of
its command as well, with SEQ 0 (log entry 6). `i` is the command with its parameters, READ words of the host as zero: no command
runs where the path holds another one, one that already runs, or where the power state serves none (Table 17.7). -/
def startCall (via : Via) (cmd : BitVec 16) (i : Instr) (s : State) : Option State :=
  if serving s then
    match takenOf s via with
    | some t =>
      if t.cmd = cmd ∧ t.running = false ∧ t.instr = some i then
        some { s with mb := { s.mb with
          taken := modFirst (fun q => q.via == via) (fun q => { q with running := true }) s.mb.taken } }
      else none
    | none =>
      let w := viaWho s via
      some { s with mb := { s.mb with taken := s.mb.taken ++
        [{ via := via, cmd := cmd, seq := (match via with | .narrow q => q | _ => 0), notify := false, who := w.1,
           debug := w.2, instr := none, running := true }] } }
  else none

/-- What comes before the order of R14: the missing HELLO of a mailbox (R487), then DEGRADED for a command that basic
service does not serve at all (R506). -/
def preCode (via : Via) (served : Bool) (isHello : Bool) (s : State) : Option (BitVec 8) :=
  let noHello := match via with
    | .mailbox m => !(s.mb.hello.getD m.toNat false) && !isHello
    | _ => false
  if noHello then some rVersion else if basic s && !served then some rDegraded else none

/-- The code with which a command is refused, and BADCHECK: of a malformed one BAD_ARG, unless a condition that R14 puts before it
holds too. -/
def judged (s : State) (via : Via) (code : Option (BitVec 8)) : Option (BitVec 8 × Bool) :=
  match (takenOf s via).bind (·.bad) with
  | none => code.map fun c => (c, false)
  | some check => match code with
    | some c => if c = rVersion ∨ c = rDenied ∨ c = rSecondParty then some (c, false) else some (rBadArg, check)
    | none => some (rBadArg, check)

/-- Run a command of the catalogue: judge it, then refuse it or act. -/
def command (via : Via) (cmd : BitVec 16) (i : Instr) (served : Bool) (checks : State → List (Bool × BitVec 8))
    (act : State → State) (s : State) : State :=
  match startCall via cmd i s with
  | none => s
  | some s1 =>
    match preCode via served (decide (cmd = 1)) s1 with
    | some c => respond via c [] s1
    | none =>
      match judged s1 via (firstCode (checks s1)) with
      | some c => respondWith via c.1 c.2 [] s1
      | none => act s1

/-- Rights of Table 17.5. -/
inductive Right where
  | everyone | opPlat | opPlatVen
deriving DecidableEq, Repr

def holds (r : Right) (who : Option Principal) : Bool :=
  match who, r with
  | none, _ => false
  | some (.tenant _), .everyone => true
  | some (.tenant _), _ => false
  | some .vendor, .opPlat => false
  | some _, _ => true

def isTenant (who : Option Principal) : Bool :=
  match who with | some (.tenant _) => true | _ => false

/-- R514 and R515: the issuer lacks the right, or, unless it is a Tenant, the effective level is below `least`. -/
def denied (s : State) (via : Via) (r : Right) (least : DebugLevel) : Bool :=
  !holds r (whoOf s via) || (!isTenant (whoOf s via) && decide (levelRank (debugOf s via) < levelRank least))

/-- The lifecycle state's code (Table 17.9). -/
def lifecycleCode : Lifecycle → Nat
  | .manufacture => 0 | .provision => 1 | .deployed => 2 | .returned => 3

/-- The grant of a principal (Table 17.2). -/
def grantOf (s : State) (who : Option Principal) : Option InclGrant :=
  match who with
  | some .operator => s.protect.inclOp
  | some .platform => s.protect.inclPl
  | _ => none

/-- R530: INCL at 1 is refused. `scope` is the scope bit; `ownDomain` the domain that owns the one context a SKIM_ARM
names with CTX_MASK 0xFFFF. A grant is suspended while the chip debug level is below INVASIVE. -/
def inclDenied (s : State) (via : Via) (incl : Bool) (scope : Nat) (ownDomain : Option (BitVec 8) := none) : Bool :=
  incl && !(decide (debugOf s via = .invasive) && decide (s.protect.debug = .invasive) &&
    decide (s.fuses.lifecycle = .provision ∨ s.fuses.lifecycle = .deployed) &&
    (match grantOf s (whoOf s via) with
     | none => false
     | some g => g.scope.getLsbD scope && decide (hubGt s < g.notAfter.toNat) && (g.all || decide (ownDomain = some g.domain))))

end Sys2Proof.Machine
end

