-- ==== Sys2Proof/Machine/Hub.lean ====
section
/-!
DEFINITION. HELLO, CAPS, EVENT_RING_SET, CTX_DEFINE and CTX_RETIRE (chapter 16), the capability words the registers share
with CAPS, and the event ring's writer.
-/
namespace Sys2Proof.Machine

/-! ## Link state (R444, R454) -/

def portStateCode : PortState → Nat
  | .down => 0 | .training => 1 | .live => 2 | .fenced => 3

/-- This chip's link-state entry: state, level and neighbour AVOID of port p from bit 5p, its own AVOID in bit 30 (log
entry 63). -/
def linkEntryBits (s : State) : Nat :=
  (s.iz.ports.zipIdx.map fun q =>
    (portStateCode q.1.st + 4 * (q.1.level.toNat % 4) + 16 * b2n q.1.navoid) * 2 ^ (5 * q.2)).foldl (· + ·) 0 + 2 ^ 30 * b2n s.iz.avoid

/-- Flood this hub's entry with its sequence number. -/
def floodLinkState (s : State) : State :=
  let n := s.iz.linkSeq + 1
  let now := hubGt s
  originateFlood (mkFrame s 0 0x12 0 1 [pk [(32, 16, n.toNat), (0, 32, linkEntryBits s)]] 8)
    { s with iz := { s.iz with linkSeq := n, lastLinkFlood := now } }

/-- A port's state or level changes: the link event, and this hub's entry. -/
def setPort (p : Nat) (st : PortState) (level : BitVec 4) (s : State) : State :=
  let q := portOf s p
  if q.st = st ∧ q.level = level then s else
  let s := modPort p (fun q => { q with st := st, level := level }) s
  floodLinkState (raiseEvent 0x0203 2 [wn p, wn (portStateCode st), wn level.toNat, q.neighbour.setWidth 64] {} 0 s)

/-- The coordinates have been set: ports of a dimension of size 1 stay DOWN (R445). -/
def coordPorts (s : State) : State :=
  (List.range 6).foldl (fun s p =>
    if (portOf s p).st ≠ .down ∧ dimOfPort s p < 2 then setPort p .down 0 s else s) s

/-! ## HELLO (R490 to R492) -/

/-- `FW_STATUS.STATE` (Table 16.2). -/
def fwCode : FwState → Nat
  | .absent => 0 | .loading => 1 | .running => 2 | .rejectedFormat => 3 | .rejectedKey => 4 | .rejectedVersion => 5
  | .rejectedSig => 6 | .sramFault => 7 | .failed => 8

def coordSet (s : State) : Bool := s.mb.coord.isSome

/-- Table 16.5, result identity. -/
def identityWord (s : State) : Word :=
  pk [(48, 16, s.fw.major.toNat), (32, 16, s.fw.minor.toNat), (24, 8, 4), (16, 8, 1), (0, 16, (chipOf s).toNat)]

/-- A SETCOORD is no argument: a coordinate above its dimension, or values other than those already set (R492). -/
def setcoordBad (s : State) (c : Coord) : Bool :=
  decide (c.dimx < c.x) || decide (c.dimy < c.y) || decide (c.dimz < c.z) ||
    (match s.mb.coord with | none => false | some d => decide (d ≠ c))

/-- The level HELLO negotiates: min(MAX_LEVEL, 4) when it is at least max(MIN_LEVEL, 3) (R490). -/
def helloLevel (minL maxL : BitVec 8) : Option (BitVec 8) :=
  let l := if maxL ≤ 4 then maxL else 4
  let least := if 3 ≤ minL then minL else 3
  if least ≤ l then some l else none

def helloAct (via : Via) (lvl : BitVec 8) (setcoord : Bool) (c : Coord) (s : State) : State :=
  let s := if setcoord then coordPorts { s with mb := { s.mb with coord := some c } } else s
  let s := match via with
    | .mailbox m => { s with mb := { s.mb with
        levels := s.mb.levels.set m.toNat lvl, hello := s.mb.hello.set m.toNat true } }
    | _ => s
  respond via rOk [lvl.setWidth 64, identityWord s,
    pk [(0, 4, fwCode s.fw.state), (4, 1, b2n (basic s)), (5, 1, b2n (coordSet s))]] s

/-- The path takes no HELLO: a mailbox other than 15 in RETURN (Table 17.8), a port without a principal. -/
def helloShut (s : State) : Via → Bool
  | .mailbox m => decide (s.fuses.lifecycle = .returned ∧ m ≠ 15)
  | via => !holds .everyone (whoOf s via)

/-- HELLO. It is served on an unbound mailbox too (R508), but sets no coordinates there; in RETURN every mailbox but 15
is denied (Table 17.8). -/
def execHello (via : Via) (minL maxL : BitVec 8) (setcoord : Bool) (x : BitVec 6) (y z : BitVec 5) (dimx : BitVec 6)
    (dimy dimz : BitVec 5) (s : State) : Host.Outcome State Fault Refusal :=
  let c : Coord := { x := x, y := y, z := z, dimx := dimx, dimy := dimy, dimz := dimz }
  .next (match startCall via 0x0001 (.hello via minL maxL setcoord x y z dimx dimy dimz) s with
    | none => s
    | some s1 =>
      match helloLevel minL maxL with
      | none => respond via rVersion [3, 4] s1
      | some l =>
        let code := firstCode [(helloShut s1 via || (setcoord && !holds .opPlatVen (whoOf s1 via)), rDenied),
          (setcoord && setcoordBad s1 c, rBadArg)]
        match judged s1 via code with
        | some c => respondWith via c.1 c.2 [] s1
        | none => helloAct via l setcoord c s1)

/-! ## CAPS (R493, R494) -/

/-- The scan group: the 256 enrolled cores with a chain and the lowest addresses (R109). -/
def scanGroup (s : State) : List Nat :=
  ((s.cores.filter fun p => p.2.ties.scanEnrolled && decide (p.2.ties.scanChains ≠ 0)).map Prod.fst).take 256

def presentEngines (s : State) : Nat := (s.cores.map fun p => popcount p.2.ties.engPresent).foldl (· + ·) 0

/-- Table 16.6 word 2, also `PRESENT_SUM`. -/
def summaryWord2 (s : State) : Word :=
  pk [(56, 8, ((allParts s).map fun p => 2 ^ p).foldl (· + ·) 0), (46, 10, (allClusters s).length),
      (32, 14, s.cores.length), (15, 17, presentEngines s), (0, 9, (scanGroup s).length)]

def timeStateCode : TimeState → Nat
  | .free => 0 | .calibrating => 1 | .locked => 2 | .holdover => 3

/-- Table 16.6 word 3, also `LINK_SUM`. -/
def summaryWord3 (s : State) : Word :=
  let modes := (s.ties.izMode.zipIdx.map fun p => p.1.toNat <<< (2 * p.2)).foldl (· + ·) 0
  pk [(48, 16, s.ties.linkPresent.toNat), (32, 16, s.ties.tpPresent.toNat), (0, 12, modes),
      (12, 4, timeStateCode s.time.state)]

def summaryWord1 (s : State) (level : Nat) : Word :=
  let c := s.mb.coord.getD { x := 0, y := 0, z := 0, dimx := 0, dimy := 0, dimz := 0 }
  pk [(58, 6, c.dimx.toNat), (53, 5, c.dimy.toNat), (48, 5, c.dimz.toNat), (47, 1, b2n (coordSet s)),
      (46, 1, b2n (basic s)), (40, 4, fwCode s.fw.state), (32, 8, 0x18), (0, 8, level)]

/-- Table 16.6 word 0. -/
def summaryWord0 (s : State) : Word :=
  pk [(48, 16, (chipOf s).toNat), (32, 16, s.fw.major.toNat), (16, 16, s.fw.minor.toNat), (8, 8, 4), (0, 8, 1)]

def capsSummaryWords (s : State) (via : Via) : List Word :=
  [summaryWord0 s, summaryWord1 s (protoLevel s via), summaryWord2 s, summaryWord3 s]

/-- CAPS PART 0 SUMMARY, which a Tenant may read too. -/
def execCapsSummary (via : Via) (s : State) : Host.Outcome State Fault Refusal :=
  .next (command via 0x0002 (.capsSummary via) true (fun s => [(denied s via .everyone .sealedLevel, rDenied)])
    (fun s => respond via rOk (capsSummaryWords s via) s) s)

/-- A presence entry, Table 16.7. -/
def presenceEntry (s : State) (i : Nat) : Nat :=
  match coreOf s i with
  | none => 0
  | some c =>
    2 ^ 31 + b2n (decide (i ∈ scanGroup s)) <<< 30 + b2n c.ties.scanEnrolled <<< 29 + c.ties.scanDiv.toNat <<< 27 +
      c.ties.scanChains.toNat <<< 21 + b2n c.ties.defect <<< 20 + c.ties.steerPresent.toNat <<< 16 +
      c.ties.engPresent.toNat <<< 8

/-- Entries packed two to a word, the lower index in the low half (R6). -/
def pairWords : List Nat → List Word
  | [] => []
  | [a] => [wn a]
  | a :: b :: l => wn (a + b <<< 32) :: pairWords l

/-- CAPS PART 1 PRESENCE: header word 0 with FIRST, then up to 1,000 entries. -/
def execCapsPresence (via : Via) (first : BitVec 13) (s : State) : Host.Outcome State Fault Refusal :=
  .next (command via 0x0002 (.capsPresence via first) true (fun s => [(denied s via .opPlatVen .sealedLevel, rDenied)])
    (fun s =>
      let n := min 1000 (8192 - first.toNat)
      respond via rOk (pk [(0, 32, 8192), (32, 16, first.toNat)] ::
        pairWords ((List.range n).map fun k => presenceEntry s (first.toNat + k))) s) s)

/-- Table 16.8, the 8 words of a port. -/
def portWords (q : IzPort) : List Word :=
  [pk [(48, 16, q.neighbour.toNat), (44, 4, portStateCode q.st), (40, 4, q.level.toNat), (37, 1, b2n q.navoid)],
   pk [(32, 32, q.checkFail.toNat), (0, 32, q.nak.toNat)], pk [(32, 32, q.retrain.toNat), (0, 32, q.aged.toNat)],
   pk [(32, 32, q.hopsDrop.toNat), (0, 32, q.badType.toNat)], pk [(32, 32, q.dupFlood.toNat), (0, 32, q.versionDrop.toNat)],
   0, 0, 0]

/-- CAPS PART 2 IAZAN. -/
def execCapsIazan (via : Via) (s : State) : Host.Outcome State Fault Refusal :=
  .next (command via 0x0002 (.capsIazan via) true (fun s => [(denied s via .opPlatVen .sealedLevel, rDenied)])
    (fun s => respond via rOk
      (pk [(32, 32, s.iz.lateRsp.toNat), (17, 15, s.iz.tracker.length), (0, 1, b2n s.iz.avoid)] ::
        s.iz.ports.flatMap portWords) s) s)

/-! ## The event ring (R498, R500, R501, R503, R607) -/

/-- The ring's bytes of entries (R498, R500). -/
def ringBytes (s : State) : Nat := (2 ^ s.events.log2.toNat - 128) / 128 * 128

def ringBase (s : State) : Nat := s.events.base.toNat * 4096

/-- The ring's requests in flight are abandoned and the event they were writing is held in the queue again (log entry 98). -/
def ringAbandon (s : State) : State :=
  let s := hmCancel (fun p => match p with
    | .eventControl | .eventEntry _ | .eventPointer _ | .eventRead => true | _ => false) s
  { s with events := { s.events with queue := s.events.flying.toList ++ s.events.queue, flying := none } }

/-- EVENT_RING_SET: with ENABLE the control block's WRITE, READ and DROPPED are written zero before any event. -/
def execEventRingSet (via : Via) (base : Word) (log2 : BitVec 6) (enable : Bool) (s : State) :
    Host.Outcome State Fault Refusal :=
  .next (command via 0x0003 (.eventRingSet via base log2 enable) true
    (fun s => [(denied s via .opPlat .sealedLevel, rDenied),
      (decide (base.toNat % 4096 ≠ 0 ∨ log2.toNat < 16 ∨ 26 < log2.toNat), rBadArg)])
    (fun s =>
      let s := ringAbandon s
      let s := { s with events := { s.events with
        base := (base >>> 12).setWidth 52, log2 := log2, enabled := enable, held := false
        write := if enable then 0 else s.events.write
        read := if enable then 0 else s.events.read
        dropped := if enable then 0 else s.events.dropped
        wait := if enable then some .control else none } }
      let s := if enable then hmAsk { purpose := .eventControl, cls := .ring, wr := true, addr := base, bytes := 24,
                                      data := [0, 0, 0] } s else s
      respond via rOk [] s) s)

/-- The event written next: OVERFLOW first when events were dropped, else the oldest of the queue (R501). -/
def nextEvent (s : State) : Option (Event × State) :=
  match s.events.overflow with
  | some (n, f, l) =>
    some ({ code := 0x0302, result := 0, seq := 0, mailbox := 0, remote := false, basic := basic s, line := 3,
            stamp := hubGt s, origin := chipOf s, number := s.events.number, payload := [wn n, wn f, wn l] },
      { s with events := { s.events with overflow := none, number := s.events.number + 1 } })
  | none =>
    match s.events.queue with
    | [] => none
    | e :: q => some (e, { s with events := { s.events with queue := q } })

/-- The ring has room for one more entry that the host has released (R500). -/
def ringHasRoom (s : State) : Bool :=
  decide ((s.events.write + ringBytes s - s.events.read) % ringBytes s + 128 < ringBytes s)

/-- EVENT_RING_WRITE: the oldest event is written to the ring; WRITE and its line follow when the write is answered
(R500, R591). Nothing is written while the ring is disabled, held, full or its last write is unanswered. -/
def execEventRingWrite (s : State) : Host.Outcome State Fault Refusal :=
  .next (
    if s.events.enabled && !s.events.held && s.events.wait.isNone && ringHasRoom s && serving s then
      match nextEvent s with
      | none => s
      | some (e, s1) =>
        hmAsk { purpose := .eventEntry e.line, cls := .ring, wr := true,
                addr := wn (ringBase s + 128 + s.events.write), bytes := 128, data := eventWords e }
          { s1 with events := { s1.events with wait := some (.entry e.line), flying := some e } }
    else s)

/-- EVENT_RING_READ_POLL: the hub reads READ, which the host presents as `read` (R500). -/
def execEventRingReadPoll (read : Word) (s : State) : Host.Outcome State Fault Refusal :=
  .next (if s.events.enabled && serving s && readFits s then
    readMetered { s with events := { s.events with read := read.toNat } } else s)

/-- A ring write was answered OK: an entry's is followed by the write of WRITE past it, whose answer sets the line's bit
(R503, R591). -/
def ringWritten (p : Purpose) (s : State) : State :=
  match p with
  | .eventControl => { s with events := { s.events with wait := none } }
  | .eventEntry l =>
    let w := (s.events.write + 128) % ringBytes s
    hmAsk { purpose := .eventPointer l, cls := .ring, wr := true, addr := wn (ringBase s), bytes := 24,
            data := [wn w, 0, s.events.dropped], be := some 0xFF00FF }
      { s with events := { s.events with write := w, wait := some (.pointer l) } }
  | .eventPointer l => { s with events := { s.events with wait := none, flying := none
                                                          line := setBit s.events.line l.toNat true } }
  | _ => s

/-- A ring write met a fault: events are held and RING_FAULT is set until EVENT_RING_SET (R503, R607). -/
def ringFaulted (s : State) : State :=
  let s := ringAbandon s
  { s with events := { s.events with held := true, ringFault := true, wait := none } }

/-- `th_irq[n]` (R607). -/
def irqLine (s : State) (n : Nat) : Bool :=
  (s.events.line.getLsbD n && s.events.en.getLsbD n) || (decide (n = 3) && s.events.ringFault)

/-! ## Contexts (R496, R497, R513) -/

/-- A context is defined. -/
def ctxDefined (s : State) (c : Nat) : Bool := ((tget c s.ctxs).map (·.defined)).getD false

/-- The DOMAIN of a context's ATTR (Table 17.4). -/
def ctxDomain (s : State) (c : Nat) : BitVec 8 := ((tget c s.ctxs).map fun x => fieldB 8 x.attr 0).getD 0
def ctxSecure (s : State) (c : Nat) : Bool := ((tget c s.ctxs).map fun x => x.defined && bit x.attr 8).getD false
def ctxPriv (s : State) (c : Nat) : Bool := ((tget c s.ctxs).map fun x => x.defined && bit x.attr 9).getD false

def domainExists (s : State) (d : BitVec 8) : Bool := decide (d = 0) || decide (d ∈ s.protect.domains)

/-- The defined contexts of a range. -/
def definedIn (s : State) (first count : Nat) : List Nat :=
  (s.ctxs.filter fun p => p.2.defined && decide (first ≤ p.1) && decide (p.1 < first + count)).map Prod.fst

/-- A run of context entries with one ATTR, counters and progress words zero. -/
def freshCtxs (first count : Nat) (attr : Word) : Tab Ctx :=
  (List.range count).map fun k => (first + k, { attr := attr })

def execCtxDefine (via : Via) (first : BitVec 16) (count : BitVec 17) (attr : Word) (s : State) :
    Host.Outcome State Fault Refusal :=
  let f := first.toNat
  let n := count.toNat
  let dom := fieldB 8 attr 0
  .next (command via 0x0010 (.ctxDefine via first count attr) false
    (fun s => [
      (denied s via .opPlat .sealedLevel, rDenied),
      (bit attr 8 && (decide (s.fuses.lifecycle = .manufacture ∨ s.fuses.lifecycle = .returned) ||
        s.fuses.redactKey.isNone), rDenied),
      (decide (n = 0 ∨ 65536 < n ∨ 65536 < f + n) || !domainExists s dom || (bit attr 9 && decide (dom ≠ 0)), rBadArg),
      (!(definedIn s f n).isEmpty, rBusy)])
    (fun s => respond via rOk [] { s with ctxs :=
      (s.ctxs.filter fun p => decide (p.1 < f)) ++ freshCtxs f n (pk [(0, 10, attr.toNat)]) ++
        (s.ctxs.filter fun p => decide (f + n ≤ p.1)) }) s)

/-- Retire contexts: their counter fields freeze (R135). -/
def retireCtxs (cs : List Nat) (s : State) : State :=
  { s with ctxs := tmap (fun k x => if k ∈ cs then { x with defined := false } else x) s.ctxs }

def execCtxRetire (via : Via) (first : BitVec 16) (count : BitVec 17) (s : State) : Host.Outcome State Fault Refusal :=
  let f := first.toNat
  let n := count.toNat
  .next (command via 0x0011 (.ctxRetire via first count) false
    (fun s => [(denied s via .opPlat .sealedLevel, rDenied), (decide (n = 0 ∨ 65536 < f + n), rBadArg),
      ((definedIn s f n).isEmpty, rBadContext)])
    (fun s =>
      let ds := definedIn s f n
      let s1 := retireCtxs ds s
      if ds.length = n then respond via rOk [] s1 else respond via rPartial [wn (n - ds.length)] s1) s)

end Sys2Proof.Machine
end

