-- ==== Sys2Proof/Machine/Fabric.lean ====
section
/-!
DEFINITION. What several families use of the fabric: the transaction tracker (R463) and the routes foreseen from the
link-state table (R454).
-/
namespace Sys2Proof.Machine

/-- The neighbour position of `cur` through port `p` (R434). -/
def stepFrom (s : State) (cur : BitVec 16) (p : Nat) : BitVec 16 :=
  let d := dimsOf s
  let step := fun (v dim : Nat) => if p % 2 = 0 then (v + 1) % dim else (v + dim - 1) % dim
  let x := if p / 2 = 0 then step (chipX cur) d.1 else chipX cur
  let y := if p / 2 = 1 then step (chipY cur) d.2.1 else chipY cur
  let z := if p / 2 = 2 then step (chipZ cur) d.2.2 else chipZ cur
  BitVec.ofNat 16 (x * 1024 + y * 32 + z)

def productiveFrom (s : State) (cur dst : BitVec 16) (a : Nat) : Option Nat :=
  let dim := dimOfPort s (2 * a)
  let k := (axisOf dst a + dim - axisOf cur a) % dim
  if k = 0 then none else if k ≤ dim - k then some (2 * a) else some (2 * a + 1)

/-- State, level and neighbour AVOID of a port of any chip: this hub's own ports, else the link-state table, whose entry
counts as every port DOWN once 1,200,000,000 GT old (R454). -/
def linkView (s : State) (cur : BitVec 16) (p : Nat) : Bool × Nat × Bool :=
  if cur = chipOf s then
    let q := portOf s p
    (decide (q.st = .live), q.level.toNat, q.navoid)
  else match tget cur.toNat s.iz.links with
    | none => (false, 0, false)
    | some e =>
      if e.heard + 1200000000 ≤ hubGt s then (false, 0, false)
      else match e.ports[p]? with
        | none => (false, 0, false)
        | some (st, lv, av) => (decide (st = 2), lv.toNat, av)

def usableFrom (s : State) (cur dst : BitVec 16) (least : Nat) (arrival : Option Nat) (p : Nat) : Bool :=
  let v := linkView s cur p
  v.1 && decide (least ≤ v.2.1) && (!v.2.2 || decide (stepFrom s cur p = dst)) && decide (arrival ≠ some p)

def oppositePort (p : Nat) : Nat := if p % 2 = 0 then p + 1 else p - 1

/-- R451 applied to the link-state table (R454): a route of at most `n` hops exists. -/
def routeFrom (s : State) (dst : BitVec 16) (least : Nat) : Nat → BitVec 16 → Option Nat → Bool
  | 0, cur, _ => decide (cur = dst)
  | n + 1, cur, arr =>
    if cur = dst then true else
    match [0, 1, 2].filterMap (productiveFrom s cur dst) with
    | [] => true
    | first :: later =>
      let u := usableFrom s cur dst least arr
      let next := if u first then some first else match later.find? u with
        | some p => some p
        | none => (List.range 6).find? u
      match next with
      | none => false
      | some p => routeFrom s dst least n (stepFrom s cur p) (some (oppositePort p))

/-- A route to `dst` is foreseen (R454). -/
def routeForeseen (s : State) (dst : BitVec 16) (least : Nat) : Bool := routeFrom s dst least 191 (chipOf s) none

/-! ## The tracker (R463) -/

def trackerFull (s : State) : Bool := decide (16384 ≤ s.iz.tracker.length)

/-- The first index from `k` on, of `n` tried, that holds no open entry. -/
def freeIndex (t : Tab TrackEntry) : Nat → Nat → Nat
  | 0, k => k % 16384
  | n + 1, k => if (tget (k % 16384) t).isNone then k % 16384 else freeIndex t n (k + 1)

def tagOf (ix : Nat) (use : BitVec 10) : BitVec 24 := BitVec.ofNat 24 (ix * 1024 + use.toNat)

/-- Open a tracker entry: its tag and the state. The use count advances each time the index is used (R463). -/
def openTrack (target : BitVec 16) (p : TrackFor) (timeout : GT) (s : State) : BitVec 24 × Nat × State :=
  let ix := freeIndex s.iz.tracker 16384 s.iz.nextIndex
  let u := ((tget ix s.iz.useCount).getD 0) + 1
  let u := if ix = 0 ∧ u = 0 then 1 else u
  (tagOf ix u, ix, { s with iz := { s.iz with
    tracker := tset ix { use := u, target := target, purpose := p, deadline := hubGt s + timeout } s.iz.tracker
    useCount := tset ix u s.iz.useCount
    nextIndex := (ix + 1) % 16384 } })

def closeTrack (ix : Nat) (s : State) : State := { s with iz := { s.iz with tracker := tdel ix s.iz.tracker } }

/-- The open entry that a response's TAG matches. -/
def trackHit (s : State) (tag : BitVec 24) : Option (Nat × TrackEntry) :=
  let ix := tag.toNat / 1024
  match tget ix s.iz.tracker with
  | none => none
  | some e => if tagOf ix e.use = tag then some (ix, e) else none

def countLate (s : State) : State := { s with iz := { s.iz with lateRsp := satInc s.iz.lateRsp } }

end Sys2Proof.Machine
end

