-- ==== Sys2Proof/Machine/GlobalTime.lean ====
section
/-!
DEFINITION. Global time (chapter 02): the time base and its beats, interpolators, time states and calibration.
-/
namespace Sys2Proof.Machine

/-! ## Interpolators (R47 to R49) -/

/-- GT counts modulo 2^64 (R41). -/
def gtWrap (n : Nat) : GT := n % 2 ^ 64

/-- `a` is below `b`: it comes before it by less than half the count, so that the wrap of R41 keeps the order of R48 (log
entry 79). -/
def gtBelow (a b : GT) : Bool :=
  let d := (b + (2 ^ 64 - a % 2 ^ 64)) % 2 ^ 64
  decide (0 < d ∧ d < 2 ^ 63)

/-- The later of two counts. -/
def gtMax (a b : GT) : GT := if gtBelow a b then b else a

/-- Valid once two consecutive beats have been received (R49). -/
def interpValid (i : Interp) : Bool := decide (2 ≤ i.beats)

/-- The interpolated value `cyc` own cycles after the last beat; it never falls below the value at the beat (R47, R48). -/
def interpAt (i : Interp) (cyc : Nat) : GT :=
  gtMax i.local0 (gtWrap (i.beat + i.inc * cyc / 65536))

/-- An interpolator takes a beat that carries `b` after `n` of its own cycles. -/
def interpBeat (b n : Nat) (i : Interp) : Interp :=
  { i with
    beat := b
    inc := if i.beats = 0 then 0 else gtWrap (b + (2 ^ 64 - i.beat % 2 ^ 64)) * 65536 / n
    local0 := gtMax (interpAt i n) b
    beats := min 2 (i.beats + 1) }

/-- Two or more consecutive beats are lost (R49). -/
def interpLose (i : Interp) : Interp := { i with beats := 0, lost := true }

/-- A leaf's GT. -/
def leafGt (s : State) (cl cyc : Nat) : GT := ((tget cl s.leaves).map fun l => interpAt l.interp cyc).getD 0

/-- A leaf's GT at an instant that no row of its own gives in observation cycles: the hub's, which it follows within the
bound of R52, but never below what the leaf has shown (R42; log entry 80). -/
def leafNow (s : State) (cl : Nat) : GT := ((tget cl s.leaves).map fun l => gtMax l.interp.local0 (hubGt s)).getD (hubGt s)

def leafValid (s : State) (cl : Nat) : Bool := ((tget cl s.leaves).map fun l => interpValid l.interp).getD false

def modLeaf (cl : Nat) (f : Leaf → Leaf) (s : State) : State := { s with leaves := tmod cl f s.leaves }

/-! ## The time base (R44 to R46) -/

/-- One edge of the clock the time base counts on, with the GT that a slew adds or withholds at it (R44, R63). -/
def timeEdge (t : Time) : Time :=
  { t with acc := t.acc + BitVec.ofNat 96 (t.rate.toNat) + BitVec.ofInt 96 (t.adjust * 2 ^ 32), adjust := 0 }

/-- Edges until GT first reaches or passes the next multiple of 1,024, counted from `acc` (R46). -/
def edgesToBeat (acc rate : Nat) : Nat :=
  let next := (acc / 2 ^ 42 + 1) * 2 ^ 42
  (next - acc + rate - 1) / rate

/-- The time base at its next beat. -/
def timeToBeat (t : Time) : Time :=
  let t1 := timeEdge t
  if t.acc.toNat / 2 ^ 42 ≠ t1.acc.toNat / 2 ^ 42 then t1
  else { t1 with acc := t1.acc + BitVec.ofNat 96 (edgesToBeat t1.acc.toNat t1.rate.toNat * t1.rate.toNat) }

/-- The slew at a beat: 1 GT of what remains is added or withheld at the next edge; a hub is CALIBRATING while more than
12 GT remain and no longer once 12 remain (R63). -/
def slewBeat (t : Time) : Time :=
  let d : Int := if 0 < t.slew then 1 else if t.slew < 0 then -1 else 0
  let left := t.slew - d
  { t with
    slew := left, adjust := d
    state := if t.state = .calibrating ∧ t.cal.isNone ∧ left.natAbs ≤ 12 then .locked else t.state }

/-- The whole-chip beat: every leaf of partition p with the cycles of its observation clock, the hub, every time port. -/
def beatAll (b : GT) (obs : List Nat) (hub : Nat) (tp : List Nat) (s : State) : State :=
  let back := (s.leaves.filter fun q => q.2.interp.lost && decide (q.2.interp.beats = 1)).map Prod.fst
  { s with
    cores := tmap (fun c co => if c / 16 ∈ back then { co with pailDisc := 0xF } else co) s.cores
    leaves := tmap (fun cl l => { l with
      interp := interpBeat b (obs.getD (partOfCluster cl) 0) l.interp
      fullDue := if l.interp.lost ∧ l.interp.beats = 1 then some 6 else l.fullDue }) s.leaves
    time := { s.time with
      hub := interpBeat b hub s.time.hub
      tp := s.time.tp.zipIdx.map fun p => interpBeat b (tp.getD p.2 0) p.1 } }

/-- The time base has power in every power state but OFF (Table 19.2). -/
def aoPowered (s : State) : Bool := decide (s.power ≠ .off)

/-- BEATS_LOST: an instance has lost two consecutive beats: a time port, a leaf, or else the hub's interpolator (R49, R78). -/
def execBeatsLost (port : Option (BitVec 4)) (cluster : Option ClusterIx) (s : State) : Host.Outcome State Fault Refusal :=
  .next (match port, cluster with
    | some p, _ => { s with time := { s.time with tp := s.time.tp.modify p.toNat interpLose } }
    | none, some c => modLeaf c.toNat (fun l => { l with interp := interpLose l.interp }) s
    | none, none => { s with time := { s.time with hub := interpLose s.time.hub } })

/-- `tp_gt_valid_n` and `tp_gt_n[31:0]`, `cyc` port cycles after the last beat (R77, R78). -/
def tpValid (s : State) (n : Nat) : Bool := interpValid (s.time.tp.getD n {})
def tpGt (s : State) (n cyc : Nat) : BitVec 32 := BitVec.ofNat 32 (interpAt (s.time.tp.getD n {}) cyc)

/-! ## Time states (R54, R56, R559) -/

def enterHoldover (s : State) : State := { s with time := { s.time with state := .holdover, onAo := true } }

def execRefLostAssert (s : State) : Host.Outcome State Fault Refusal :=
  .next (if aoPowered s then enterHoldover { s with time := { s.time with refLost := true } } else s)

/-- REFERENCE_STOP_DETECT: the reference has stopped for more than 100 ns. -/
def execReferenceStopDetect (s : State) : Host.Outcome State Fault Refusal :=
  .next (if aoPowered s then enterHoldover { s with time := { s.time with refStopped := true } } else s)

/-- REF_LOST_DEASSERT with the reference running: a hub never calibrated returns to FREE (R56); every other one waits for
a TIME_CAL. -/
def execRefLostDeassert (s : State) : Host.Outcome State Fault Refusal :=
  .next (if aoPowered s then
    let t := { s.time with refLost := false, refStopped := false }
    { s with time := if t.state = .holdover ∧ t.calibrated = false ∧ t.root = false then { t with state := .free, onAo := false } else t }
  else s)

/-! ## The host register port (R583 to R585) -/

/-- An access is answered with read data, zero for a write. -/
def hrDone (rd : Word) (s : State) : State := { s with hr := { rdata := rd, answered := s.hr.answered + 1 } }

/-- A write outside the mailboxes: answered; taken only with every byte enabled. -/
def hrWrite (strb : BitVec 8) (act : State → State) (s : State) : State :=
  if serving s then (let s := hrDone 0 s; if strb = 0xFF then act s else s) else s

/-- A write of RATE, ignored with RATE_ERR outside its range (R45, R604). -/
def writeRate (wdata : Word) (s : State) : State :=
  let r := fieldB 40 wdata 0
  if 0x27FDF3B646#40 ≤ r ∧ r ≤ 0x28020C49BA#40 then { s with time := { s.time with rate := r } }
  else { s with time := { s.time with rateErr := true } }

/-- TIME_RATE_WRITE. -/
def execTimeRateWrite (wdata : Word) (wstrb : BitVec 8) (s : State) : Host.Outcome State Fault Refusal :=
  .next (hrWrite wstrb (writeRate wdata) s)

/-- A write of TIME_STATUS, whose bit 4 is W1C (R7, R604). -/
def clearRateErr (wdata : Word) (s : State) : State :=
  if bit wdata 4 then { s with time := { s.time with rateErr := false } } else s

/-- RATE_ERR_CLEAR. -/
def execRateErrClear (wdata : Word) (wstrb : BitVec 8) (s : State) : Host.Outcome State Fault Refusal :=
  .next (hrWrite wstrb (clearRateErr wdata) s)

/-! ## Calibration (R57 to R70) -/

/-- A LIVE port at level 2 or higher counts as trained (R446). -/
def trained (s : State) (p : Nat) : Bool := decide ((portOf s p).st = .live) && decide (2 ≤ (portOf s p).level.toNat)

/-- The port of the parent a START gives a child: of the neighbours over trained links the one of least depth, the lowest
port of several (R57). The neighbours' depths are theirs: draw `n` gives them (log entry 8). -/
def childPort (n : Nat) (s : State) : Option Nat :=
  ((List.range 6).filter (trained s)).foldl (fun best p => match best with
    | none => some p
    | some q => if (Config.calNeighbourDepth n p).toNat < (Config.calNeighbourDepth n q).toNat then some p else some q) none

/-- A calibration starts on this hub as a child: an exchange is running, so the hub is CALIBRATING unless in HOLDOVER. It
times out after 5 ms, for START with 50 µs more for each step of the tree's depth (R69; log entry 7). -/
def beginCal (mode : BitVec 2) (via : Option Via) (owner : Owner) (port : Nat) (measureOnly automatic : Bool)
    (s : State) : State :=
  let depth := if mode = 0 then (Config.calDepth s.free).toNat else 0
  { s with
    free := s.free + 1
    time := { s.time with
      cal := some { mode := mode, via := via, owner := owner, port := BitVec.ofNat 3 port, measureOnly := measureOnly
                    automatic := automatic, before := s.time.state, draw := s.free
                    deadline := hubGt s + 20000000 + 200000 * depth }
      state := if s.time.state = .holdover ∨ s.time.root = true then s.time.state else .calibrating } }

/-- The state after a calibration ends without a correction. -/
def abortCal (s : State) : State :=
  match s.time.cal with
  | none => s
  | some c => { s with time := { s.time with cal := none, state :=
      (if s.time.state = .calibrating then
        (if 12 < s.time.slew.natAbs then .calibrating else if c.before = .calibrating then .locked else c.before)
      else s.time.state) } }

/-- Results of Table 16.10. The table has no field for the time state that R54 says every calibration result carries, and
the words follow the table (log entry 81). -/
def calWords (d maxDepth mode reached : Nat) (theta : Int) (delay : Int) (spread : Nat) (entries : List Word) : List Word :=
  [pk [(56, 8, d), (48, 8, maxDepth), (40, 2, mode), (0, 32, reached)], BitVec.ofInt 64 theta, BitVec.ofInt 64 delay,
   pk [(32, 32, spread), (0, 32, (entries.take 448).length)]] ++ entries.take 448

/-- The worse of two residuals: the greater in magnitude. -/
def worse (a b : Int) : Int := if b.natAbs < a.natAbs then a else b

/-- The root's largest depth: none where this hub is the root and no port is trained; else what draw `n` gives. -/
def treeDepth (n : Nat) (s : State) : Nat :=
  if s.time.root && !(List.range 6).any (trained s) then 0 else (Config.calDepth n).toNat

/-- Every present hub has all six links trained (R58): this one's are seen here, draw `n` tells of the others. -/
def fullTorus (n : Nat) (s : State) : Bool := (List.range 6).all (trained s) && Config.calFullTorus n

/-- The result of a START or SWEEP, which tells of every hub of the tree: this hub knows its own ports and what it has
measured itself, residual and spread; draw `n` gives the rest (log entry 7). -/
def treeWords (mode n : Nat) (own : List Word) (theta : Int) (spread : Nat) (s : State) : List Word :=
  let depth := treeDepth n s
  let d := if mode = 0 then (if fullTorus n s then depth else 2 * depth) else 0
  calWords d depth mode (Config.calReached n).toNat (worse theta (toSigned 64 (Config.calResidual n).toNat)) 0
    (max spread (Config.calSpread n).toNat) (own ++ Config.calEntries n)

/-- An entry of a chip that was not calibrated. -/
def unreachedEntry (s : State) (port : Nat) : Word := pk [(48, 16, (chipOf s).toNat), (45, 3, port), (43, 1, 1)]

/-- The chips that a START's tree has reached: none from a hub with no trained port; else a free value (log entry 7). -/
def treeOf (s : State) : List (BitVec 16) :=
  if (List.range 6).any (trained s) then (Config.calTree s.free).filter (inTorus s) else []

/-- A START or SWEEP ends: its result is kept, START's D and chips with it (R58, R265), and raised; PARTIAL where an entry is
unreached. -/
def treeDone (mode : Nat) (ws : List Word) (owner : Owner) (code : Option (BitVec 8)) (s : State) : State :=
  let found : BitVec 8 := if (ws.drop 4).any fun e => bit e 43 then rPartial else rOk
  raiseEvent 0x0041 0 (ws.take 4) owner (code.getD found) { s with time := { s.time with
    result := ws
    diam := if mode = 0 then some (fieldB 8 (ws.headD 0) 56) else s.time.diam
    tree := if mode = 0 then treeOf s else s.time.tree } }

/-- A calibration run as root: it is LOCKED at acceptance, unless its reference is lost still (R56, R65), and corrects its
GT no more (R64). Draw `n` says whether the children are done in time; where they are not, the command waits for its
timeout (R69; log entry 7). -/
def rootCal (mode : Nat) (via : Via) (s : State) : State :=
  let n := s.free
  let owner := ownerOf s via
  let now := hubGt s
  let s := { s with
    free := n + 1
    time := { s.time with
      depth := 0, root := true, parentPort := none, calibrated := true, cal := none, slew := 0, adjust := 0
      state := if s.time.refLost then s.time.state else .locked
      onAo := s.time.onAo && s.time.refLost } }
  let s := respond via rPending [] s
  if mode = 0 ∧ Config.calLate n = true ∧ (List.range 6).any (trained s) = true then
    { s with time := { s.time with cal := some {
        mode := 0, via := none, owner := owner, port := 0, draw := n, isRoot := true, before := s.time.state
        deadline := now + 20000000 + 200000 * treeDepth n s } } }
  else treeDone mode (treeWords mode n [] 0 0 s) owner none s

/-- Every interpolator moves with the single start-up step (R42, R62). -/
def stepInterp (d : Int) (i : Interp) : Interp :=
  { i with beat := ((i.beat + d) % 2 ^ 64).toNat, local0 := ((i.local0 + d) % 2 ^ 64).toNat }

/-- Every interpolator of the chip moves by `d`, and every trace stream's next record begins with a full stamp (R62). -/
def stepChip (d : Int) (s : State) : State :=
  { s with
    leaves := tmap (fun _ l => { l with
      interp := stepInterp d l.interp, fullDue := some 4
      stream := { l.stream with running := ((l.stream.running + d) % 2 ^ 64).toNat } }) s.leaves
    cores := tmap (fun _ co => { co with pailArmed := List.replicate 4 0 }) s.cores
    time := { s.time with hub := stepInterp d s.time.hub, tp := s.time.tp.map (stepInterp d) } }

/-- The root in FREE sets its GT (R64), which is a start-up step as a child's is (R42; log entry 15). -/
def setRootGt (rootGt : Word) (s : State) : State :=
  let s1 := stepChip ((rootGt.toNat : Int) - hubGt s) s
  { s1 with time := { s1.time with acc := rootGt ++ (0#32) } }

/-- TIME_CAL MODE START (R57, R64, R65, R69). -/
def execTimeCalStart (via : Via) (root : BitVec 16) (setroot : Bool) (rootGt : Word) (s : State) :
    Host.Outcome State Fault Refusal :=
  .next (command via 0x0060 (.timeCalStart via root setroot rootGt) false
    (fun s => [(denied s via .opPlat .sealedLevel, rDenied), (!inTorus s root, rBadArg), (s.time.cal.isSome, rBusy)])
    (fun s =>
      if root = chipOf s then
        rootCal 0 via (if setroot && decide (s.time.state = .free) then setRootGt rootGt s else s)
      else
        let s := { s with time := { s.time with root := false, parentPort := none } }
        let n := s.free
        match childPort n s with
        | none =>
          treeDone 0 (treeWords 0 n [unreachedEntry s 0] 0 0 s) (ownerOf s via) none
            (respond via rPending [] { s with free := n + 1 })
        | some p => beginCal 0 none (ownerOf s via) p false false (respond via rPending [] s)) s)

/-- TIME_CAL MODE LINK (R69). The child of another chip's link measures it, so what that hub finds is a free value (log
entry 8). -/
def execTimeCalLink (via : Via) (chip : BitVec 16) (port : BitVec 3) (s : State) : Host.Outcome State Fault Refusal :=
  .next (command via 0x0060 (.timeCalLink via chip port) false
    (fun s => [(denied s via .opPlat .sealedLevel, rDenied),
      (if chip = chipOf s then decide (s.time.parentPort ≠ some port)
        else !inTorus s chip || !Config.calIsTreeLink s.free, rBadArg),
      (s.time.cal.isSome, rBusy)])
    (fun s =>
      if chip = chipOf s then beginCal 1 (some via) (ownerOf s via) port.toNat false false s
      else
        let n := s.free
        let ws := (calWords 0 (Config.calDepth n).toNat 1 (Config.calReached n).toNat 0 0 (Config.calSpread n).toNat
          (Config.calEntries n)).set 1 (Config.calResidual n)
        let ws := ws.set 2 (Config.calDelay n)
        respond via rOk ws { s with free := n + 1, time := { s.time with result := ws } }) s)

/-- TIME_CAL MODE SWEEP: every tree link; this hub's own as a child (R69). -/
def execTimeCalSweep (via : Via) (s : State) : Host.Outcome State Fault Refusal :=
  .next (command via 0x0060 (.timeCalSweep via) false
    (fun s => [(denied s via .opPlat .sealedLevel, rDenied), (s.time.cal.isSome, rBusy)])
    (fun s =>
      if s.time.root then rootCal 2 via s
      else match s.time.parentPort with
        | none =>
          let n := s.free
          treeDone 2 (treeWords 2 n [] 0 0 s) (ownerOf s via) none (respond via rPending [] { s with free := n + 1 })
        | some p => beginCal 2 none (ownerOf s via) p.toNat false false (respond via rPending [] s)) s)

/-- The hub's GT `cyc` hub clock cycles after the last beat, as its interpolator gives it (R47). -/
def hubAt (s : State) (cyc : Nat) : GT := gtMax (hubGt s) (interpAt s.time.hub cyc)

/-- TIME_EXCHANGE: the child sends the next of 16 requests, 1 µs after the last (R61, R470); its T1 is this hub's GT as it
leaves the port, `depart` hub clock cycles after the last beat (R59, `stampTime`). A hub in basic service starts none (R72). -/
def execTimeExchange (port : BitVec 3) (depart : Nat) (s : State) : Host.Outcome State Fault Refusal :=
  .next (match s.time.cal with
    | none => s
    | some c =>
      let now := hubAt s depart
      if c.port = port ∧ c.isRoot = false ∧ c.nextExch < 16 ∧ basic s = false ∧ (c.lastSend.all fun t => t + 4000 ≤ now) then
        let f := mkFrame s (portOf s port.toNat).neighbour 0x20 0 2 [wn c.nextExch, 0] 16
        sendAt now port.toNat false f { s with time := { s.time with cal := some { c with
          nextExch := c.nextExch + 1, lastSend := some now, sent := c.sent ++ [BitVec.ofNat 4 c.nextExch] } } }
      else s)

/-- TIME_REQ_RECEIVE: the port answers in hardware, whatever the state of the firmware (R72, R470): T2 is this hub's GT at the
arrival, T3 its GT as the answer leaves the port (R59, `stampTime`), in hub clock cycles after the last beat. -/
def execTimeReqReceive (port : BitVec 3) (exch : BitVec 4) (t1 : Word) (arrive depart : Nat) (s : State) : Host.Outcome State Fault Refusal :=
  .next (if serving s && trained s port.toNat then
    let corr := s.time.asym.getD port.toNat 0
    let w0 := pk [(0, 4, exch.toNat), (8, 4, timeStateCode s.time.state), (16, 8, s.time.depth.toNat)]
    let f := mkFrame s (portOf s port.toNat).neighbour 0x21 0 2 [w0, t1, wn (hubAt s arrive), 0, corr.setWidth 64] 40
    sendAt (hubAt s depart) port.toNat false { f with hdr := { f.hdr with resp := true } }
      { s with iz := { s.iz with timeAnswers := s.iz.timeAnswers + 1 } }
  else s)

/-- Insert an exchange in the order kept ones are chosen: not pre-empted first, then by round trip. -/
def insertExch (e : Exchange) : List Exchange → List Exchange
  | [] => [e]
  | a :: l =>
    if (e.preempted = a.preempted ∧ e.fwd + e.rev < a.fwd + a.rev) ∨ (e.preempted = false ∧ a.preempted = true) then e :: a :: l
    else a :: insertExch e l

/-- Nearest integer to `a / 16`, halves away from zero (R61). -/
def div16 (a : Int) : Int := if 0 ≤ a then (a + 8) / 16 else -((-a + 8) / 16)

/-- θ, d and the spread over the 8 kept exchanges of 16 (R61, R68). -/
def calResult (es : List Exchange) : Int × Int × Nat :=
  let kept := (es.foldr insertExch []).take 8
  let th := (kept.map fun e => e.rev - e.fwd - e.asym).foldl (· + ·) 0
  let d := (kept.map fun e => e.fwd + e.rev).foldl (· + ·) 0
  let rt := kept.map fun e => (e.fwd + e.rev).toNat
  (div16 th, div16 d, rt.foldl max 0 - (rt.foldl min (rt.foldl max 0)))

/-- The child in FREE steps its GT by -θ in one reference cycle and is LOCKED (R62). -/
def timeStep (theta : Int) (s : State) : State :=
  let before := hubGt s
  let s1 := stepChip (-theta) s
  let s2 := { s1 with time := { s1.time with
    acc := s1.time.acc - BitVec.ofInt 96 (theta * 2 ^ 32), state := .locked, calibrated := true } }
  raiseEvent 0x0201 2 [wn before, wn (hubGt s2)] {} 0 s2

/-- Any other child slews (R63). A correction that an earlier calibration left unfinished is replaced by the new one, which
was measured with it outstanding (log entry 82). A hub whose reference is still lost stays in HOLDOVER (R56). -/
def startSlew (theta : Int) (s : State) : State :=
  { s with time := { s.time with
    slew := -theta, calibrated := true, onAo := s.time.onAo && s.time.refLost
    state := if s.time.refLost then s.time.state else if 12 < theta.natAbs then .calibrating else .locked } }

/-- The correction of a completed calibration. -/
def applyCal (c : Calibration) (theta : Int) (s : State) : State :=
  let s := { s with time := { s.time with cal := none } }
  if c.measureOnly then
    { s with time := { s.time with state := if s.time.state = .calibrating then c.before else s.time.state } }
  else
    let s := { s with time := { s.time with
      parentPort := if c.mode = 0 then some c.port else s.time.parentPort
      depth := if c.depth = 0xFF then s.time.depth else c.depth + 1 } }
    if s.time.calibrated = false ∧ c.before ≠ .holdover ∧ s.time.state ≠ .holdover then timeStep theta s
    else startSlew theta s

/-- A calibration of this hub as a child is complete: apply, and report on the path it was asked by (R69, R70, R499). -/
def finishCal (c : Calibration) (s : State) : State :=
  let r := calResult c.got
  let s := applyCal c r.1 s
  let line := calWords 0 (Config.calDepth c.draw).toNat 1 1 r.1 r.2.1 r.2.2
  let entry := pk [(48, 16, (chipOf s).toNat), (45, 3, c.port.toNat), (44, 1, b2n (decide (16 < r.2.2))),
    (0, 32, sgn 32 r.1)]
  if c.automatic then
    raiseEvent 0x0202 2 [wn c.port.toNat, BitVec.ofInt 64 r.1] {} 0 { s with time := { s.time with result := line [entry] } }
  else match c.via with
    | some v => respond v rOk (line [entry]) { s with time := { s.time with result := line [entry] } }
    | none => treeDone c.mode.toNat (treeWords c.mode.toNat c.draw [entry] r.1 r.2.2 s) c.owner none s

/-- A retrained link that waited for the running calibration is taken next (R70). -/
def nextRetrained (s : State) : State :=
  match s.time.retrained with
  | [] => s
  | p :: l =>
    if basic s || s.time.cal.isSome then s
    else beginCal 1 none {} p.toNat (decide (s.time.parentPort ≠ some p)) true { s with time := { s.time with retrained := l } }

/-- TIME_RSP_RECEIVE (R59 to R61): T4 is this hub's GT at the arrival, in hub clock cycles after the last beat. A hub is calibrated only once its parent is LOCKED (R57); a link
that is only measured needs no such neighbour (R70). -/
def execTimeRspReceive (port : BitVec 3) (exch parentState : BitVec 4) (depth : BitVec 8) (t1 t2 t3 : Word)
    (corr : BitVec 32) (arrive : Nat) (preempted : Bool) (s : State) : Host.Outcome State Fault Refusal :=
  .next (match s.time.cal with
    | none => s
    | some c =>
      if c.port = port ∧ (parentState = 2 ∨ c.measureOnly = true) ∧ exch ∈ c.sent then
        let e : Exchange := {
          fwd := (t2.toNat : Int) - t1.toNat, rev := (hubAt s arrive : Int) - t3.toNat
          asym := toSigned 32 (s.time.asym.getD port.toNat 0).toNat - toSigned 32 corr.toNat, preempted := preempted }
        let c1 := { c with got := c.got ++ [e], sent := c.sent.filter (· ≠ exch), depth := depth }
        if 16 ≤ c1.got.length then nextRetrained (finishCal c1 s) else { s with time := { s.time with cal := some c1 } }
      else s)

/-- TIME_CAL_TIMEOUT (R69, R43): the calibration ends unfinished. -/
def execTimeCalTimeout (s : State) : Host.Outcome State Fault Refusal :=
  .next (match s.time.cal with
    | none => s
    | some c =>
      if c.deadline ≤ hubGt s then
        let s1 := abortCal s
        nextRetrained (if c.automatic then s1
        else match c.via with
          | some v => respond v rTimeout [] s1
          | none => treeDone c.mode.toNat (treeWords c.mode.toNat c.draw
              (if c.isRoot then [] else [unreachedEntry s1 c.port.toNat]) 0 0 s1) c.owner
              (if c.mode = 0 then some rTimeout else none) s1)
      else s)

/-- A tree link has retrained and is LIVE again: the child recalibrates it; any other link is measured only (R70). It waits
for a calibration that runs. -/
def recalibrateLink (p : Nat) (s : State) : State :=
  let q := BitVec.ofNat 3 p
  if basic s then s
  else nextRetrained { s with time := { s.time with retrained := s.time.retrained.filter (· ≠ q) ++ [q] } }

end Sys2Proof.Machine
end

