-- ==== Sys2Proof/Machine/Shim.lean ====
section
/-!
DEFINITION. The tap shim's own operations (chapters 03, 04): counting core cycles, the upward queue of the observation link,
beginning and ending a command, port violations, holds, counters at zero.
-/
namespace Sys2Proof.Machine

/-! ## The observation link, upward (R119, R120) -/

/-- The class of a word (Table 03.8): 0 control, 1 protected, 2 thinned. -/
def upClass : UpKind → Nat
  | .begin .. => 1 | .fin .. => 1 | .account .. => 1 | .state .. => 1 | .error .. => 1 | .slotMark .. => 1
  | .epoch .. => 1 | .reply .. => 1 | .scanData .. => 1
  | .prog .. => 2 | .data .. => 2 | .slotOp .. => 2 | .elem .. => 2
  | _ => 0

/-- The words that coalesce to the latest of their kind: an engine's state, the epoch. -/
def sameState (a b : UpWord) : Bool :=
  match a.kind, b.kind with
  | .state e _ _ _, .state e' _ _ _ => e == e'
  | .epoch .., .epoch .. => true
  | _, _ => false

/-- An EPOCH word over an earlier one keeps the epoch that one started from. -/
def overState (new old : UpWord) : UpWord :=
  match new.kind, old.kind with
  | .epoch _ n v t d o, .epoch p _ w _ _ _ => { new with kind := .epoch p n (v || w) t d o }
  | _, _ => new

/-- Room for a protected word: the queue takes it, or the buffer of 16 does. -/
def protectedRoom (co : Core) : Bool := decide (co.upQ.length < 60 ∨ co.upBuf.length < 16)

/-- A protected word that finds no room: a state change, or the epoch's, takes the place of an earlier one, or waits where there
is none, as replies and scan data do; an error, a marked slot operation and a command event are dropped and counted, an
interim account is not an event of a trace kind (log entry 84). -/
def dropProtected (w : UpWord) (co : Core) : Core :=
  let keep := { co with upBuf := co.upBuf ++ [w] }
  match w.kind with
  | .state .. | .epoch .. =>
    if co.upBuf.any (sameState w) then { co with upBuf := modFirst (sameState w) (overState w) co.upBuf } else keep
  | .reply .. | .scanData .. => keep
  | .error _ _ cls n _ _ => { co with dropErrs := co.dropErrs.modify cls.toNat (· + n.toNat) }
  | .slotMark _ _ full _ _ _ =>
    if full then { co with dropOver := co.dropOver + 1 } else { co with dropEmpty := co.dropEmpty + 1 }
  | .account .. => co
  | _ => { co with dropCmds := co.dropCmds + 1 }

/-- Count a thinned word that is not written, by stream. -/
def dropThinned (w : UpWord) (co : Core) : Core :=
  match w.kind with
  | .prog e _ _ _ _ => { co with dropProg := co.dropProg.modify e.toNat (· + 1) }
  | .data .. => { co with dropData := co.dropData + 1 }
  | .slotOp .. => { co with dropSlots := co.dropSlots + 1 }
  | _ => { co with dropElems := co.dropElems + 1 }

def dropsPending (co : Core) : Bool :=
  decide (0 < co.dropCmds + co.dropProg.sum + co.dropData + co.dropSlots + co.dropEmpty + co.dropOver + co.dropElems +
    co.dropErrs.sum)

/-- The pending drop counts become a word of the control class. -/
def tellDrops (co : Core) : Core :=
  if dropsPending co then
    { co with
      upCtl := co.upCtl ++ [{ cc := co.cc, kind := .drops co.dropCmds co.dropProg co.dropData co.dropSlots co.dropEmpty
                                co.dropOver co.dropErrs co.dropElems }]
      dropCmds := 0, dropProg := List.replicate 8 0, dropData := 0, dropSlots := 0, dropEmpty := 0, dropOver := 0
      dropErrs := List.replicate 4 0, dropElems := 0 }
  else co

/-- The shim captures a word: it waits for its cycle by its class. Before a word that finds room again goes the word of the
drops before it. -/
def upWrite (k : UpKind) (co : Core) : Core :=
  let w : UpWord := { cc := co.cc, kind := k }
  match upClass k with
  | 0 => { co with upCtl := co.upCtl ++ [w] }
  | 1 => if protectedRoom co then (let co := tellDrops co; { co with upBuf := co.upBuf ++ [w] }) else dropProtected w co
  | _ => if co.upQ.length < 48 then (let co := tellDrops co; { co with upThin := co.upThin ++ [w] }) else dropThinned w co

/-- A word enters the queue. -/
def upPut (w : UpWord) (co : Core) : Core := { co with upQ := co.upQ ++ [w], obW := co.obW + 1, sinceWord := 0 }

/-- The one write of a core cycle: the higher class first. Control words use all 64 entries, protected ones leave the 4
reserved, thinned ones are not written into 48 or more. -/
def upCycle (co : Core) : Core :=
  let co := if co.upQ.length < 48 && decide (co.upBuf.length < 16) then tellDrops co else co
  match co.upCtl, co.upBuf, co.upThin with
  | w :: l, _, _ => if co.upQ.length < 64 then upPut w { co with upCtl := l } else co
  | [], w :: l, _ => if co.upQ.length < 60 then upPut w { co with upBuf := l } else co
  | [], [], w :: l => if co.upQ.length < 48 then upPut w { co with upThin := l } else dropThinned w { co with upThin := l }
  | [], [], [] => co

/-- Words, the drop counts among them, that wait for a cycle. -/
def upWaiting (co : Core) : Nat := co.upCtl.length + co.upBuf.length + co.upThin.length + b2n (dropsPending co)

def upRun : Nat → Core → Core
  | 0, co => co
  | n + 1, co => upRun n (upCycle { co with sinceWord := co.sinceWord + 1 })

/-- `dc` cycles of the link's writing side, less those in which the leaf's reading has already taken a word. -/
def linkCycles (dc : Nat) (co : Core) : Core :=
  let n := dc - co.upAhead
  let k := min n (upWaiting co)
  let r := upRun k { co with upAhead := co.upAhead - dc }
  { r with sinceWord := r.sinceWord + (n - k) }

/-- The oldest word of the queue; where it is empty the shim's next write, of a cycle the rows have yet to count. -/
def upTake (co : Core) : Option (UpWord × Core) :=
  let co := if co.upQ.isEmpty && decide (0 < upWaiting co) then { upCycle co with upAhead := co.upAhead + 1 } else co
  match co.upQ with
  | [] => none
  | w :: q => some (w, { co with upQ := q, obR := co.obR + 1 })

/-- Gray code of a pointer count: `tl_ob_wptr`, `tl_ob_rptr`, `tl_cm_wptr` and `tl_cm_rptr` as driven (R122). -/
def gray {n : Nat} (x : BitVec n) : BitVec n := x ^^^ (x >>> 1)
def obWptr (co : Core) : BitVec 7 := gray co.obW
def obRptr (co : Core) : BitVec 7 := gray co.obR
def cmWptr (co : Core) : BitVec 5 := gray co.cmW
def cmRptr (co : Core) : BitVec 5 := gray co.cmR

/-- The cycles and the commands that a dropped word carried (R134). -/
def lostBy (k : UpKind) (co : Core) : Nat × Nat :=
  if protectedRoom co then (0, 0) else
  match k with
  | .fin _ _ _ _ _ _ n => (n, 1)
  | .account _ _ n => (n, 0)
  | _ => (0, 0)

/-- Write a word of core `c`, adding what a dropped END or account word carried to the lost-account counts (R134, R605). -/
def upPush (c : Nat) (k : UpKind) (s : State) : State :=
  match coreOf s c with
  | none => s
  | some co =>
    let l := lostBy k co
    modCore c (upWrite k) { s with ao := { s.ao with
      lostCycles := s.ao.lostCycles + wn l.1, lostCmds := s.ao.lostCmds + wn l.2 } }

def upPushAll (c : Nat) (ks : List UpKind) (s : State) : State := ks.foldl (fun s k => upPush c k s) s

/-! ## Counting core cycles (R90, R123 to R129, R133) -/

/-- The state a cycle counts in, with the substitutions of rows 4 and 5 of Table 03.4: 0 IDLE, 1 BUSY, 2 STALLED. -/
def cycleState (en : Engine) : Nat :=
  match en.rep.toNat with
  | 0 => if en.cur.isSome then 1 else 0
  | 2 => if en.cur.isSome then 2 else 1
  | _ => 1

/-- Row 4 holds: a reserved state, or IDLE with a command in flight. -/
def row4 (en : Engine) : Bool := decide (en.rep = 3) || (decide (en.rep = 0) && en.cur.isSome)

/-- Row 5 holds: BUSY or STALLED with no command in flight. -/
def row5 (en : Engine) : Bool := decide (en.rep = 1 ∨ en.rep = 2) && en.cur.isNone

def addFull (i n : Nat) (l : List (BitVec 48)) : List (BitVec 48) := l.modify i (· + BitVec.ofNat 48 n)

/-- Count `n` cycles of an engine in the state it shows. An engine in reset counts STRETCHED only (R125). -/
def countCycles (stretch : Bool) (n : Nat) (en : Engine) : Engine :=
  let st := cycleState en
  let full := if en.fullEn then
      let l := if stretch then addFull 3 n en.full else en.full
      if en.rstN then
        (match st with
         | 0 => addFull 2 n l
         | 1 => addFull 0 n l
         | _ => addFull (4 + en.stall.toNat) n (addFull 1 n l))
      else l
    else en.full
  if en.rstN && en.cur.isSome then
    { en with
      full := full
      cmdBusy := if st = 1 then en.cmdBusy + BitVec.ofNat 48 n else en.cmdBusy
      cmdStall := if st = 2 then en.cmdStall + BitVec.ofNat 48 n else en.cmdStall }
  else { en with full := full }

def inflightCount (en : Engine) : Nat := en.cmdBusy.toNat + en.cmdStall.toNat

/-- The cycles since the core's previous row: after an end in that row's cycle the first of them is the ended command's. -/
def advEngine (stretch : Bool) (dc : Nat) (en : Engine) : Engine :=
  if dc = 0 then en
  else if en.counted then
    countCycles stretch (dc - 1)
      { countCycles stretch 1 { en with cur := en.last } with cur := none, counted := false, fresh := min 2 dc }
  else { countCycles stretch dc en with beginCC := none, fresh := min 2 (en.fresh + dc) }

/-- Interim account words an advance calls for: one for each multiple of 2^20 the in-flight count reaches (R133). -/
def interimOf (before after : Engine) : Nat :=
  if after.cur.isSome then inflightCount after / 2 ^ 20 - inflightCount before / 2 ^ 20 else 0

/-- The shim's counters run: not after QUIET (R117) and not while the core's clock is frozen or its chains are scanned
(Table 04.7). -/
def countersRun (co : Core) : Bool := !co.quietDone && co.funcClkEn && co.scanRun.isNone && co.testScan.isNone

/-- Row 5 has held in a cycle that is over and that no state change has mended: not in the last cycle of a command. -/
def lateRow5 (dc : Nat) (en : Engine) : Bool := row5 en && !en.violBusy && en.rstN && (!en.counted || decide (1 < dc))

/-- A present engine has a command in flight. -/
def anyInflight (co : Core) : Bool := (enginesOf co).any fun e => (engOf co e).cur.isSome

/-- What the shim drives on `ts_scan_si` at shift `j` of pass `p` of a self-test (R426); `pre` is the prefix of the seed. -/
def testPattern (pre : Word) (n patterns p j : Nat) : BitVec 32 :=
  if p < patterns then BitVec.ofNat 32 ((mixHash (pre ^^^ wn (p * 2 ^ 32 + j))).toNat % 2 ^ n) else 0

/-- The scan pins of a self-test sequence at the present cycle (Table 14.3): pass p starts at 16 + p × (D × L + 33). -/
def testPins (co : Core) (q : TestScan) : Core :=
  let t := (co.cc - q.start).toNat
  let d := 2 ^ co.ties.scanDiv.toNat
  let l := d * scanLen co
  let p := (t - 16) / (l + 33)
  let r := (t - 16) % (l + 33)
  let shift := decide (16 ≤ t ∧ p ≤ q.patterns ∧ r < l)
  { co with
    funcClkEn := (shift && decide (r % d = 0)) || decide (16 ≤ t ∧ p < q.patterns ∧ r = l + 16)
    scanMode := decide (t < 16 + q.patterns * (l + 33) + l + 16), scanSe := shift
    scanSi := if shift then testPattern q.pre co.ties.scanChains.toNat q.patterns p (r / d) else co.scanSi }

/-- `ts_func_clk_en`, `ts_scan_mode` and `ts_scan_se` of a scan sequence that started at `t0` (Table 03.7), or of a self-test. -/
def scanPins (co : Core) : Core :=
  match co.scanRun with
  | none => match co.testScan with
    | none => co
    | some q => testPins co q
  | some t0 =>
    let t := (co.cc - t0).toNat
    let d := 2 ^ co.ties.scanDiv.toNat
    let n := d * scanLen co
    { co with
      funcClkEn := decide (16 ≤ t ∧ t < 16 + n ∧ (t - 16) % d = 0)
      scanMode := decide (t < 16 + n + 32), scanSe := decide (16 ≤ t ∧ t < 16 + n + 16) }

/-- A request that waits is raised at the earliest cycle it may be (Table 03.6, R108). -/
def accessRises (co : Core) : Core :=
  match co.saNext with
  | some (.access wr space eng addr wdata gen) =>
    if (co.cc - co.saFrom).toNat < 2 ^ 31 then
      { co with
        saReq := true, saWr := wr, saSpace := space, saEng := eng, saAddr := addr, saWdata := wdata, saGen := gen
        saSince := co.saFrom, saNext := none, saTimedOut := false }
    else co
  | _ => co

/-- What of the shim goes on with `ts_clk` whatever the counters do: CC, the link, the port's outputs. -/
def tickCore (dc : Nat) (co : Core) : Core :=
  accessRises (scanPins (linkCycles dc { co with
    cc := co.cc + BitVec.ofNat 32 dc, downRead := false, errNow := List.replicate 4 0 }))

/-- The core's counters after `dc` more cycles of `ts_clk`, and the words the shim writes for them. -/
def advCore (dc : Nat) (co : Core) : Core × List UpKind :=
  if dc = 0 then (co, [])
  else if !countersRun co then
    ({ co with engs := co.engs.map fun en => { en with beginCC := none, fresh := min 2 (en.fresh + dc) } }, [])
  else
    let engs := co.engs.zipIdx.map fun p => if engPresent co p.2 then advEngine co.stretch dc p.1 else p.1
    let fresh := (enginesOf co).filter fun e => lateRow5 dc (engOf co e)
    let accts := (enginesOf co).flatMap fun e =>
      let b := engOf co e
      let a := engs.getD e {}
      match a.cur with
      | none => []
      | some t => List.replicate (interimOf b a) (UpKind.account (BitVec.ofNat 3 e) t.ctx (2 ^ 20))
    let engs := engs.zipIdx.map fun p =>
      let b := engOf co p.2
      { p.1 with
        accounted := p.1.accounted + interimOf b p.1 * 2 ^ 20
        violBusy := p.1.violBusy || decide (p.2 ∈ fresh) }
    let first := anyInflight co || (enginesOf co).any fun e => (engOf co e).counted
    let busy := b2n first + (if anyInflight co then dc - 1 else 0)
    ({ co with
       engs := engs
       coreBusy := co.coreBusy + BitVec.ofNat 48 busy
       violations := satInc co.violations fresh.length },
     accts ++ fresh.map fun e => UpKind.violation 5 (some (BitVec.ofNat 3 e)) none 1)

/-- Tags of the command that the present cycle of an engine belongs to: the last cycle of a command is still its own (R88). -/
def cycleTags (en : Engine) : Option Tags := if en.counted then en.last else en.cur

/-! ## Port violations (R96) -/

/-- Count `n` violations of a row of Table 03.4 and report them with the tags of the command in flight, at most 15 in a
word, as a record's N counts them. -/
def violateN (c row : Nat) (e : Option Nat) (n : Nat) (s : State) : State :=
  match coreOf s c with
  | none => s
  | some co =>
    let t := e.bind fun k => cycleTags (engOf co k)
    let parts := List.replicate (n / 15) 15 ++ (if n % 15 = 0 then [] else [n % 15])
    upPushAll c (parts.map fun k => UpKind.violation row (e.map (BitVec.ofNat 3)) t k)
      (modCore c (fun x => { x with violations := satInc x.violations n }) s)

/-- One violation. -/
def violate (c row : Nat) (e : Option Nat) (s : State) : State := violateN c row e 1 s

/-- After a change of an engine's state or command: a run of row 4 or row 5 begins, goes on or ends. -/
def judgeRuns (c e : Nat) (s : State) : State :=
  match coreOf s c with
  | none => s
  | some co =>
    let en := engOf co e
    let s := if row4 en && !en.violIdle then violate c 4 (some e) s else s
    let s := if row5 en && !en.violBusy && !en.counted then violate c 5 (some e) s else s
    modEng c e (fun x => { x with violIdle := row4 x, violBusy := row5 x && (x.violBusy || !x.counted) }) s

/-! ## Ends and begins (R88, R129 to R133) -/

/-- End the command in flight on an engine: its END word carries the final counts and the cycles not yet accounted. -/
def endCommand (c e : Nat) (status : BitVec 2) (implicit_ : Bool) (s : State) : State :=
  match coreOf s c with
  | none => s
  | some co =>
    let en := engOf co e
    match en.cur with
    | none => s
    | some t =>
      upPush c (.fin (BitVec.ofNat 3 e) t status implicit_ en.cmdBusy en.cmdStall (inflightCount en - en.accounted))
        (modEng c e (fun x => { x with cur := none, last := some t, accounted := 0, fresh := 1 }) s)

/-- End the command in flight in its own last cycle, as `ts_cmd_end` does with no begin: the END word counts that cycle, and
the counters take it up when it has passed (R88, R131). -/
def endOwnCycle (c e : Nat) (status : BitVec 2) (s : State) : State :=
  match coreOf s c with
  | none => s
  | some co =>
    let en := engOf co e
    match en.cur with
    | none => s
    | some t =>
      let f := if countersRun co then countCycles co.stretch 1 en else en
      upPush c (.fin (BitVec.ofNat 3 e) t status false f.cmdBusy f.cmdStall (inflightCount f - en.accounted))
        (modEng c e (fun x => { x with
          cur := none, last := some t, accounted := 0, fresh := 0, counted := countersRun co }) s)

/-- Begin a command: the counters restart, and the values before the begin stay for a sample of this cycle (R129, R131). -/
def beginCommand (c e : Nat) (t : Tags) (st : BitVec 2) (stall : BitVec 4) (chan : BitVec 18) (s : State) : State :=
  match coreOf s c with
  | none => s
  | some co =>
    let held := (engOf co e).hold
    let s := modCore c (fun x => { x with tainted := x.tainted || t.secure }) s
    upPush c (.begin (BitVec.ofNat 3 e) t held) (modEng c e (fun x => { x with
      cur := some t, beginCC := some co.cc, counted := false, accounted := 0
      prevBusy := x.cmdBusy, prevStall := x.cmdStall, cmdBusy := 0, cmdStall := 0
      rep := st, stall := stall, chan := chan }) s)

/-! ## Holds (R101, R103) -/

/-- Whether a state of the core or engine requires the hold, or a context abort not yet acknowledged (R103, R113). -/
def holdNeeded (co : Core) (e : Nat) : Bool :=
  (co.abortReq && co.abortHeld.getLsbD e) ||
  decide (co.st = .fenced ∨ co.st = .stale ∨ co.st = .quiet ∨ co.st = .resetting) ||
    decide ((engOf co e).st = .stopped ∨ (engOf co e).st = .softStopping ∨ (engOf co e).st = .resetting)

/-- Every hold of a soft stop raised in one cycle (R101). -/
def raiseHolds (co : Core) : Core :=
  { co with
    engs := co.engs.zipIdx.map fun p => if engPresent co p.2 then { p.1 with hold := true } else p.1
    stHold := co.stHold ||| co.ties.steerPresent
    epochHold := true }

/-- Every hold lowered together, but those that a state or an abort still requires; a core about to be gated keeps them all
(R103, R113, R116). -/
def lowerHolds (co : Core) : Core :=
  if co.gateWarn then co else { co with
    engs := co.engs.zipIdx.map fun p => { p.1 with hold := holdNeeded co p.2 }
    stHold := if co.st = .active then 0 else co.stHold
    epochHold := if co.st = .active then false else co.epochHold }

/-! ## The epoch boundary (R105) -/

/-- The 24 bits of `ts_st_old`. -/
def oldTokens (co : Core) : BitVec 24 := BitVec.ofNat 24 ((co.old.zipIdx.map fun p => p.1.toNat * 64 ^ p.2).foldl (· + ·) 0)

/-- The shim raises every hold of its core's release set; begun commands run on. -/
def shimEpochHold (c : Nat) (s : State) : State :=
  modCore c (fun co => { co with
    stHold := co.ties.steerPresent, stReleased := 0, epochHold := true
    engs := co.engs.zipIdx.map fun p => if engPresent co p.2 then { p.1 with hold := true } else p.1 }) s

/-- It reports the step ended, with the epoch, the tokens of earlier epochs and the steering presence. -/
def epochReport (c : Nat) (s : State) : State :=
  match coreOf s c with
  | none => s
  | some co => upPush c (.epochBoundary co.epoch (oldTokens co) co.tok co.dat) (shimEpochHold c s)

/-! ## The downward queue (R121) -/

def isArm : DownWord → Bool
  | .stopArm .. => true | .restartArm _ => true | .sampleArm .. => true | _ => false

/-- The shim has a clock and reads its queue. -/
def shimAwake (co : Core) : Bool := !co.clockStopped && !co.quietDone && decide (co.st ≠ .quiet)

/-- The leaf fills the 16 entries from what it holds back. -/
def downFill (co : Core) : Core :=
  let room := 16 - co.downQ.length
  { co with
    downQ := co.downQ ++ co.downWait.take room, downWait := co.downWait.drop room
    cmW := co.cmW + BitVec.ofNat 5 (min room co.downWait.length) }

/-- The shim takes the front entry off. -/
def downPop (co : Core) : Core := downFill { co with downQ := co.downQ.drop 1, cmR := co.cmR + 1 }

/-- A step's release set: its holds fall in one cycle, but those that a state or an abort still requires (R104). -/
def shimRelease (engs : BitVec 8) (units : BitVec 4) (co : Core) : Core :=
  { co with
    engs := co.engs.zipIdx.map fun p =>
      if engs.getLsbD p.2 then { p.1 with hold := co.gateWarn || holdNeeded co p.2 } else p.1
    stNamed := if units = 0 then co.stNamed else units, stFired := if units = 0 then co.stFired else 0
    stReleased := if units = 0 then co.stReleased else units, stHold := co.stHold &&& ~~~units }

/-- The release of a RESUME, or of a TIME step, through which `ts_epoch_hold` is 1 (R104, R105). -/
def shimRuns (resume : Bool) (co : Core) : Core :=
  let y := lowerHolds { co with holdsUp := false, funcClkEn := co.funcClkEn || decide (co.st ≠ .hardStopped) }
  { y with epochHold := if resume then y.epochHold else true }

/-- A request is raised now, or at the earliest cycle after the one before it (Table 03.6, R108). -/
def shimAccess (w : DownWord) (co : Core) : Core :=
  let ahead := (co.saFrom - co.cc).toNat
  accessRises { co with saNext := some w, saFrom := if ahead ≤ 17 then co.saFrom else co.cc }

/-- The access in progress dies with the core's clock: no reply comes. -/
def endAccess (co : Core) : Core :=
  let asks := fun (w : DownWord) => match w with | .access .. => true | _ => false
  let dead := co.saReq || co.saNext.isSome || co.downQ.any asks || co.downWait.any asks
  { co with
    saReq := false, saNext := none, saBusy := co.saBusy && !dead
    downQ := co.downQ.filter (fun w => !asks w), downWait := co.downWait.filter fun w => !asks w }

/-- CC has reached cycle `n`, counted modulo 2^32. -/
def ccReached (cc n : BitVec 32) : Bool := decide ((cc - n).toNat < 2 ^ 31)

/-- The core runs on. A TIME step's release that meets `ts_epoch_req` at 1 ends at the boundary at once (R105). -/
def runNow (c : Nat) (resume : Bool) (s : State) : State :=
  let req := ((coreOf s c).map (·.epochReq)).getD false
  let s := modCore c (fun co => shimRuns resume { co with runAt := none }) s
  if req && !resume then epochReport c s else s

/-- A release whose cycle has come (R275). -/
def runDue (c : Nat) (s : State) : State :=
  match coreOf s c with
  | none => s
  | some co => match co.runAt with
    | some (n, resume) => if ccReached co.cc n then runNow c resume s else s
    | none => s

/-- What the shim does with an entry that is no arm. A release set that meets `ts_epoch_req` at 1 in cycle A ends at the
boundary at once (R105). -/
def shimTakes (w : DownWord) (c : Nat) (s : State) : State :=
  let req := ((coreOf s c).map (·.epochReq)).getD false
  match w with
  | .access .. => modCore c (shimAccess w) s
  | .release engs units =>
    let s := modCore c (shimRelease engs units) s
    if req then epochReport c s else s
  | .run resume n => (match n, coreOf s c with
    | some k, some co =>
      if ccReached co.cc k then runNow c resume s else modCore c (fun x => { x with runAt := some (k, resume) }) s
    | _, _ => runNow c resume s)
  | .scan => modCore c (fun co => scanPins { co with scanRun := some co.cc }) s
  | _ => s

/-- The shim reads up to `n` entries; an arm waits for its own row. -/
def shimReads : Nat → Nat → State → State
  | 0, _, s => s
  | n + 1, c, s =>
    match (coreOf s c).bind fun co => co.downQ.head? with
    | none => s
    | some w => if isArm w then s else shimReads n c (shimTakes w c (modCore c downPop s))

/-- The leaf sends a word down. An entry that is no arm and has none before it is read before the core's next row (log entry
85). -/
def downPush (c : Nat) (w : DownWord) (s : State) : State :=
  let s := modCore c (fun co => downFill { co with downWait := co.downWait ++ [w] }) s
  match coreOf s c with
  | none => s
  | some co => if shimAwake co then shimReads (co.downQ.length + co.downWait.length) c s else s

/-- Let `dc` cycles pass on core `c`: its counters, its link both ways, its outputs; the shim reads at most one entry of the
downward queue in each. -/
def tapAdvance (c dc : Nat) (s : State) : State :=
  match coreOf s c with
  | none => s
  | some co =>
    if dc = 0 then s else
    let r := advCore dc co
    let s := shimReads dc c (runDue c (upPushAll c r.2 (modCore c (fun _ => tickCore dc r.1) s)))
    modCore c (fun x => { x with downRead := decide ((x.cmR - co.cmR).toNat = dc) }) s

/-! ## The stop cycle (R97, R98) -/

/-- By the leaf's map, the first core cycle whose stamp is at or after `t`; none before the map has two cycles. -/
def mapCycle (m : LinkMap) (t : GT) : Option (BitVec 32) :=
  let cycles : Int := (m.lastCC - m.oldCC).toNat
  let gt : Int := (m.lastStamp : Int) - m.oldStamp
  if cycles ≤ 0 ∨ gt ≤ 0 then none
  else some (m.lastCC + BitVec.ofInt 32 (-((((m.lastStamp : Int) - t) * cycles) / gt)))

/-- The cycle N of an arm for `t`: the map's cycle plus an allowance of at most 4, which the row's operand `n` gives (R97,
R98; log entry 83). -/
def stopCycle (co : Core) (t : GT) (n : BitVec 32) : BitVec 32 :=
  match mapCycle co.map t with
  | none => n
  | some t0 => if (n - t0).toNat ≤ 4 then n else t0

/-! ## Counters at zero (R127, R148) -/

/-- The full set of an engine from zero; the next sample carries DISC. -/
def zeroFull (en : Engine) : Engine :=
  { en with full := List.replicate 20 0, extHigh := List.replicate 20 0, extMsb := List.replicate 20 false, fullDisc := 0xF }

/-- Every counter of a shim at zero: observation reset, a wake without retention, entry into STALE. -/
def zeroCounters (co : Core) : Core :=
  { co with
    coreBusy := 0, errs := List.replicate 4 0, extHigh := List.replicate 5 0, extMsb := List.replicate 5 false
    pailDisc := 0xF
    engs := co.engs.map fun en => { zeroFull en with
      cmdBusy := 0, cmdStall := 0, prevBusy := 0, prevStall := 0, last := none, accounted := 0 } }

/-! ## Errors at the shim (R95, R123, R344) -/

/-- An error class counter of the core and the chip total (R605). -/
def countError (c : Nat) (cls : BitVec 2) (n : Nat) (s : State) : State :=
  let s := modCore c (fun x => { x with
    errs := x.errs.modify cls.toNat (· + BitVec.ofNat 48 n), errNow := x.errNow.modify cls.toNat (· + n) }) s
  { s with ao := { s.ao with errs := s.ao.errs.modify cls.toNat (· + wn n) } }

/-! ## The leaf block (Tables 06.2, 06.4, 06.5, 06.7) and the shim's counter-threshold slots (R185) -/

def cmpWord (b : LeafBlock) (i k : Nat) : Word := b.words.getD (5 * i + k) 0
def tagWord (b : LeafBlock) (i k : Nat) : Word := b.words.getD (80 + 4 * i + k) 0
def guardWord (b : LeafBlock) (i k : Nat) : Word := b.words.getD (112 + 3 * i + k) 0
def seqWord (b : LeafBlock) (i k : Nat) : Word := b.words.getD (124 + 18 * i + k) 0

def watchCore (w : Word) (c : Nat) : Bool := bit w (44 + c % 16)
def watchEng (w : Word) (e : Nat) : Bool := bit w (36 + e)

def cmpKind (b : LeafBlock) (i : Nat) : Nat := bits (cmpWord b i 0) 63 60

def trigOf (s : State) (cl : Nat) : Trig := ((tget cl s.leaves).map (·.trig)).getD {}
def modTrig (cl : Nat) (f : Trig → Trig) (s : State) : State := modLeaf cl (fun l => { l with trig := f l.trig }) s

/-- The block that the shims' settings follow: the one last loaded. -/
def newestBlock (s : State) (cl : Nat) : LeafBlock := (trigOf s cl).newest

/-- The counter of index `cnt` of Table 06.3 as it stands. -/
def counterNow (co : Core) (e cnt : Nat) : Nat :=
  let en := engOf co e
  if cnt < 20 then (en.full.getD cnt 0).toNat
  else if cnt = 20 then en.cmdBusy.toNat
  else if cnt = 21 then en.cmdStall.toNat
  else if cnt = 22 then co.coreBusy.toNat
  else (co.errs.getD (cnt - 23) 0).toNat

/-- The counter as a reading in the present cycle gives it: without that cycle (R131). -/
def counterRead (co : Core) (e cnt : Nat) : Nat :=
  let en := engOf co e
  let edge := decide (en.beginCC = some co.cc)
  if cnt = 20 then (if edge then en.prevBusy.toNat else en.cmdBusy.toNat)
  else if cnt = 21 then (if edge then en.prevStall.toNat else en.cmdStall.toNat)
  else if 23 ≤ cnt then counterNow co e cnt - co.errNow.getD (cnt - 23) 0
  else counterNow co e cnt

/-- COUNTER comparator `i` watches engine `e` of core `c`; core counters pulse as engine 0. -/
def cmpCounter (b : LeafBlock) (i c e : Nat) : Bool :=
  let w := cmpWord b i 0
  decide (cmpKind b i = 3) && watchCore w c &&
    (if bits w 31 27 < 22 then watchEng w e else decide (e = 0))

def slotIndex (b : LeafBlock) (i : Nat) : Nat := bits (cmpWord b i 0) 31 27
def slotBelow (b : LeafBlock) (i : Nat) (co : Core) (e : Nat) : Bool :=
  decide (counterNow co e (slotIndex b i) < bits (cmpWord b i 1) 47 0)

/-- A watched counter has reached its threshold: the reading is at or above LO, and a counter of the full set runs. -/
def slotReached (b : LeafBlock) (i : Nat) (co : Core) (e : Nat) : Bool :=
  !slotBelow b i co e && decide (bits (cmpWord b i 1) 47 0 ≤ counterRead co e (slotIndex b i)) &&
    (decide (20 ≤ slotIndex b i) || (engOf co e).fullEn)

/-- Comparators whose counter is below its threshold may cross again (R185). -/
def refreshCrossed (c : Nat) (s : State) : State :=
  let b := newestBlock s (clusterOf c)
  modCore c (fun co => { co with
    engs := co.engs.zipIdx.map fun p =>
      if p.1.crossed = 0 then p.1
      else { p.1 with crossed := (List.range 16).foldl (fun m i =>
        if p.1.crossed.getLsbD i && slotBelow b i co p.2 then setBit m i false else m) p.1.crossed } }) s

/-- After a load every comparator already at or above its threshold must first fall below it. -/
def primeCrossed (b : LeafBlock) (c : Nat) (co : Core) : Core :=
  { co with engs := co.engs.zipIdx.map fun p => { p.1 with
      crossed := (List.range 16).foldl (fun m i =>
        setBit m i (cmpCounter b i c p.2 && !slotBelow b i co p.2)) (0 : BitVec 16) } }

/-! ## The shim listens -/

/-- The compute rail of a core's partition is off (R563). -/
def railOff (s : State) (c : Nat) : Bool := s.pw.gated.getLsbD (partOf c)

/-- A row of core `c` reaches a running shim: the core is present, its rail is on and its clock is not gated. -/
def tapLive (s : State) (c : Nat) : Bool :=
  match coreOf s c with
  | none => false
  | some co => decide (co.st ≠ .quiet) && serving s && !railOff s c

/-- An engine's inputs are taken: it is present and not in reset (R83). -/
def engLive (s : State) (c e : Nat) : Bool :=
  match coreOf s c with
  | none => false
  | some co => engPresent co e && (engOf co e).rstN

/-- An event captured after QUIET is discarded and counted for WAKE (R117). -/
def discards (s : State) (c : Nat) : Bool := ((coreOf s c).map (·.quietDone)).getD false
def discard (c n : Nat) (s : State) : State := modCore c (fun x => { x with discarded := x.discarded + n }) s

/-- The common frame of a row at the tap port: cycles pass, and with them the counter-threshold slots; then, unless the shim discards its `n` events, the row acts. -/
def tapRow (c dc n : Nat) (act : State → State) (s : State) : State :=
  if discards s c && serving s && !railOff s c then discard c n (tapAdvance c dc s)
  else if tapLive s c then act (refreshCrossed c (tapAdvance c dc (refreshCrossed c s)))
  else s

end Sys2Proof.Machine
end

