-- ==== Sys2Proof/Machine/Counters.lean ====
section
/-!
DEFINITION. Counter sets and the pail (chapter 04).
-/
namespace Sys2Proof.Machine

/-! ## Sizes and rates (R143, R144) -/

/-- Words of a full engine block (Table 04.9). -/
def blockWords (p : PailParams) : Nat := (if p.ext then 20 else 15) + (if p.cmd then 3 else 0)

/-- Bytes of the largest possible sample of a set, set records included (R144, Table 04.11). -/
def largestSample (s : State) (p : PailParams) : Nat :=
  48 + (if p.kind = 0 then 48 * (coresIn s p.addr p.mask).length
    else if p.kind = 1 then
      ((coresIn s p.addr p.mask).map fun c =>
        8 + 8 * blockWords p * ((coreOf s c).map fun co => (enginesOf co).length).getD 0).foldl (· + ·) 0
    else 32 * (p.ctxLast.toNat + 1 - p.ctxFirst.toNat))

/-- Projected rate in whole bytes per second (R136, R144), rounded down (log entry 90). -/
def pailRate (s : State) (p : PailParams) : Nat := largestSample s p * 4000000000 / p.interval.toNat

def pailSet (s : State) (i : BitVec 2) : PailSet := s.pail.sets.getD i.toNat {}
def modSet (i : BitVec 2) (f : PailSet → PailSet) (s : State) : State :=
  { s with pail := { s.pail with sets := s.pail.sets.modify i.toNat f } }

/-- The configuration that counts towards the limit: the one that waits, else the one in use. -/
def pailCfg (ps : PailSet) : Option PailParams := ((ps.next.map Prod.fst).orElse fun _ => ps.cfg).filter (·.enable)

/-- The domain that holds the set: that of the configuration that waits, else of the one in use (log entry 90). -/
def pailHolder (ps : PailSet) : BitVec 8 := (ps.next.map fun q => q.2.1).getD ps.domain

/-- The sum of the other sets' rates and this one's stays within half the governor's share (R144). -/
def overBudget (s : State) (p : PailParams) : Bool :=
  let others := (s.pail.sets.zipIdx.filter fun q => decide (q.2 ≠ p.set.toNat)).map fun q =>
    ((pailCfg q.1).map (pailRate s)).getD 0
  decide (allowance s * 1000000 / 2 < others.foldl (· + ·) 0 + pailRate s p)

def pailRangeBad (s : State) (p : PailParams) : Bool :=
  let i := p.interval.toNat
  let least := if p.kind = 0 then 4000 else if p.kind = 1 then 400000 else 40000
  decide (p.kind = 3) || decide (i < least ∨ 4000000000 < i) || decide (p.ringBase.toNat % 4096 ≠ 0) ||
    decide (p.ringLog2.toNat < 16 ∨ 32 < p.ringLog2.toNat) ||
    (if p.kind = 2 then decide (p.ctxLast < p.ctxFirst) else setBadArg s p.addr p.mask 1)

/-- Contexts a CTX set writes: the defined ones of the range, for a Tenant those of its own domain (R142, R147). -/
def pailCtxs (s : State) (p : PailParams) (dom : BitVec 8) : List Nat :=
  (definedIn s p.ctxFirst.toNat (p.ctxLast.toNat + 1 - p.ctxFirst.toNat)).filter fun c =>
    decide (dom = 0) || decide (ctxDomain s c = dom)

/-- The domain a principal configures for. -/
def domainOf (who : Option Principal) : BitVec 8 := (who.map principalDomain).getD 0

/-! ## Ring writes -/

/-- Bytes of the circular record area (R143). -/
def areaBytes (p : PailParams) : Nat := 2 ^ p.ringLog2.toNat - 64

/-- Write words at an offset of a set's area, wrapping at its end. -/
def pailWrite (i : BitVec 2) (p : PailParams) (dom : BitVec 8) (off : Nat) (ws : List Word) (s : State) : State :=
  let n := 8 * ws.length
  let first := min n (areaBytes p - off)
  let parts := [(off, ws.take (first / 8)), (0, ws.drop (first / 8))].filter fun q => !q.2.isEmpty
  let s := parts.foldl (fun s q => hmAsk {
    purpose := .pailData i, cls := .pail, wr := true, dom := dom
    addr := p.ringBase + wn (64 + q.1), bytes := 8 * q.2.length, data := q.2 } s) s
  modSet i (fun ps => { ps with unanswered := ps.unanswered + parts.length }) s

/-- Add a record to the open sample. -/
def pailAppend (i : BitVec 2) (ws : List Word) (s : State) : State :=
  let ps := pailSet s i
  match ps.cfg, ps.sample with
  | some p, some o =>
    let s := pailWrite i p ps.domain o.offset ws s
    modSet i (fun q => { q with sample := some { o with offset := (o.offset + 8 * ws.length) % areaBytes p } }) s
  | _, _ => s

/-- A waiting configuration takes effect once no sample is open and the last one is published (Table 04.6); its first instant
is counted from its acceptance (R137); records of the old one that are still on their way are late (R142). The ring starts
with write offset and skipped count 0, its control block unwritten until the first sample (log entry 90). -/
def pailTakeNext (i : BitVec 2) (s : State) : State :=
  match (pailSet s i).next with
  | none => s
  | some (p, d, mb, now) =>
    let k := if p.phase.toNat < now + 1000 then (now + 1000 - p.phase.toNat + p.interval.toNat - 1) / p.interval.toNat else 0
    let s := { s with pail := { s.pail with flight := s.pail.flight.filter fun r => !(r.set == i) } }
    modSet i (fun _ => if p.enable then { cfg := some p, domain := d, nextK := k, mailbox := mb } else {}) s

/-- Issue the write of word 0 (and word 2) once every write of the sample is answered (R143, R591). -/
def pailPublish (i : BitVec 2) (s : State) : State :=
  let ps := pailSet s i
  match ps.cfg, ps.publish with
  | some p, some off =>
    if ps.unanswered = 0 then
      pailTakeNext i (hmAsk { purpose := .pailPointer i, cls := .pail, wr := true, dom := ps.domain, addr := p.ringBase,
                              bytes := 24, data := [wn off, 0, wn ps.skipped], be := some 0xFF00FF }
        (modSet i (fun q => { q with publish := none }) s))
    else s
  | _, _ => s

/-- Close the open sample: set end record with RECORDS and MISSING, the rest of the reservation given up (R142, R143). -/
def pailClose (i : BitVec 2) (s : State) : State :=
  let ps := pailSet s i
  match ps.sample with
  | none => s
  | some o =>
    let kind := (ps.cfg.map (·.kind.toNat)).getD 0
    let s := pailAppend i [pk [(4, 4, kind), (8, 4, i.toNat), (0, 4, 0xF)], pk [(32, 32, o.records), (0, 32, o.k)],
      pk [(0, 32, o.expected - o.records)]] s
    let off := ((pailSet s i).sample.map (·.offset)).getD 0
    modSet i (fun q => { q with sample := none, write := off, publish := some off, full := decide (off = q.read) }) s

/-! ## Sampling (R130 to R132, R138, R139) -/

/-- The command-scoped words of Table 04.10 for a sample of core cycle `cc`. Each flag stands wherever R132 gives its condition,
ENDED beside EDGE and NONE too (log entry 90). -/
def commandWords (cc : BitVec 32) (en : Engine) : List Word :=
  let edge := decide (en.beginCC = some cc) && en.cur.isSome
  let tags := if edge then en.last else (if en.cur.isSome then en.cur else en.last)
  let ended := (edge || en.cur.isNone) && decide (2 ≤ en.fresh)
  let none_ := tags.isNone
  let busy := if none_ then 0 else if edge then en.prevBusy.toNat else en.cmdBusy.toNat
  let stall := if none_ then 0 else if edge then en.prevStall.toNat else en.cmdStall.toNat
  let t := tags.getD {}
  [pk [(48, 16, t.ctx.toNat), (0, 48, busy)],
   pk [(50, 1, b2n none_), (49, 1, b2n ended), (48, 1, b2n edge), (0, 48, stall)],
   pk [(48, 16, t.op.toNat), (32, 16, t.layer.toNat), (0, 32, t.seq.toNat)]]

/-- The configuration of a pail set is of KIND FULL. -/
def fullSet (s : State) (i : BitVec 2) : Bool := decide ((pailSet s i).cfg.map (·.kind) = some 1)

/-- The record a running shim gives for a sample (R131, R139); `full` says that the set samples the full set too, so that
DISC stands for a counter of the set that was set to zero (R127). -/
def takeSample (co : Core) (c : Nat) (full : Bool) (set : BitVec 2) (k : Nat) (late : Bool) (skew : Int) : PailRec :=
  let es := (enginesOf co).filter fun e => (engOf co e).fullEn
  { set := set, k := k, core := c, gen := co.gen, skew := skew, late := late, loss := co.pailLoss.getLsbD set.toNat
    disc := co.pailDisc.getLsbD set.toNat || full && es.any (fun e => (engOf co e).fullDisc.getLsbD set.toNat), stale := decide (co.st = .stale)
    light := co.coreBusy :: (co.errs.zip co.errNow).map fun q => q.1 - BitVec.ofNat 48 q.2
    engs := es.map fun e => (e, (engOf co e).full, commandWords co.cc (engOf co e)) }

/-- A sample of a set has been read: its one-time flags are spent. -/
def spendFlags (set : BitVec 2) (co : Core) : Core :=
  let others := ~~~((1 : BitVec 4) <<< set.toNat)
  { co with
    pailDisc := co.pailDisc &&& others, pailLoss := co.pailLoss &&& others
    engs := co.engs.map fun en => { en with fullDisc := en.fullDisc &&& others } }

/-! ## 64-bit extension (R148) -/

/-- One counter: its high part and last top bit after a sample of value `v`. -/
def extendOne (h : BitVec 15) (msb : Bool) (v : BitVec 48) : BitVec 15 × Bool :=
  (if msb && !v.getLsbD 47 then h + 1 else h, v.getLsbD 47)

def extendList : List (BitVec 15) → List Bool → List (BitVec 48) → List (BitVec 15) × List Bool
  | h :: hs, m :: ms, v :: vs =>
    let r := extendOne h m v
    let rest := extendList hs ms vs
    (r.1 :: rest.1, r.2 :: rest.2)
  | hs, ms, _ => (hs, ms)

def extValue (h : BitVec 15) (v : BitVec 48) : Word := BitVec.ofNat 64 (h.toNat * 2 ^ 48 + v.toNat)

def extendLight (vs : List (BitVec 48)) (co : Core) : Core :=
  let r := extendList co.extHigh co.extMsb vs
  { co with extHigh := r.1, extMsb := r.2 }

def extendFull (vs : List (BitVec 48)) (en : Engine) : Engine :=
  let r := extendList en.extHigh en.extMsb vs
  { en with extHigh := r.1, extMsb := r.2 }

/-- HOUSEKEEPING_SAMPLE: every light counter and every enabled full set is sampled for its extension. -/
def execHousekeepingSample (s : State) : Host.Outcome State Fault Refusal :=
  .next (if serving s && !basic s then
    { s with cores := tmap (fun _ co => extendLight (co.coreBusy :: co.errs)
        { co with engs := co.engs.map fun en => if en.fullEn then extendFull en.full en else en }) s.cores }
  else s)

/-! ## Record layout (Tables 04.8 to 04.10) -/

def pailFlags (r : PailRec) (ext cmd : Bool) : Nat :=
  b2n r.disc + b2n r.loss * 2 + b2n r.quiet * 4 + b2n r.stale * 8 + b2n r.absent * 16 + b2n ext * 32 + b2n cmd * 64 +
    b2n r.late * 128

/-- SKEW saturates at 16 signed bits. -/
def satSkew (i : Int) : Nat := sgn 16 (if i < -32768 then -32768 else if 32767 < i then 32767 else i)

def pailHeader (r : PailRec) (emask : Nat) (ext cmd : Bool) (type : Nat) : Word :=
  pk [(52, 8, r.gen.toNat), (36, 16, satSkew r.skew), (20, 16, 8 * r.core), (12, 8, emask), (4, 8, pailFlags r ext cmd),
    (0, 4, type)]

/-- Twenty 48-bit counters in 15 words (R141). -/
def packCounters (vs : List (BitVec 48)) : List Word :=
  let n := vs.foldr (fun v acc => acc * 2 ^ 48 + v.toNat) 0
  (List.range 15).map fun i => BitVec.ofNat 64 (n >>> (64 * i))

/-- The words of a light or full record, the extension having been applied to `co`. -/
def pailWords (basic_ : Bool) (p : PailParams) (co : Core) (r : PailRec) : List Word :=
  let ext := p.ext && !basic_
  if p.kind = 0 then
    if r.absent then [pailHeader r 0 ext false 1]
    else pailHeader r 0 ext false 1 ::
      (if ext then (co.extHigh.zip r.light).map fun q => extValue q.1 q.2 else r.light.map (·.setWidth 64))
  else
    let emask := (r.engs.map fun q => 2 ^ q.1).foldl (· + ·) 0
    if r.absent then [pailHeader r 0 ext p.cmd 2]
    else pailHeader r emask ext p.cmd 2 :: r.engs.flatMap fun q =>
      (if ext then ((engOf co q.1).extHigh.zip q.2.1).map fun x => extValue x.1 x.2 else packCounters q.2.1) ++
        (if p.cmd then q.2.2 else [])

/-! ## Commands -/

/-- CNT_CONFIG (R128). Enabling counts from zero, also where the set is enabled already (log entry 90); a unit that is QUIET or
whose clock is stopped makes it PARTIAL and takes the setting when it next runs. -/
def setFull (on : Bool) (c e : Nat) (s : State) : State :=
  modEng c e (fun en => if on then { zeroFull en with fullEn := true } else { en with fullEn := false }) s

/-- TRACE_TRUNCATE (R175): the chip's first full set takes the top 2.5 MiB of the on-chip buffer; the trace chapter's
operation is given here as `truncate`, and `refresh` is what a core's crossings do when a set starts from zero (R185). -/
def cntConfigWith (truncate : State → State) (refresh : Nat → State → State) (via : Via) (a m : UnitAddr) (full : Bool) (s : State) : State :=
  command via 0x0020 (.cntConfig via a m full) false
    (fun s => [(denied s via .opPlatVen .observe, rDenied), (setBadArg s a m 0, rBadArg), (setBadUnit s a m 0, rBadUnit)])
    (fun s =>
      let es := enginesIn s a m
      let away := es.filter fun q =>
        ((coreOf s q.1).map fun co => co.quietStamp.isSome || co.clockStopped).getD false
      let s := if full then truncate s else s
      let s := es.foldl (fun s q => refresh q.1 (setFull full q.1 q.2 s)) s
      if away.isEmpty then respond via rOk [] s
      else respond via rPartial (away.map fun q => (fullAddr s (engAddr q.1 q.2)).setWidth 64) s) s

/-- PAIL_CONFIG (R136, R146, R147, R149). A Tenant replaces or stops no set that another domain holds (log entry 90). -/
def execPailConfig (via : Via) (p : PailParams) (s : State) : Host.Outcome State Fault Refusal :=
  .next (command via 0x0021 (.pailConfig via p) true
    (fun s =>
      let who := whoOf s via
      let other := (pailCfg (pailSet s p.set)).isSome && decide (pailHolder (pailSet s p.set) ≠ domainOf who)
      let privileged := decide (p.kind ≠ 2) || p.cmd
      let least := if p.enable && (decide (p.kind = 1) || p.cmd) then DebugLevel.observe else .sealedLevel
      [(denied s via .everyone least || (isTenant who && (other || (p.enable && privileged))), rDenied),
       (p.enable && pailRangeBad s p, rBadArg),
       (p.enable && decide (p.kind ≠ 2) && setBadUnit s p.addr p.mask 1, rBadUnit),
       (p.enable && decide (p.kind = 2) && isTenant who && (pailCtxs s p (domainOf who)).isEmpty, rBadContext),
       (basic s && p.enable && (decide (p.kind = 1) || (decide (p.kind = 0) && p.ext)), rDegraded),
       (p.enable && overBudget s p, rNoResource)])
    (fun s =>
      let d := domainOf (whoOf s via)
      let now := hubGt s
      let s := modSet p.set (fun ps => { ps with next := some (p, d, !isNarrow via, now) }) s
      let ps := pailSet s p.set
      let s := if ps.sample.isNone && ps.publish.isNone then pailTakeNext p.set s else s
      respond via rOk [wn (if p.enable then pailRate s p else 0)] s) s)

/-- The next sample instant of a set. -/
def sampleInstant (ps : PailSet) (p : PailParams) : GT := p.phase.toNat + ps.nextK * p.interval.toNat

/-- Skip an instant: MISSED and word 2 count it (R143, R145). -/
def pailSkip (i : BitVec 2) (s : State) : State :=
  modSet i (fun q => { q with missed := q.missed + 1, skipped := q.skipped + 1, nextK := q.nextK + 1 }) s

/-- Skip an instant for want of space, and write word 2 (R143). -/
def pailSkipFull (i : BitVec 2) (p : PailParams) (s : State) : State :=
  let s := pailSkip i s
  let ps := pailSet s i
  hmAsk { purpose := .pailControl i, cls := .pail, wr := true, dom := ps.domain, addr := p.ringBase + 16, bytes := 8,
          data := [wn ps.skipped] } s

/-- Records of a CTX sample come from the hub's own table (R142). -/
def pailContexts (i : BitVec 2) (p : PailParams) (dom : BitVec 8) (s : State) : State :=
  let cs := pailCtxs s p dom
  let s := cs.foldl (fun s c => match tget c s.ctxs with
    | none => s
    | some x => pailAppend i [pk [(20, 16, c), (0, 4, 3)], x.busy, x.done, x.aborted ++ x.error] s) s
  modSet i (fun q => { q with sample := q.sample.map fun o => { o with records := o.records + cs.length } }) s

/-- Free bytes of the area between the write offset and a read offset (R143). -/
def freeBytes (ps : PailSet) (p : PailParams) (read : Nat) : Nat :=
  if read = ps.write then (if ps.full then 0 else areaBytes p) else (read + areaBytes p - ps.write) % areaBytes p

/-- PAIL_SAMPLE_INSTANT: `read` is word 1 as the hub reads it before the sample (R143). -/
def execPailSampleInstant (i : BitVec 2) (read : Word) (s : State) : Host.Outcome State Fault Refusal :=
  .next (match (pailSet s i).cfg with
    | none => s
    | some p0 =>
      if serving s && decide (sampleInstant (pailSet s i) p0 ≤ hubGt s) then
        let s := pailClose i s
        let ps := pailSet s i
        match ps.cfg with
        | none => s
        | some p =>
          if ps.fault.isSome then pailSkip i s
          else if ps.next.isSome then s
          else
            let s := readMetered s
            if freeBytes ps p read.toNat < largestSample s p then pailSkipFull i p s
            else
              let s0 := sampleInstant ps p
              let expected := if p.kind = 2 then (pailCtxs s p ps.domain).length else (coresIn s p.addr p.mask).length
              let s := modSet i (fun q => { q with
                read := read.toNat, nextK := ps.nextK + 1, missed := 0
                sample := some { k := ps.nextK, instant := s0, expected := expected, offset := ps.write } }) s
              let s := pailAppend i [pk [(4, 4, p.kind.toNat), (8, 4, i.toNat)], wn s0,
                pk [(48, 16, satN 16 ps.missed), (37, 1, b2n p.cmd), (36, 1, b2n p.ext),
                    (32, 4, timeStateCode s.time.state), (0, 32, ps.nextK)]] s
              if p.kind = 2 then pailClose i (pailContexts i p ps.domain s) else s
      else s)

/-- The core is sampled by a set: k and instant of the open sample, else of the next, for which it is not yet armed. -/
def armsCore (s : State) (i : BitVec 2) (c : Nat) : Option (PailParams × Nat × GT) :=
  let ps := pailSet s i
  let armed := ((coreOf s c).map fun co => co.pailArmed.getD i.toNat 0).getD 0
  match ps.cfg with
  | none => none
  | some p => if p.kind ≠ 2 ∧ c ∈ coresIn s p.addr p.mask then
      ((ps.sample.toList.map fun o => (p, o.k, o.instant)) ++ [(p, ps.nextK, sampleInstant ps p)]).find? fun q =>
        decide (armed < q.2.2)
    else none

/-- QUIET or clock-stopped: its shim reads no cycle. -/
def coreAway (co : Core) : Bool := co.quietStamp.isSome || co.clockStopped

/-- k of a sample arm of the set that the core has not spent. -/
def unspentArm (i : BitVec 2) (co : Core) : Option Nat :=
  ((co.sampleArms.filter fun q => q.2.1 == i).map fun q => q.2.2.1).head?.or
    ((co.downQ ++ co.downWait).findSome? fun m => match m with
      | .sampleArm _ set k => if set = i then some k else none
      | _ => none)

/-- A sample arm of the set. -/
def armOf (i : BitVec 2) (m : DownWord) : Bool := match m with | .sampleArm _ set _ => set == i | _ => false

/-- The core's arms of the set are withdrawn. -/
def withdrawArms (i : BitVec 2) (co : Core) : Core :=
  { co with
    sampleArms := co.sampleArms.filter fun q => !(q.2.1 == i)
    downQ := co.downQ.filter fun m => !armOf i m, downWait := co.downWait.filter fun m => !armOf i m }

/-- The header-only record of a core that is away at its sample cycle goes to the hub (Table 04.7); there is no sample cycle, and
SKEW is 0 (log entry 90). -/
def headerOnly (i : BitVec 2) (c k : Nat) (co : Core) (s : State) : State :=
  { s with pail := { s.pail with flight := s.pail.flight ++ [{
      set := i, k := k, core := c, gen := co.gen, skew := 0, quiet := co.quietStamp.isSome, absent := true }] } }

/-- PAIL_LEAF_ARM: the leaf's GT reaches S - 256 and it sends the core a sample arm for cycle `n`; for a core that is QUIET
or whose clock is stopped at S it gives a header-only record, also in place of an arm that the core can no longer spend
(R138, R139, R97). -/
def execPailLeafArm (i : BitVec 2) (core : CoreIx) (cyc : Nat) (n : BitVec 32) (s : State) :
    Host.Outcome State Fault Refusal :=
  let c := core.toNat
  .next (match coreOf s c with
    | none => s
    | some co =>
      let now := leafGt s (clusterOf c) cyc
      if leafValid s (clusterOf c) = false then s else
      match if coreAway co then unspentArm i co else none, armsCore s i c with
      | some k, _ =>
        if co.pailArmed.getD i.toNat 0 ≤ now then headerOnly i c k co (modCore c (withdrawArms i) s) else s
      | none, some (_, k, at_) =>
        if now + (if coreAway co then 0 else 256) < at_ then s else
        let s := modCore c (fun x => { x with pailArmed := x.pailArmed.set i.toNat at_ }) s
        if coreAway co then headerOnly i c k co s
        else downPush c (.sampleArm (stopCycle co at_ n) i k) s
      | none, none => s)

/-- PAIL_SHIM_SAMPLE: the core's cycle is that of a sample arm or later; every counter is read as it stands at the start of
the cycle; a sample of a later cycle than N is LATE (R131, R138). `cyc` gives the leaf's stamp of the cycle. -/
def execPailShimSample (core : CoreIx) (dc cyc : Nat) (s : State) : Host.Outcome State Fault Refusal :=
  let c := core.toNat
  .next (if tapLive s c then
    let s := tapAdvance c dc s
    match coreOf s c with
    | none => s
    | some co =>
      match co.sampleArms.find? fun q => ccReached co.cc q.1 with
      | none => s
      | some (n, i, k, read) =>
        let late := read || decide (co.cc ≠ n)
        let at_ := match (pailSet s i).cfg with
          | some p => p.phase.toNat + k * p.interval.toNat
          | none => leafGt s (clusterOf c) cyc
        let r := takeSample co c (fullSet s i) i k late ((leafGt s (clusterOf c) cyc : Int) - at_)
        let s := { s with pail := { s.pail with flight := s.pail.flight ++ [r] } }
        modCore c (fun x => { spendFlags i x with
          sampleArms := eraseFirst (fun q => q == (n, i, k, read)) x.sampleArms }) s
  else s)

/-- A record of the set that the hub can take: a header-only one of a sample still to be opened waits for its instant. -/
def recordDue (s : State) (i : BitVec 2) (r : PailRec) : Bool :=
  r.set == i && !(r.absent && (pailSet s i).cfg.isSome && decide ((pailSet s i).nextK ≤ r.k))

/-- PAIL_RECORD_ARRIVAL: the oldest record of the set that is due reaches the hub. Its counters are extended; a record of
the open sample is written, a late one dropped; the last one expected closes the sample (R142, R148). -/
def execPailRecordArrival (i : BitVec 2) (s : State) : Host.Outcome State Fault Refusal :=
  .next (match s.pail.flight.find? (recordDue s i) with
    | none => s
    | some r =>
      let s := { s with pail := { s.pail with flight := eraseFirst (fun q => q == r) s.pail.flight } }
      let s := if basic s || r.absent then s else modCore r.core (fun co =>
        r.engs.foldl (fun co q => modEngC q.1 (extendFull q.2.1) co) (extendLight r.light co)) s
      let ps := pailSet s i
      match ps.cfg, ps.sample, coreOf s r.core with
      | some p, some o, some co =>
        if o.k = r.k then
          let s := pailAppend i (pailWords (basic s) p co r) s
          let s := modSet i (fun q => { q with sample := q.sample.map fun x => { x with records := x.records + 1 } }) s
          if o.expected ≤ o.records + 1 then pailClose i s else s
        else s
      | _, _, _ => s)

/-- A write of a set's ring is answered OK. -/
def pailWritten (i : BitVec 2) (s : State) : State :=
  pailPublish i (modSet i (fun q => { q with unanswered := q.unanswered - 1 }) s)

/-- A write of a set's ring met a fault: the set stops until FAULT_RETRY (R145). -/
def pailFaulted (i : BitVec 2) (addr : Word) (s : State) : State :=
  if (pailSet s i).fault.isSome then s else
  let s := hmCancel (fun p => decide (p = .pailData i) || decide (p = .pailPointer i) || decide (p = .pailControl i)) s
  raiseEvent 0x0132 1 [wn i.toNat, addr] {} 0 (pailTakeNext i
    (modSet i (fun q => { q with fault := some addr, sample := none, unanswered := 0, publish := none }) s))

/-- FAULT_RETRY naming the set: sampling goes on. -/
def pailRetry (i : BitVec 2) (s : State) : State := modSet i (fun q => { q with fault := none }) s

/-- Configurations that satisfy a test, by parameters, domain and mailbox, are disabled at once, the one that waits as well as
the one in use (R147, R149, R516): the writes of a set that stops end, and what waits behind it takes its place. -/
def disableSets (p : PailParams → BitVec 8 → Bool → Bool) (s : State) : State :=
  [(0 : BitVec 2), 1, 2, 3].foldl (fun s i =>
    let ps := pailSet s i
    let next := ps.next.filter fun q => !p q.1 q.2.1 q.2.2.1
    if (ps.cfg.map fun c => p c ps.domain ps.mailbox).getD false then
      let s := hmCancel (fun u => decide (u = .pailData i) || decide (u = .pailPointer i) || decide (u = .pailControl i)) s
      pailTakeNext i (modSet i (fun _ => { next := next }) s)
    else modSet i (fun q => { q with next := next }) s) s

end Sys2Proof.Machine
end

