-- ==== Sys2Proof/Machine/Tracing.lean ====
section
/-!
DEFINITION. Trace records, streams, the milk run and the sinks (chapter 05).
-/
namespace Sys2Proof.Machine

/-! ## What is traced (R151, R152, R154) -/

/-- A session names an engine. -/
def sessionNames (s : State) (p : Option TraceParams) (c e : Nat) : Bool :=
  match p with
  | none => false
  | some p => namesHere s p.addr p.mask && inSet (fullAddr s (engAddr c e)) p.addr p.mask

/-- The session as the leaf's merge has reached it, and as the hub runs it. -/
def sessionAt (s : State) (cl : Nat) : Option TraceParams := (tget cl s.leaves).bind (·.session)
def hubSession (s : State) : Option TraceParams := if s.trace.enabled then s.trace.cfg else none

/-- An engine of the session's unit set, at its leaf. -/
def traced (s : State) (c e : Nat) : Bool := sessionNames s (sessionAt s (clusterOf c)) c e

/-- A core with a traced engine, at its leaf and at the hub. -/
def tracedCore (s : State) (c : Nat) : Bool :=
  ((coreOf s c).map fun co => (enginesOf co).any (traced s c)).getD false
def hubTracedCore (s : State) (c : Nat) : Bool :=
  ((coreOf s c).map fun co => (enginesOf co).any (sessionNames s (hubSession s) c)).getD false

/-- A cluster with a traced core. -/
def tracedCluster (s : State) (cl : Nat) : Bool := (List.range 16).any fun k => tracedCore s (cl * 16 + k)

def kindIn (p : Option TraceParams) (b : Nat) : Bool := (p.map fun q => q.kinds.getLsbD b).getD false
def kindOn (s : State) (cl b : Nat) : Bool := kindIn (sessionAt s cl) b
def inclIn (p : Option TraceParams) : Bool := (p.map (·.incl)).getD false

/-- A record attributed to a secure or privileged context is dropped without a trace unless the session runs with INCL
(R154). -/
def hiddenBy (s : State) (cl : Nat) (t : Option Tags) : Bool :=
  match t with
  | none => false
  | some g => (g.secure || g.priv) && !inclIn (sessionAt s cl)

def gateOf (s : State) (u : Nat × Nat) : Bool := ((coreOf s u.1).map fun co => (engOf co u.2).gate).getD false

/-- A record of command or program trace is written: traced, gate open, kind enabled, not hidden. -/
def kindTraced (s : State) (c e b : Nat) (t : Option Tags) : Bool :=
  traced s c e && kindOn s (clusterOf c) b && !hiddenBy s (clusterOf c) t && gateOf s (c, e)

/-- A record of data trace is written: the core is traced, and the gate of the engine selected, where that one is traced, is
open (R151). -/
def dataTraced (s : State) (c e : Nat) (t : Option Tags) : Bool :=
  tracedCore s c && kindOn s (clusterOf c) 2 && !hiddenBy s (clusterOf c) t && (!traced s c e || gateOf s (c, e))

/-! ## The leaf's events in merge order (R165, R194) -/

/-- The order at one stamp: a change of session or block applies to events from its stamp on (R152, R176, R206), and a local
event goes before a cross-trigger pulse (R194). -/
def eventRank : LeafEvent → Nat
  | .session _ => 0 | .load _ => 0
  | .word _ _ => 1 | .gen _ _ _ _ => 1
  | .pulse _ _ _ => 2

/-- An event goes before a waiting one. -/
def goesBefore (x a : GT × LeafEvent) : Bool :=
  decide (x.1 < a.1) || (decide (x.1 = a.1) && decide (eventRank x.2 < eventRank a.2))

/-- Put a stamped event in a leaf's list; else equal stamps keep their order. -/
def insertEvent (x : GT × LeafEvent) : List (GT × LeafEvent) → List (GT × LeafEvent)
  | [] => [x]
  | a :: l => if goesBefore x a then x :: a :: l else a :: insertEvent x l

def addEvent (cl : Nat) (g : GT) (e : LeafEvent) (s : State) : State :=
  modLeaf cl (fun l => { l with events := insertEvent (g, e) l.events }) s

/-! ## Records (Tables 05.3, 05.4) -/

/-- Word 0 of a record with DELTA zero. -/
def recW0 (type tflags : Nat) (disc : Bool) (gen : BitVec 8) (unit : BitVec 16) (tfield : Nat) : Word :=
  pk [(48, 16, tfield), (40, 8, gen.toNat), (24, 16, unit.toNat), (5, 3, tflags), (4, 1, b2n disc), (0, 4, type)]

def withDelta (w0 : Word) (d : Nat) : Word := w0 ||| BitVec.ofNat 64 ((d % 65536) <<< 8)
def clearDelta (w0 : Word) : Word := w0 &&& ~~~ (0xFFFF00#64)
def recType (w0 : Word) : Nat := bits w0 3 0

def partGen (s : State) (p : Nat) : BitVec 8 := s.gens.part.getD p 0
def clusterAddr (cl : Nat) : BitVec 16 := BitVec.ofNat 16 (cl * 128)

/-- A FULL_STAMP record. -/
def fullStampRec (s : State) (cl reason : Nat) (stamp : GT) : List Word :=
  [recW0 1 reason false (partGen s (partOfCluster cl)) (clusterAddr cl) (timeStateCode s.time.state), wn stamp]

/-- A LOST record. -/
def lostRec (source : Nat) (unit : BitVec 16) (l : Lost) : List Word :=
  [recW0 8 source false 0 unit l.kinds, wn l.first, wn l.last, wn (satN 32 l.count)]

/-- The kind bit of a record type in a LOST record (Table 05.4). -/
def lostKind (type : Nat) : Nat :=
  if type = 2 ∨ type = 3 then 1 else if type = 4 ∨ type = 5 then 2 else if type = 6 then 4 else 8

/-! ## The merge (R162, R165, R168) -/

/-- Insert by stamp, after records of the same stamp. -/
def insertRec (r : TRec) : List TRec → List TRec
  | [] => [r]
  | a :: l => if r.stamp < a.stamp then r :: a :: l else a :: insertRec r l

/-- Put a record in a leaf's merge. -/
def traceEmit (cl : Nat) (r : TRec) (s : State) : State :=
  modLeaf cl (fun l => { l with stream := { l.stream with merge := insertRec r l.stream.merge } }) s

/-- The earliest stamp of the last words of the links that still run (R165). -/
def mergeBound (s : State) (cl : Nat) : Option GT :=
  let cs := (s.cores.filter fun p => decide (clusterOf p.1 = cl))
  let links := (cs.filter fun p => p.2.quietStamp.isNone && !p.2.clockStopped).map fun p => p.2.lastStamp
  let opens := cs.flatMap fun p => p.2.engs.filterMap fun en => en.prog.map (·.stamp)
  match links ++ opens with
  | [] => none
  | a :: l => some (l.foldl min a)

def outBytes (st : Stream) : Nat := (st.out.map fun r => 8 * r.length).foldl (· + ·) 0

def recBytes (r : TRec) : Nat := 8 * (1 + r.rest.length)

/-- The reason of the FULL_STAMP that must precede a chain record, if any (R162). -/
def fullReason (l : Leaf) (r : TRec) : Option Nat :=
  if !r.chain then none
  else if l.stream.lost.isSome then some 3
  else if l.stream.startDue.any (fun g => decide (g ≤ r.stamp)) then some 0
  else match l.fullDue with
    | some n => some n
    | none =>
      if l.stream.running + 65535 < r.stamp then some 1
      else if 4095 ≤ l.stream.sinceFull then some 2 else none

/-- The engines whose target is known once record `r` is written, after a FULL_STAMP where one goes before (R164 step 4). -/
def knownAfter (full : Bool) (r : TRec) (known : List Nat) : List Nat :=
  let k := if full then [] else known
  if recType r.w0 = 5 then bits r.w0 39 24 :: k else k

/-- Write one record to the output buffer, or drop it into the pending LOST (R162, R168). -/
def writeOne (cl : Nat) (r : TRec) (s : State) : State :=
  match tget cl s.leaves with
  | none => s
  | some l =>
    let st := l.stream
    let stamp := max r.stamp st.running
    let r := { r with stamp := stamp }
    let reason := fullReason l r
    let need := recBytes r + (if reason.isSome && st.lost.isNone then 16 else 0)
    if 15872 < outBytes st + need then
      let lost := match st.lost with
        | none => { first := stamp, last := stamp, count := 1, kinds := lostKind (recType r.w0) }
        | some x => { x with last := stamp, count := x.count + 1, kinds := x.kinds ||| lostKind (recType r.w0) }
      modLeaf cl (fun l => { l with stream := { l.stream with lost := some lost } }) s
    else
      let pre := match st.lost with
        | none => []
        | some x => [lostRec 1 (clusterAddr cl) x]
      let full := match reason with
        | none => []
        | some n => [fullStampRec s cl n stamp]
      let delta := if reason.isSome || !r.chain then 0 else stamp - st.running
      let out := st.out ++ pre ++ full ++ [withDelta r.w0 delta :: r.rest]
      let isLost := decide (recType r.w0 = 8)
      modLeaf cl (fun l => { l with
        fullDue := if isLost then some 3 else if r.chain then none else (if st.lost.isSome then some 3 else l.fullDue)
        stream := { l.stream with
          out := out, lost := none
          known := knownAfter reason.isSome r l.stream.known
          startDue := if reason.isSome then l.stream.startDue.filter (fun g => decide (stamp < g)) else l.stream.startDue
          running := if r.chain then stamp else l.stream.running
          sinceFull := if !r.chain then l.stream.sinceFull else if reason.isSome then 1 else l.stream.sinceFull + 1
          lastFull := if reason.isSome then stamp else l.stream.lastFull } }) s

/-- The record of one program entry alone: a PROG, or the PROG_FULL of its transfer. -/
def progAlone (w0 : Word) (disc full : Bool) (e : ProgEntry) : TRec :=
  let head := (w0 &&& ~~~(0x3F#64)) ||| pk [(4, 1, b2n disc)]
  if full then { stamp := e.stamp, chain := true, w0 := head ||| 5, entries := [e]
                 rest := [pk [(40, 16, e.count), (0, 24, (e.tgt.getD 0).toNat)]] }
  else { stamp := e.stamp, chain := true, w0 := head ||| 4, rest := [e.word.setWidth 64], entries := [e] }

/-- A record holds a transfer whose engine's target no record since the last FULL_STAMP gives. -/
def needsFull (l : Leaf) (r : TRec) : Bool :=
  decide (recType r.w0 = 4) && r.entries.any (fun e => e.tgt.isSome) &&
    ((fullReason l r).isSome || !decide (bits r.w0 39 24 ∈ l.stream.known))

/-- Write one record of the merge. A PROG whose transfer would be the first after a FULL_STAMP is written entry by entry, that
transfer as a PROG_FULL (R164 step 4; log entry 92). -/
def writeRec (cl : Nat) (r : TRec) (s : State) : State :=
  match tget cl s.leaves with
  | none => s
  | some l =>
    if !needsFull l r then writeOne cl r s
    else (r.entries.zipIdx).foldl (fun s p =>
      let l := (tget cl s.leaves).getD {}
      let one := progAlone r.w0 (bit r.w0 4 && decide (p.2 = 0)) false p.1
      writeOne cl (if needsFull l one then progAlone r.w0 (bit r.w0 4 && decide (p.2 = 0)) true p.1 else one) s) s

/-- Write every record of the merge that the bound allows, `n` at most. -/
def flushN : Nat → Option GT → Nat → State → State
  | 0, _, _, s => s
  | n + 1, bound, cl, s =>
    match (tget cl s.leaves).map (·.stream.merge) with
    | some (r :: rest) =>
      if (bound.all fun b => decide (r.stamp ≤ b)) then
        flushN n bound cl (writeRec cl r
          (modLeaf cl (fun l => { l with stream := { l.stream with merge := rest } }) s))
      else s
    | _ => s

def traceFlush (cl : Nat) (s : State) : State :=
  flushN (((tget cl s.leaves).map fun l => l.stream.merge.length).getD 0) (mergeBound s cl) cl s

/-! ## Records of the leaf -/

/-- Take the mark that a valid interpolator which had lost beats sets on the leaf's next record (R49). -/
def takeLost (cl : Nat) (s : State) : Bool × State :=
  let i := ((tget cl s.leaves).map (·.interp)).getD {}
  if i.lost && interpValid i then (true, modLeaf cl (fun l => { l with interp := { l.interp with lost := false } }) s)
  else (false, s)

/-- Take the discontinuity mark that is due on an engine's or a core's next record (Table 02.4, R49). -/
def takeDisc (c : Nat) (e : Option Nat) (s : State) : Bool × State :=
  match coreOf s c with
  | none => (false, s)
  | some co =>
    let d := co.disc || (match e with | some k => (engOf co k).disc | none => false)
    let x := takeLost (clusterOf c) (modCore c (fun x => { x with
      disc := false
      engs := match e with | some k => x.engs.modify k (fun en => { en with disc := false }) | none => x.engs }) s)
    (d || x.1, x.2)

def ctxField (t : Option Tags) : Nat := (t.map (·.ctx.toNat)).getD 0xFFFF

/-- Emit a chain record of an engine, with the program entries it carries. -/
def emitProg (c e type tflags tfield : Nat) (stamp : GT) (rest : List Word) (entries : List ProgEntry) (s : State) : State :=
  let gen := ((coreOf s c).map fun co => (engOf co e).gen).getD 0
  let d := takeDisc c (some e) s
  traceEmit (clusterOf c) { stamp := stamp, chain := true, rest := rest, entries := entries
                            w0 := recW0 type tflags d.1 gen (engAddr c e) tfield } d.2

def emitEng (c e type tflags tfield : Nat) (stamp : GT) (rest : List Word) (s : State) : State :=
  emitProg c e type tflags tfield stamp rest [] s

/-- Emit a chain record of a core. -/
def emitCore (c type tflags tfield : Nat) (stamp : GT) (rest : List Word) (s : State) : State :=
  let gen := ((coreOf s c).map (·.gen)).getD 0
  let d := takeDisc c none s
  traceEmit (clusterOf c) { stamp := stamp, chain := true, w0 := recW0 type tflags d.1 gen (coreAddr c) tfield, rest := rest } d.2

/-! ## Program compression (R163, R164) -/

/-- The stamp of the last FULL_STAMP once the given records (stamp, in the chain) have been written, from the running stamp,
the chain records since the last FULL_STAMP, whether one is due at once, the instant from which the session's start calls for
one, and its stamp (R162). -/
def fullAfter : List TRec → GT → Nat → Bool → Option GT → GT → GT
  | [], _, _, _, _, last => last
  | r :: l, run, since, due, start, last =>
    let g := max r.stamp run
    if !r.chain then fullAfter l run since true start last
    else if due || start.any (fun t => decide (t ≤ g)) || decide (run + 65535 < g) || decide (4095 ≤ since) then
      fullAfter l g 1 false (start.filter fun t => decide (g < t)) g
    else fullAfter l g (since + 1) false start last

/-- The stamp of the stream's last FULL_STAMP when engine `e` of core `c` writes a record stamped `g`: the records that wait
for the merge, the open PROG records and that record go before (R164 step 4). -/
def lastFullBy (c e : Nat) (g : GT) (s : State) : GT :=
  let cl := clusterOf c
  match tget cl s.leaves with
  | none => 0
  | some l =>
    let mk := fun (t : GT) => ({ stamp := t, chain := true, w0 := 0, rest := [] } : TRec)
    let opens := (s.cores.filter fun p => decide (clusterOf p.1 = cl)).flatMap fun p =>
      (p.2.engs.zipIdx.filter fun q => decide ((p.1, q.2) ≠ (c, e))).filterMap fun q => q.1.prog.bind fun o =>
        if o.secret then none else some (mk o.stamp)
    let rs := insertRec (mk g) ((opens.foldl (fun m r => insertRec r m) l.stream.merge).filter fun r => decide (r.stamp ≤ g))
    fullAfter rs l.stream.running l.stream.sinceFull (l.fullDue.isSome || l.stream.lost.isSome) l.stream.startDue
      l.stream.lastFull

/-- Close an engine's PROG record: it carries the stamp of its last entry. -/
def closeProg (c e : Nat) (second : Option ProgEntry) (s : State) : State :=
  match (coreOf s c).bind fun co => (engOf co e).prog with
  | none => s
  | some p =>
    let s := modEng c e (fun en => { en with prog := none }) s
    if p.secret then s else
    emitProg c e 4 (b2n second.isSome) p.ctx.toNat p.stamp [((second.map (·.word)).getD 0) ++ p.entry0.word]
      (p.entry0 :: second.toList) s

/-- Add an entry to the engine's PROG record; the second entry closes it. A record that a FULL_STAMP would overtake is closed
first. -/
def addEntry (c e : Nat) (x : ProgEntry) (t : Option Tags) (s : State) : State :=
  let hidden := hiddenBy s (clusterOf c) t
  let start := fun (s : State) => modEng c e (fun en => { en with prog := some {
    entry0 := x, ctx := BitVec.ofNat 16 (ctxField t), secret := hidden, stamp := x.stamp, first := x.stamp } }) s
  match (coreOf s c).bind fun co => (engOf co e).prog with
  | none => start s
  | some p =>
    if p.ctx.toNat = ctxField t ∧ p.secret = hidden ∧ lastFullBy c e x.stamp s ≤ p.stamp then
      closeProg c e (some x) (modEng c e (fun en => { en with prog := some { p with stamp := x.stamp } }) s)
    else start (closeProg c e none s)

/-- The leaf takes a program word of a traced engine (R164). A transfer that brings the count above 2,047 is a PROG_FULL, whose
ICOUNT holds it (log entry 92). -/
def progWord (c e : Nat) (ret : Nat) (br : Bool) (tgt : BitVec 24) (t : Option Tags) (stamp : GT) (s : State) : State :=
  match coreOf s c with
  | none => s
  | some co =>
    let en := engOf co e
    let full := !br && decide (2047 < en.progCount + ret)
    let s := if full then
        addEntry c e { word := BitVec.ofNat 32 (en.progCount * 2 ^ 20), count := en.progCount, stamp := stamp } t s
      else s
    let n := if full then ret else en.progCount + ret
    if !br then modEng c e (fun x => { x with progCount := n }) s
    else
      let diff : Int := toSigned 24 (tgt - en.prevTgt.getD 0).toNat
      let known := en.prevTgt.isSome && decide (lastFullBy c e stamp s ≤ en.tgtAt)
      let fits := known && decide (-(2 ^ 19) ≤ diff ∧ diff < 2 ^ 19) && decide (n ≤ 2047)
      let x : ProgEntry :=
        { word := BitVec.ofNat 32 (2 ^ 31 + n * 2 ^ 20 + sgn 20 diff), count := n, tgt := some tgt, stamp := stamp }
      let s := if fits then addEntry c e x t s
        else
          let s := closeProg c e none s
          if hiddenBy s (clusterOf c) t then s
          else emitProg c e 5 0 (ctxField t) stamp [pk [(40, 16, n), (0, 24, tgt.toNat)]] [x] s
      modEng c e (fun x => { x with progCount := 0, prevTgt := some tgt, tgtAt := stamp }) s

/-- PROG_RECORD_TIMEOUT: 64 observation cycles after its first entry a PROG record is closed with one entry (R164). -/
def execProgRecordTimeout (core : CoreIx) (eng : EngIx) (cyc : Nat) (s : State) : Host.Outcome State Fault Refusal :=
  let cl := clusterOf core.toNat
  .next (match (coreOf s core.toNat).bind fun co => (engOf co eng.toNat).prog with
    | none => s
    | some p =>
      if leafValid s cl && decide (p.first + 64 * (((tget cl s.leaves).map (·.interp.inc)).getD 0) / 65536 ≤ leafGt s cl cyc) then
        traceFlush cl (closeProg core.toNat eng.toNat none s)
      else s)

/-! ## Gates and state records (R151, R159) -/

/-- Open or close an engine's trace gate; opening makes its previous target unknown (R164). -/
def setGate (c e : Nat) (open_ : Bool) (s : State) : State :=
  modEng c e (fun en => { en with gate := open_, prevTgt := if open_ && !en.gate then none else en.prevTgt }) s

/-- Emit a STATE record stamped `stamp`. -/
def emitState (c : Nat) (e : Option Nat) (cause old new : Nat) (t stamp : GT) (s : State) : State :=
  let f := cause * 256 + old * 16 + new
  match e with
  | some k => if traced s c k then emitEng c k 13 0 f stamp [wn t] (closeProg c k none s) else s
  | none => if tracedCore s c then emitCore c 13 1 f stamp [wn t] s else s

/-- Emit a chain record of a leaf's own cluster. -/
def emitCluster (cl type tflags tfield : Nat) (stamp : GT) (rest : List Word) (s : State) : State :=
  let d := takeLost cl s
  traceEmit cl { stamp := stamp, chain := true, rest := rest
                 w0 := recW0 type tflags d.1 (partGen s (partOfCluster cl)) (clusterAddr cl) tfield } d.2

/-- A core lies between its QUIET and its WAKE: the stream holds nothing for it (R177). -/
def betweenQuiet (s : State) (c : Nat) : Bool :=
  ((coreOf s c).map fun co => decide (co.st = .quiet) || co.quietDone).getD true

/-- The GEN record of an advance: `domain` 0 engine, 1 core, 2 partition, 3 chip compute (R159). -/
def emitGen (cl : Nat) (unit : BitVec 16) (domain rung : Nat) (old : BitVec 8) (stamp : GT) (s : State) : State :=
  let c := unit.toNat / 8
  let e := unit.toNat % 8
  let put := fun (d : Bool) (s : State) =>
    traceEmit cl { stamp := stamp, chain := true, w0 := recW0 12 domain d (old + 1) unit old.toNat, rest := [wn rung] } s
  if domain = 0 then
    if traced s c e && !betweenQuiet s c then (let x := takeDisc c (some e) (closeProg c e none s); put x.1 x.2) else s
  else if domain = 1 then
    if tracedCore s c && !betweenQuiet s c then (let x := takeDisc c none s; put x.1 x.2) else s
  else if tracedCluster s cl then (let x := takeLost cl s; put x.1 x.2) else s

/-! ## The milk run (R166) -/

/-- The records one beat of 32 bytes carries: one of 32 bytes, or up to two of 16. -/
def beatOf : List (List Word) → List (List Word) × List (List Word)
  | [] => ([], [])
  | [a] => ([a], [])
  | a :: b :: l => if a.length = 2 ∧ b.length = 2 then ([a, b], l) else ([a], b :: l)

/-- MILK_RUN_BEAT: the partition's milk run serves its next leaf that has records waiting. -/
def execMilkRunBeat (part : PartIx) (s : State) : Host.Outcome State Fault Refusal :=
  let p := part.toNat
  let start := s.trace.milkNext.getD p 0
  let order := (List.range 64).map fun k => p * 64 + (start + k) % 64
  .next (if !serving s then s else
    match order.find? fun cl => ((tget cl s.leaves).map fun l => !l.stream.out.isEmpty).getD false with
    | none => s
    | some cl =>
      let b := beatOf (((tget cl s.leaves).map (·.stream.out)).getD [])
      let s := modLeaf cl (fun l => { l with stream := { l.stream with out := b.2 } }) s
      { s with trace := { s.trace with
        hubQ := s.trace.hubQ ++ b.1.map fun r => (cl, r)
        milkNext := s.trace.milkNext.set p ((cl + 1) % 64) } })

/-! ## Sinks (R169 to R174) -/

def sinkOf (s : State) : Nat := (s.trace.cfg.map (·.sink.toNat)).getD 0

/-- Bytes of the record area of the on-chip buffer. -/
def onchipArea (s : State) : Nat := s.trace.capacity - 4096

/-- Word 3 of the sink control block (Table 05.6). -/
def sinkWord3 (s : State) : Word :=
  pk [(40, 4, s.trace.startState.toNat), (24, 16, (chipOf s).toNat), (16, 8, 1), (8, 8, 4), (0, 8, 3)]

/-- The on-chip control block kept up to date. -/
def writeHeader (s : State) : State :=
  { s with trace := { s.trace with
    buf := memWriteWords 0 [wn s.trace.write, wn s.trace.read, s.trace.dropped, sinkWord3 s, wn s.trace.start]
      s.trace.buf } }

/-- Bytes staged for a HOST sink. -/
def stagedBytes (s : State) : Nat := (s.trace.staged.map fun r => 8 * r.length).foldl (· + ·) 0

/-- A record of `n` bytes finds space outside the reserve, or with `reserve` inside it (R169, R172). -/
def sinkRoom (s : State) (n : Nat) (reserve : Bool) : Bool :=
  let keep := if reserve then 0 else 32768
  if sinkOf s = 0 then
    let off := s.trace.write % 4096
    decide (s.trace.write + (if off + n > 4096 then 4096 - off else 0) + n + keep ≤ onchipArea s)
  else if sinkOf s = 1 then true
  else decide (stagedBytes s + n + keep ≤ onchipArea s)

/-- Write 16-byte units at the on-chip write offset; entering a block that holds older records advances READ past it. -/
def onchipPut (r : List Word) (s : State) : State :=
  let a := onchipArea s
  let off := s.trace.write
  let n := 8 * r.length
  let pad := if off % 4096 + n > 4096 then 4096 - off % 4096 else 0
  let put := fun (off : Nat) (ws : List Word) (m : Mem) => memWriteWords (4096 + off) ws m
  let m := put off (List.replicate (pad / 8) 0) s.trace.buf
  let off := (off + pad) % a
  let wrapped := s.trace.wrapped || decide (s.trace.write + pad ≥ a)
  let read := if wrapped && decide (off % 4096 = 0) then (off + 4096) % a else s.trace.read
  let next := off + n
  { s with trace := { s.trace with
    buf := put off r m, write := if sinkOf s = 1 then next % a else next
    wrapped := wrapped || decide (sinkOf s = 1 ∧ next ≥ a)
    read := if sinkOf s = 1 then read else s.trace.read } }

/-- Put a record in the sink. -/
def sinkPut (r : List Word) (s : State) : State :=
  if sinkOf s = 2 then { s with trace := { s.trace with staged := s.trace.staged ++ [r] } }
  else writeHeader (onchipPut r s)

def hubStream (s : State) (cl : Nat) : HubStream := (tget cl s.trace.streams).getD {}
def setStream (cl : Nat) (h : HubStream) (s : State) : State :=
  { s with trace := { s.trace with streams := tset cl h s.trace.streams } }

/-- A chain type (Table 05.2). -/
def inChain (type : Nat) : Bool := decide (2 ≤ type ∧ type ≤ 13 ∧ type ≠ 8)

/-- Take one record that reached the hub into the sink, or drop it (R169). -/
def sinkTake (cl : Nat) (r : List Word) (s : State) : State :=
  let h := hubStream s cl
  let w0 := r.headD 0
  let ty := recType w0
  let running := if ty = 1 then (r.getD 1 0).toNat else if inChain ty then h.running + bits w0 23 8 else h.running
  if !sinkRoom s (8 * r.length) false then
    let lost := match h.lost with
      | none => { first := running, last := running, count := 1, kinds := lostKind ty }
      | some x => { x with last := running, count := x.count + 1, kinds := x.kinds ||| lostKind ty }
    let s := setStream cl { h with running := running, lost := some lost } s
    writeHeader { s with trace := { s.trace with dropped := satInc s.trace.dropped } }
  else if h.lost.isSome || h.resync then
    let s := match h.lost with
      | none => s
      | some x => sinkPut (lostRec 2 (clusterAddr cl) x) s
    let s := sinkPut (fullStampRec s cl 5 running) s
    setStream cl { running := running } (sinkPut (clearDelta w0 :: r.drop 1) s)
  else setStream cl { h with running := running } (sinkPut r s)

/-! ### The host ring (R171, R173, R174) -/

def ringAreaT (p : TraceParams) : Nat := 2 ^ p.ringLog2.toNat - 64

/-- Where the next staged records go: (offset, words) with PAD up to the end where one would cross it; stops when the space
the host has released is used up. -/
def layRing : List (List Word) → Nat → Nat → Nat → List (Nat × List Word) × Nat × Nat
  | [], _, off, _ => ([], off, 0)
  | r :: l, area, from_, free =>
    let n := 8 * r.length
    let off := if from_ = area then 0 else from_
    let pad := if area < off + n then area - off else 0
    if free < pad + n + 16 then ([], off, 0)
    else
      let start := if pad = 0 then off else 0
      let rest := layRing l area (start + n) (free - pad - n)
      let pads := if pad = 0 then [] else [(off, List.replicate (pad / 8) 0)]
      (pads ++ (start, r) :: rest.1, rest.2.1, rest.2.2 + 1)

/-- The control block of a host ring but READ, which the host writes (Table 05.6). -/
def writeSinkControl (s : State) : State :=
  match s.trace.cfg with
  | none => s
  | some p =>
    hmAsk { purpose := .traceControl, cls := .trace, wr := true, addr := p.ringBase, bytes := 64
            data := [wn s.trace.write, 0, s.trace.dropped, sinkWord3 s, wn s.trace.start, 0, 0, 0], be := some 0xFFFFFFFFFFFF00FF }
      { s with trace := { s.trace with ctlDue := false } }

/-- WRITE and DROPPED of the ring. -/
def writePointer (off : Nat) (s : State) : State :=
  match s.trace.cfg with
  | none => s
  | some p =>
    hmAsk { purpose := .tracePointer, cls := .trace, wr := true, addr := p.ringBase, bytes := 24
            data := [wn off, 0, s.trace.dropped], be := some 0xFF00FF } s

/-- Start writing staged records to the ring, when none is under way and no fault stands; not in basic service, which leaves
them in staging (R176). -/
def ringPump (s : State) : State :=
  match s.trace.cfg with
  | none => s
  | some p =>
    if sinkOf s ≠ 2 ∨ s.trace.fault.isSome ∨ 0 < s.trace.sending ∨ s.trace.publish.isSome ∨ s.trace.staged = [] ∨
        basic s = true then s
    else
      let a := ringAreaT p
      let free := if s.trace.read = s.trace.write then a else (s.trace.read + a - s.trace.write) % a
      let lay := layRing (s.trace.staged.take 64) a s.trace.write free
      if lay.2.2 = 0 then s
      else
        let s := { s with trace := { s.trace with
          sending := lay.2.2, unanswered := lay.1.length, publish := some (lay.2.1 % a) } }
        lay.1.foldl (fun s q => hmAsk {
          purpose := .traceData, cls := .trace, wr := true, addr := p.ringBase + wn (64 + q.1)
          bytes := 8 * q.2.length, data := q.2 } s) s

/-! ### The end of a session (R169, R176) -/

/-- Every leaf has written what it had and stopped, and all of it has reached the sink. -/
def streamsEnded (s : State) : Bool :=
  s.trace.hubQ.isEmpty && s.leaves.all fun q => q.2.session.isNone && q.2.stream.out.isEmpty

/-- A HOST session that ends in basic service leaves what is staged in the on-chip buffer, laid out as that of R170. -/
def leaveStaged (s : State) : State :=
  let records := s.trace.staged
  let s := { s with trace := { s.trace with
    write := 0, read := 0, wrapped := false, staged := [], sending := 0, unanswered := 0, publish := none } }
  writeHeader (records.foldl (fun s r => onchipPut r s) s)

/-- The session is over: the TRACE_CONFIG that waits returns OK. -/
def traceOver (s : State) : State :=
  let via := s.trace.ending
  let s := { s with trace := { s.trace with stopping := false, ending := none } }
  match via with
  | none => s
  | some v => respond v rOk [] s

/-- A session runs, or its last records are still on their way to the sink. -/
def sessionRuns (s : State) : Bool := s.trace.enabled || s.trace.stopping

/-- The records of the on-chip buffer are another principal's than `who` (R153; log entry 93). -/
def recordsOf (s : State) (who : Option Principal) : Bool := s.trace.owner.isSome && decide (who ≠ s.trace.owner)

/-- A session that has ended goes on to its end: every pending LOST, then WRITE. -/
def traceFinish (s : State) : State :=
  if s.trace.stopping && streamsEnded s then
    let s := s.trace.streams.foldl (fun s q => match q.2.lost with
      | none => s
      | some x => sinkPut (lostRec 2 (clusterAddr q.1) x) s) s
    let s := { s with trace := { s.trace with streams := [] } }
    if sinkOf s ≠ 2 then traceOver (writeHeader s)
    else if basic s then traceOver (leaveStaged s)
    else
      let s := ringPump s
      if s.trace.staged = [] ∧ s.trace.sending = 0 ∧ s.trace.publish.isNone then traceOver s else s
  else s

/-- A write of the trace ring is answered OK: WRITE follows the last of a batch (R173, R591). -/
def traceWritten (p : Purpose) (s : State) : State :=
  match p with
  | .traceData =>
    let s := { s with trace := { s.trace with unanswered := s.trace.unanswered - 1 } }
    if s.trace.unanswered = 0 then
      match s.trace.publish with
      | none => s
      | some off => writePointer off
          { s with trace := { s.trace with staged := s.trace.staged.drop s.trace.sending, sending := 0, write := off } }
    else s
  | .tracePointer => traceFinish (ringPump { s with trace := { s.trace with publish := none } })
  | _ => s

/-- A write of the trace ring met a fault: writing stops, staging goes on (R174). What the write was to bring, the records, WRITE
or the control block, stays due. -/
def traceFaulted (p : Purpose) (addr : Word) (s : State) : State :=
  let s := if p = .traceControl then { s with trace := { s.trace with ctlDue := true } } else s
  if s.trace.fault.isSome then s else
  let s := hmCancel (fun p => decide (p = .traceData) || decide (p = .tracePointer)) s
  let pointer := decide (s.trace.sending = 0 ∧ s.trace.unanswered = 0)
  raiseEvent 0x0133 1 [addr] {} 0
    { s with trace := { s.trace with
      fault := some addr, sending := 0, unanswered := 0, publish := if pointer then s.trace.publish else none } }

/-- FAULT_RETRY naming the trace sink. -/
def traceRetry (s : State) : State :=
  let s := { s with trace := { s.trace with fault := none } }
  let s := if s.trace.ctlDue then writeSinkControl s else s
  match s.trace.publish with
  | some off => writePointer off s
  | none => ringPump s

/-- TRACE_SINK_WRITE: the oldest record that reached the hub goes to the sink; with none left a session that has ended goes on to
its end. -/
def execTraceSinkWrite (s : State) : Host.Outcome State Fault Refusal :=
  .next (if !serving s then s else
    match s.trace.hubQ with
    | [] => traceFinish (ringPump s)
    | (cl, r) :: l => traceFinish (ringPump (sinkTake cl r { s with trace := { s.trace with hubQ := l } })))

/-- TRACE_READ_POLL: the hub reads READ of the host ring while records are staged (R173). -/
def execTraceReadPoll (read : Word) (s : State) : Host.Outcome State Fault Refusal :=
  .next (if serving s && sessionRuns s && decide (sinkOf s = 2) && readFits s then
    traceFinish (ringPump { readMetered s with trace := { s.trace with read := read.toNat } }) else s)

/-! ## Sessions (R152, R155, R170, R175, R176) -/

/-- Any full set is enabled on the chip (R170). -/
def anyFull (s : State) : Bool := s.cores.any fun p => p.2.engs.any (·.fullEn)

/-- DSEL of the cluster's leaf block last loaded (R184). -/
def blockSel (s : State) (c : Nat) (d : BitVec 3) : BitVec 3 :=
  ((tget (clusterOf c) s.leaves).map fun l => l.trig.newest.dsel).getD d

/-- `ts_da_sel` of every core as the session asks, of one that has left its set as the leaf block does (R184). -/
def selectData (old p : Option TraceParams) (s : State) : State :=
  let names := fun (q : Option TraceParams) (c : Nat) (co : Core) => (enginesOf co).any (sessionNames s q c)
  let sel := fun (c : Nat) (co : Core) =>
    if names p c co then (p.map (·.dsel)).getD co.daSel else if names old c co then blockSel s c co.daSel else co.daSel
  { s with cores := tmap (fun c co => { co with daSel := sel c co }) s.cores }

/-- The engines of a cluster. -/
def clusterEngines (s : State) (cl : Nat) : List (Nat × Nat) :=
  (s.cores.filter fun p => decide (clusterOf p.1 = cl)).flatMap fun p => (enginesOf p.2).map fun e => (p.1, e)

/-- An engine as the leaf goes on under a session: its gate as GATE gives, its program stream without a break where it stays
traced. -/
def underSession (was on open_ : Bool) (en : Engine) : Engine :=
  { en with
    gate := on && open_, prevTgt := if was && on && en.gate then en.prevTgt else none
    progCount := if was && on then en.progCount else 0, prog := if on then en.prog else none }

/-- The leaf writes all it holds, its pending LOST last, and stops (R176). -/
def stopStream (cl : Nat) (s : State) : State :=
  let s := flushN (((tget cl s.leaves).map fun l => l.stream.merge.length).getD 0) none cl s
  modLeaf cl (fun l => { l with
    session := none, fullDue := none
    stream := { out := l.stream.out ++ (match l.stream.lost with
      | none => []
      | some x => [lostRec 1 (clusterAddr cl) x]) } }) s

/-- The leaf's merge reaches the instant `g` at which a session starts, is replaced or ends: every record before it is
written under the session before (R152, R162, R176). -/
def takeSession (cl : Nat) (p : Option TraceParams) (g : GT) (s : State) : State :=
  let old := sessionAt s cl
  let s := (clusterEngines s cl).foldl (fun s u =>
    if sessionNames s p u.1 u.2 then s else closeProg u.1 u.2 none s) s
  let open_ := (p.map fun x => !x.gate).getD false
  let go := fun (c : Nat) (q : Engine × Nat) =>
    underSession (sessionNames s old c q.2) (sessionNames s p c q.2) open_ q.1
  let s := { s with cores := tmap (fun c co =>
    if clusterOf c ≠ cl then co else { co with engs := co.engs.zipIdx.map (go c) }) s.cores }
  match p with
  | none => stopStream cl s
  | some _ => modLeaf cl (fun l => { l with
      session := p
      stream := if old.isNone then { out := l.stream.out, startDue := some g } else { l.stream with startDue := some g } }) s

/-- A new session starts. -/
def startSession (via : Via) (p : TraceParams) (s : State) : State :=
  let cap := if anyFull s then 5767168 else 8388608
  let s := { s with
    trace := {
      enabled := true, cfg := some p, owner := whoOf s via, mailbox := !isNarrow via, start := hubGt s
      startState := BitVec.ofNat 4 (timeStateCode s.time.state), capacity := cap, milkNext := s.trace.milkNext } }
  if p.sink = 2 then writeSinkControl s else writeHeader s

/-- Where a truncated on-chip buffer of area `lim` goes on. ONCHIP_STOP keeps its reserve (log entry 91); ONCHIP_WRAP that stood
beyond the new end starts again at offset 0. -/
def cutBack (lim : Nat) (t : Trace) : Trace :=
  if (t.cfg.map (·.sink)) = some 1 then
    let gone := decide (lim ≤ t.write)
    { t with
      write := if gone then 0 else t.write, wrapped := t.wrapped || gone
      read := if gone || decide (lim ≤ t.read) then 0 else t.read }
  else { t with write := min t.write (lim - 32768) }

/-- The 16-byte units that truncation discards. -/
def unitsGone (lim : Nat) (t : Trace) : Nat :=
  if (t.cfg.map (·.sink)) = some 1 then
    (if t.wrapped then (t.capacity - 4096 - lim) / 16 else (t.write - lim) / 16)
  else (t.write - (lim - 32768)) / 16

/-- TRACE_TRUNCATE (R175). -/
def truncateTrace (s : State) : State :=
  if s.trace.enabled && decide (s.trace.capacity = 8388608) && !anyFull s then
    if sinkOf s = 2 then ringPump { s with trace := { s.trace with capacity := 5767168 } }
    else
      let lim := 5767168 - 4096
      let l : Lost := { first := s.trace.start, last := hubGt s, count := unitsGone lim s.trace, kinds := 15 }
      let s := sinkPut (lostRec 3 0 l) { s with trace := { cutBack lim s.trace with
        capacity := 5767168, buf := s.trace.buf.filter fun q => decide (q.1 < 5767168) } }
      { s with trace := { s.trace with streams := tmap (fun _ h => { h with resync := true }) s.trace.streams } }
  else s

def traceRangeBad (s : State) (p : TraceParams) : Bool :=
  setBadArg s p.addr p.mask 0 || decide (p.kinds = 0) || decide (p.sink = 3) ||
    (decide (p.sink = 2) && (decide (p.ringBase.toNat % 4096 ≠ 0) || decide (p.ringLog2.toNat < 16 ∨ 32 < p.ringLog2.toNat)))

end Sys2Proof.Machine
end

