-- ==== Sys2Proof/Machine/Errors.lean ====
section
/-!
DEFINITION. Errors at the leaves and at the hub's intake: coalescing, autofence counting, storm mode and the log (chapter 11).
-/
namespace Sys2Proof.Machine

/-! ## Records -/

def errClass (r : ErrRec) : Nat := bits r.w1 59 58

/-- A record of a shim's or leaf's source (Table 11.3). -/
def errRec (stamp : GT) (src cls n : Nat) (t : Option Tags) (unit : BitVec 16) (gen : BitVec 8) (code addr : Nat)
    (detail : Word) : ErrRec :=
  { w0 := wn stamp
    w1 := pk [(60, 4, src), (58, 2, cls), (54, 4, n), (53, 1, b2n t.isSome), (32, 16, unit.toNat), (24, 8, gen.toNat),
      (0, 16, ctxField t)]
    w2 := pk [(48, 16, code), (32, 16, (match t with | none => 0 | some x => x.layer.toNat)), (0, 32, addr)]
    w3 := detail
    marked := match t with | none => false | some g => g.secure || g.priv }

/-- DETAIL of a CORE record (Table 11.4). -/
def coreDetail (t : Option Tags) : Word :=
  match t with | none => 0 | some g => pk [(48, 16, g.op.toNat), (0, 32, g.seq.toNat)]

/-! ## Autofence counting in the leaf (R354, R355) -/

/-- The policy slot selects an error: `portslot` for a PORT violation or SLOT report. -/
def slotSelects (s : State) (p : SlotParams) (c : Nat) (portslot : Bool) (cls : Nat) : Bool :=
  p.enable && namesHere s p.addr p.mask && inSet (fullAddr s (coreAddr c)) p.addr (p.mask &&& 0xFFFFFFF8) &&
    (if portslot then p.portslot else p.classes.getLsbD cls)

/-- One slot's window count for a core after `n` more errors stamped `g`; true when the slot fires. -/
def countSlot (p : SlotParams) (g : GT) (n : Nat) (x : SlotCount) : SlotCount × Bool :=
  let w := g / p.window.toNat * p.window.toNat
  let x := if x.window = w then x else { window := w }
  let k := x.count + n
  let fires := decide (p.threshold.toNat ≤ k) && !x.fired
  ({ x with count := k, fired := x.fired || fires }, fires)

/-- The leaf counts errors for its policy slots and sends one TRIGGER record for the lowest slot that fires. -/
def countPolicies (c : Nat) (g : GT) (portslot : Bool) (cls n : Nat) (s : State) : State :=
  match coreOf s c with
  | none => s
  | some co =>
    if !coreInService co then modCore c (fun x => { x with slotCounts := List.replicate 4 {} }) s
    else
      let rs := (List.range 4).map fun i =>
        let x := co.slotCounts.getD i {}
        match s.autofence.slots.getD i none with
        | none => (x, false)
        | some p => if slotSelects s p c portslot cls then countSlot p g n x else (x, false)
      let s := modCore c (fun x => { x with slotCounts := rs.map Prod.fst }) s
      match (List.range 4).find? fun i => (rs.getD i ({}, false)).2 with
      | none => s
      | some i =>
        let x := (rs.getD i ({}, false)).1
        sendError { w0 := wn g, w1 := pk [(60, 4, 10), (32, 16, (coreAddr c).toNat), (24, 8, co.gen.toNat), (0, 16, 0xFFFF)]
                    w2 := pk [(56, 8, i), (0, 48, x.count)], w3 := wn x.window } s

/-! ## Coalescing and the storm latch (R345, R346, R348) -/

def modErr (cl : Nat) (f : LeafErr → LeafErr) (s : State) : State := modLeaf cl (fun l => { l with err := f l.err }) s

def addAt (l : List Nat) (i n : Nat) : List Nat := l.modify i (· + n)

/-- The COALESCE record of an interval. -/
def coalesceRec (s : State) (cl : Nat) (x : LeafErr) : ErrRec :=
  { w0 := wn (x.start.getD 0)
    w1 := pk [(60, 4, 8), (32, 16, (clusterAddr cl).toNat), (24, 8, (partGen s (partOfCluster cl)).toNat), (0, 16, 0xFFFF)]
    w2 := wn x.last
    w3 := pk [(48, 16, x.cores.toNat), (0, 12, satN 12 (x.counts.getD 0 0)), (12, 12, satN 12 (x.counts.getD 1 0)),
      (24, 12, satN 12 (x.counts.getD 2 0)), (36, 12, satN 12 (x.counts.getD 3 0))] }

/-- An interval ends: with a count above zero the leaf sends one COALESCE record. -/
def endInterval (cl : Nat) (s : State) : State :=
  match (tget cl s.leaves).map (·.err) with
  | none => s
  | some x =>
    let s1 := modErr cl (fun y => { y with start := none, cores := 0, counts := List.replicate 4 0 }) s
    if x.start.isSome && x.counts.any (fun n => decide (0 < n)) then sendError (coalesceRec s cl x) s1 else s1

/-- An error of the leaf's cores or its own SRAM, `n` errors of the record's class, from core bit `k` where it has one. -/
def leafReport (cl : Nat) (r : ErrRec) (n : Nat) (k : Option Nat) (s : State) : State :=
  let g := r.w0.toNat
  match (tget cl s.leaves).map (·.err) with
  | none => s
  | some x =>
    if x.storm then
      modErr cl (fun y => { y with
        window := addAt y.window (errClass r) n, latch := some (y.latch.getD r) }) s
    else
      let s := match x.start with
        | some t => if t + 4000 ≤ g then endInterval cl s else s
        | none => s
      if (((tget cl s.leaves).map (·.err.start)).getD none).isSome then
        modErr cl (fun y => { y with
          last := g, counts := addAt y.counts (errClass r) n
          cores := match k with | none => y.cores | some i => setBit y.cores i true }) s
      else sendError r (modErr cl (fun y => { y with start := some g, last := g }) s)

/-- Errors that the shim dropped reach the leaf as counts (R346). -/
def leafDropped (cl k cls n : Nat) (g : GT) (s : State) : State :=
  if n = 0 then s else
  match (tget cl s.leaves).map (·.err) with
  | none => s
  | some x =>
    if x.storm then modErr cl (fun y => { y with window := addAt y.window cls n }) s
    else
      let s := match x.start with
        | some t => if t + 4000 ≤ g then endInterval cl s else s
        | none => s
      modErr cl (fun y => { y with
        start := some (y.start.getD g), last := g, counts := addAt y.counts cls n, cores := setBit y.cores k true }) s

/-- COALESCE_INTERVAL_END: the open interval is 4,000 GT old. -/
def execCoalesceIntervalEnd (cluster : ClusterIx) (cyc : Nat) (s : State) : Host.Outcome State Fault Refusal :=
  let cl := cluster.toNat
  .next (match ((tget cl s.leaves).map (·.err.start)).getD none with
    | some t => if leafValid s cl = true ∧ t + 4000 ≤ leafGt s cl cyc then endInterval cl s else s
    | none => s)

/-- STORM_NOTICE_RECEIVE: the leaf ends its interval without a record and carries its counts into the window's. -/
def execStormNoticeReceive (cluster : ClusterIx) (_cyc : Nat) (s : State) : Host.Outcome State Fault Refusal :=
  .next (if s.errors.storm then
    modErr cluster.toNat (fun y => if y.storm then y else { y with
      storm := true, start := none, cores := 0, counts := List.replicate 4 0
      window := (y.window.zip y.counts).map fun p => p.1 + p.2 }) s
  else s)

/-- LEAF_SRAM_ERROR (R341). -/
def execLeafSramError (cluster : ClusterIx) (cyc : Nat) (code : BitVec 16) (addr : BitVec 32) (corrected : Bool)
    (s : State) : Host.Outcome State Fault Refusal :=
  let cl := cluster.toNat
  .next (leafReport cl (errRec (leafGt s cl cyc) 3 (if corrected then 0 else 1) 1 none (clusterAddr cl)
    (partGen s (partOfCluster cl)) code.toNat addr.toNat 0) 1 none s)

/-! ## The hub's intake (R347 to R351, R353, R356) -/

/-- Write a record to the intake log and raise its error event. -/
def logRecord (r : ErrRec) (s : State) : State :=
  let full := decide (2048 ≤ s.errors.log.length)
  raiseEvent 0x0100 1 [r.w0, r.w1, r.w2, r.w3] {} 0 { s with errors := { s.errors with
    log := pushRing 2048 r s.errors.log, logged := satInc s.errors.logged
    replaced := if full then satInc s.errors.replaced else s.errors.replaced } }

/-- The conditions of storm mode (R347). -/
def stormDue (s : State) : Bool := decide (1024 < s.errors.winRecords ∨ 3072 ≤ s.errors.queue.length)

def enterStorm (s : State) : State :=
  raiseEvent 0x0101 1 [wn (hubGt s)] {} 0 { s with errors := { s.errors with
    storm := true, storms := satInc s.errors.storms, stormGt := hubGt s, quiet := 0, summaries := 0 } }

/-- ERROR_RECORD_ARRIVAL: the oldest record on its way reaches the queue, unless the queue is full (R347, R612). -/
def execErrorRecordArrival (s : State) : Host.Outcome State Fault Refusal :=
  .next (match s.errors.flight with
    | [] => s
    | r :: l =>
      if 4096 ≤ s.errors.queue.length ∨ serving s = false then s
      else
        let s := { s with errors := { s.errors with
          flight := l, queue := s.errors.queue ++ [r], winRecords := s.errors.winRecords + 1 } }
        if stormDue s && !s.errors.storm then enterStorm s else s)

/-- Errors a leaf counted in the window. -/
def windowTotal (x : LeafErr) : Nat := x.window.foldl (· + ·) 0

/-- The SUMMARY record of a partition, where it counted an error. -/
def summaryRec (s : State) (p : Nat) : Option ErrRec :=
  let ls := s.leaves.filter fun q => decide (partOfCluster q.1 = p)
  let hit := ls.filter fun q => decide (0 < windowTotal q.2.err)
  if hit.isEmpty then none else
  let sum := fun (i : Nat) => (ls.map fun q => q.2.err.window.getD i 0).foldl (· + ·) 0
  some {
    w0 := wn s.errors.winStart
    w1 := pk [(60, 4, 9), (32, 16, p * 8192), (24, 8, (partGen s p).toNat), (0, 16, 0xFFFF)]
    w2 := wn ((hit.map fun q => 2 ^ (q.1 % 64)).foldl (· + ·) 0)
    w3 := pk [(0, 16, satN 16 (sum 0)), (16, 16, satN 16 (sum 1)), (32, 16, satN 16 (sum 2)), (48, 16, satN 16 (sum 3))] }

/-- The latched records in ascending cluster order, with STORM_FIRST set. -/
def latched (s : State) : List ErrRec :=
  s.leaves.filterMap fun q => q.2.err.latch.map fun r => { r with w1 := r.w1 ||| (1#64 <<< 52) }

def clearLatches (s : State) : State :=
  { s with leaves := tmap (fun _ l => { l with err := { l.err with latch := none } }) s.leaves }

/-- Storm mode ends (R349, R350). -/
def exitStorm (s : State) : State :=
  let ls := latched s
  let s := ls.foldl (fun s r => logRecord r s) (clearLatches s)
  let s := { s with
    leaves := tmap (fun _ l => { l with err := { l.err with storm := false, start := none } }) s.leaves
    errors := { s.errors with storm := false } }
  raiseEvent 0x0102 1 [wn (hubGt s), wn s.errors.summaries, wn ls.length] {} 0 s

/-- STORM_WINDOW_END: the hub's GT has passed the window's end. -/
def execStormWindowEnd (s : State) : Host.Outcome State Fault Refusal :=
  let w := hubGt s / 40000 * 40000
  .next (if s.errors.winStart < w ∧ serving s = true then
    let due := stormDue s
    let total := (s.leaves.map fun q => windowTotal q.2.err).foldl (· + ·) 0
    let sums := if s.errors.storm then (List.range 8).filterMap (summaryRec s) else []
    let s := sums.foldl (fun s r => logRecord r s) s
    let s := { s with
      leaves := tmap (fun _ l => { l with err := { l.err with window := List.replicate 4 0 } }) s.leaves
      errors := { s.errors with
        winStart := w, winRecords := 0, summaries := s.errors.summaries + sums.length
        quiet := if s.errors.storm && decide (total < 64) && !due then s.errors.quiet + 1 else 0 } }
    if !s.errors.storm then s
    else if basic s then (latched s).foldl (fun s r => logRecord r s) (clearLatches s)
    else if 3 ≤ s.errors.quiet then exitStorm s else s
  else s)

end Sys2Proof.Machine
end

