-- ==== Sys2Proof/Machine/Float.lean ====
section
/-!
DEFINITION. IEEE 754 binary64 as skim needs it (R217, R222): exact dyadic numbers `n * 2^e`, rounding to nearest even, and
the additions and products of the compensated sum.
-/
namespace Sys2Proof.Machine

/-- `n * 2^k` for any integer `k`, rounded to the nearest integer, ties to even. -/
def shiftRne (n : Nat) (k : Int) : Nat :=
  if 0 ≤ k then n * 2 ^ k.toNat
  else
    let d := (-k).toNat
    let q := n / 2 ^ d
    let r := n % 2 ^ d
    let half := 2 ^ d / 2
    if half < r ∨ (r = half ∧ q % 2 = 1) then q + 1 else q

/-- The binary64 word nearest to `n * 2^e`, ties to even; zero is written as +0. -/
def f64Of (n e : Int) : Word :=
  if n = 0 then 0 else
  let m := n.natAbs
  let sign := if n < 0 then 2 ^ 63 else 0
  let q := max (e + (Nat.log2 m : Int) - 52) (-1074)
  let r := shiftRne m (e - q)
  let q := if r = 2 ^ 53 then q + 1 else q
  let r := if r = 2 ^ 53 then 2 ^ 52 else r
  if r < 2 ^ 52 then BitVec.ofNat 64 (sign + r)
  else
    let ex := q + 1075
    if 2047 ≤ ex then BitVec.ofNat 64 (sign + 2047 * 2 ^ 52)
    else BitVec.ofNat 64 (sign + ex.toNat * 2 ^ 52 + (r - 2 ^ 52))

/-- The exact value of a finite binary64 word as (integer, exponent of two). -/
def f64Val (w : Word) : Int × Int :=
  let ex := bits w 62 52
  let f := bits w 51 0
  let m : Int := if ex = 0 then f else f + 2 ^ 52
  let e : Int := if ex = 0 then -1074 else ex - 1075
  (if bit w 63 then -m else m, e)

/-- An exact sum of two dyadic numbers. -/
def dyAdd (a b : Int × Int) : Int × Int :=
  let e := min a.2 b.2
  (a.1 * 2 ^ (a.2 - e).toNat + b.1 * 2 ^ (b.2 - e).toNat, e)

def f64Add (a b : Word) : Word := let r := dyAdd (f64Val a) (f64Val b); f64Of r.1 r.2
def f64Sub (a b : Word) : Word :=
  let v := f64Val b
  let r := dyAdd (f64Val a) (-v.1, v.2)
  f64Of r.1 r.2

/-- The order of two dyadic numbers. -/
def dyLt (a b : Int × Int) : Bool := let r := dyAdd a (-b.1, b.2); decide (r.1 < 0)

def f64AbsGe (a b : Word) : Bool :=
  let x := f64Val a
  let y := f64Val b
  !dyLt ((x.1.natAbs : Int), x.2) ((y.1.natAbs : Int), y.2)

/-- One step of the compensated sum of squares (R222): (sq, c) after the value `n * 2^e`. -/
def sumsqStep (sq c : Word) (n e : Int) : Word × Word :=
  let p := f64Of (n * n) (2 * e)
  let t := f64Add sq p
  let d := if f64AbsGe sq p then f64Add (f64Sub sq t) p else f64Add (f64Sub p t) sq
  (t, f64Add c d)

end Sys2Proof.Machine
end

