-- ==== Sys2Proof/Machine/Skim.lean ====
section
/-!
DEFINITION. Skim: admission and thinning at the shim, element decoding, statistics, the capture's life, the record and its
commands (chapter 07).
-/
namespace Sys2Proof.Machine

/-! ## Thinning (R224) -/

/-- R224. -/
def keptBy (p : SkimParams) (key : Word) : Bool :=
  decide ((hashKey (hashPrefix p.tseed 1) key >>> 32).toNat < p.thresh.toNat)

/-! ## Element formats (R213 to R215) -/

/-- Element width by ELFMT (Table 07.1). -/
def elemWidth (f : BitVec 4) : Nat :=
  match f.toNat with
  | 0 => 32 | 1 => 16 | 2 => 16 | 3 => 8 | 4 => 8 | 5 => 8 | 6 => 8 | 7 => 6 | 8 => 6 | 9 => 4 | 10 => 32 | 11 => 8 | _ => 4

def elemsPerBeat (f : BitVec 4) : Nat := 256 / elemWidth f
def isMx (f : BitVec 4) : Bool := decide (5 ≤ f.toNat ∧ f.toNat ≤ 9)

inductive ElemClass where
  | zero | sub | norm | inf | nan
deriving DecidableEq, Repr

/-- Exponent bits, mantissa bits, bias and specials (0 none, 1 NaN only, 2 IEEE) of a floating format. -/
def formatRow (f : BitVec 4) : Nat × Nat × Int × Nat :=
  match f.toNat with
  | 0 => (8, 23, 127, 2) | 1 => (5, 10, 15, 2) | 2 => (8, 7, 127, 2) | 3 => (4, 3, 7, 1) | 4 => (5, 2, 15, 2)
  | 5 => (4, 3, 7, 1) | 6 => (5, 2, 15, 2) | 7 => (2, 3, 1, 0) | 8 => (3, 2, 3, 0) | _ => (2, 1, 1, 0)

/-- R215: class, sign, m and e. -/
def decodeElem (f : BitVec 4) (b : BitVec 32) (scale : BitVec 8) : ElemClass × Bool × Nat × Int :=
  let w := elemWidth f
  let v := b.toNat % 2 ^ w
  if 10 ≤ f.toNat then
    let i := toSigned w v
    if i = 0 then (.zero, false, 0, 0) else (.norm, decide (i < 0), i.natAbs, 0)
  else
    let (eb, mb, bias, spec) := formatRow f
    let s := v.testBit (w - 1)
    let ex := v / 2 ^ mb % 2 ^ eb
    let fr := v % 2 ^ mb
    let x : Int := if isMx f then (scale.toNat : Int) - 127 else 0
    if isMx f && decide (scale = 0xFF) then (.nan, s, 0, 0)
    else if spec = 2 ∧ ex = 2 ^ eb - 1 then (if fr = 0 then (.inf, s, 0, 0) else (.nan, s, 0, 0))
    else if spec = 1 ∧ ex = 15 ∧ fr = 7 then (.nan, s, 0, 0)
    else if ex = 0 ∧ fr = 0 then (.zero, s, 0, 0)
    else if ex = 0 then (.sub, s, fr, 1 - bias - mb + x)
    else (.norm, s, 2 ^ mb + fr, (ex : Int) - bias - mb + x)

/-- R219: q, under and over. -/
def toWindow (s : Bool) (m : Nat) (e l : Int) : Int × Bool × Bool :=
  let sh := e - l
  let mag := if 0 ≤ sh then m * 2 ^ sh.toNat else m / 2 ^ (-sh).toNat
  let under := decide (sh < 0) && decide (m % 2 ^ (-sh).toNat ≠ 0)
  if 2 ^ 127 ≤ mag then (0, false, true) else (if s then -(mag : Int) else mag, under, false)

/-- R218. -/
def histBin (m : Nat) (e : Int) (hbase : BitVec 10) : Nat :=
  let x := e + (Nat.log2 m : Int)
  let h := toSigned 10 hbase.toNat
  if x < h then 0 else if h + 62 ≤ x then 63 else (x - h + 1).toNat

/-! ## Statistics (R216 to R222, R225) -/

/-- The extreme kept: `better` says that the new value is strictly more extreme; an equal value keeps the lower key (R217). -/
def keepExtreme (greater : Bool) (v : Int × Int) (key : Word) : Option (Int × Int × Word) → Option (Int × Int × Word)
  | none => some (v.1, v.2, key)
  | some (n, e, k) =>
    let better := if greater then dyLt (n, e) v else dyLt v (n, e)
    let worse := if greater then dyLt v (n, e) else dyLt (n, e) v
    if better || (!worse && decide (key < k)) then some (v.1, v.2, key) else some (n, e, k)

/-- Add ±q to each sketch by the sign bits of the key's hash (R225). -/
def addSketch (h : Word) (q : Int) (l : List (BitVec 160)) : List (BitVec 160) :=
  l.zipIdx.map fun p => p.1 + BitVec.ofInt 160 (if bit h (56 + p.2) then -q else q)

/-- A finite element enters the extremes, the window sums and the sum of squares. -/
def addFinite (c : Capture) (s : Bool) (m : Nat) (e : Int) (key : Word) : Capture :=
  let n : Int := if s then -(m : Int) else m
  let w := toWindow s m e (toSigned 10 c.p.lsb.toNat)
  let sq := sumsqStep c.sumsq c.sumsqC n e
  { c with
    least := keepExtreme false (n, e) key c.least
    most := keepExtreme true (n, e) key c.most
    under := c.under + BitVec.ofNat 32 (b2n w.2.1)
    above := c.above + BitVec.ofNat 32 (b2n w.2.2)
    sum := c.sum + BitVec.ofInt 160 w.1
    sketch := addSketch (hashKey (hashPrefix c.p.sseed 2) key) w.1 c.sketch
    sumsq := sq.1, sumsqC := sq.2 }

def addHist (c : Capture) (m : Nat) (e : Int) : Capture :=
  { c with hist := c.hist.modify (histBin m e c.p.hbase) (· + 1) }

/-- An accepted element enters the statistics of Table 07.2. -/
def addElem (c : Capture) (x : SkimElem) : Capture :=
  let d := decodeElem c.p.elfmt x.bits x.scale
  let c := { c with
    count := c.count + 1
    scaleNan := c.scaleNan || (isMx c.p.elfmt && decide (x.scale = 0xFF))
    multi := c.multi || (match c.first with | none => false | some f => decide (f ≠ (x.core, x.eng)))
    first := some (c.first.getD (x.core, x.eng)) }
  match d with
  | (.zero, s, _, _) => addFinite { c with zero := c.zero + 1 } s 0 0 x.key
  | (.sub, s, m, e) => addFinite (addHist { c with subnorm := c.subnorm + 1 } m e) s m e x.key
  | (.norm, s, m, e) => addFinite (addHist c m e) s m e x.key
  | (.inf, s, _, _) => if s then { c with ninf := c.ninf + 1 } else { c with pinf := c.pinf + 1 }
  | (.nan, _, _, _) => { c with nan := c.nan + 1 }

/-! ## The record (R234) -/

def maxCount (p : SkimParams) : Nat := if p.maxcount = 0 then 0xFFFFFFFF else p.maxcount.toNat

/-- FLAGS, Table 07.5, from bit 16 up. -/
def skimFlags (c : Capture) : Nat :=
  b2n (c.incomparable || decide (c.dropped ≠ 0)) + 2 * b2n (decide (c.above ≠ 0)) + 4 + 8 * b2n c.late + 16 * b2n c.gap +
    32 * b2n c.p.incl + 64 * b2n c.scaleNan + 128 * b2n c.least.isNone + 256 * b2n c.multi + 512 * b2n c.reset

def sumWords (v : BitVec 160) : List Word :=
  [v.setWidth 64, (v >>> 64).setWidth 64, BitVec.ofInt 64 (v.toInt / 2 ^ 128)]

def extremeF64 (x : Option (Int × Int × Word)) : Word := match x with | none => 0 | some (n, e, _) => f64Of n e
def extremeKey (x : Option (Int × Int × Word)) : Word := match x with | none => 0 | some (_, _, k) => k

/-- The 79 words of Table 07.4, with the cause, instants and time state as they read now. -/
def skimWords (s : State) (cl : Nat) (c : Capture) (cause : Nat) (start end_ : GT) (ts : Nat) : List Word :=
  let p := c.p
  [pk [(56, 8, 2), (52, 4, p.elfmt.toNat), (48, 4, cause), (32, 16, (clusterAddr cl).toNat), (16, 16, skimFlags c),
       (12, 4, ts)],
   wn start, wn end_,
   pk [(48, 16, (chipOf s).toNat), (32, 16, p.ctx.toNat), (16, 16, p.ctxMask.toNat), (0, 16, p.cores.toNat)],
   p.sseed, p.tseed,
   pk [(56, 8, p.engines.toNat), (52, 4, p.sel.toNat), (42, 10, p.lsb.toNat), (32, 10, p.hbase.toNat), (0, 1, b2n p.idxmode)],
   p.thresh.setWidth 64, p.idxHi ++ p.idxLo, c.count ++ BitVec.ofNat 32 (maxCount p), c.zero ++ c.subnorm, c.pinf ++ c.ninf,
   c.nan ++ c.dropped, c.under ++ c.above, extremeF64 c.least, extremeF64 c.most, extremeKey c.least, extremeKey c.most,
   c.sumsq, c.sumsqC] ++ sumWords c.sum ++ c.sketch.flatMap sumWords ++
    (List.range 32).map fun k => (c.hist.getD (2 * k + 1) 0) ++ (c.hist.getD (2 * k) 0)

/-- The record as SKIM_READ gives it (R235). -/
def skimRecord (s : State) (cl : Nat) (c : Capture) : List Word :=
  let ts := timeStateCode s.time.state
  match c.phase with
  | .waiting => skimWords s cl c 4 0 0 ts
  | .loaded => skimWords s cl c 0 c.openAt (hubGt s) ts
  | .isOpen => skimWords s cl c 0 c.openAt (hubGt s) ts
  | .closed => skimWords s cl c c.endCause.toNat c.openAt c.endGt c.endState.toNat

/-! ## Opening and closing (R208, R228 to R232) -/

def capOf (s : State) (cl : Nat) : Option Capture := (tget cl s.leaves).bind fun l => l.skim.cap
def modCap (cl : Nat) (f : Capture → Capture) (s : State) : State :=
  modLeaf cl (fun l => { l with skim := { l.skim with cap := l.skim.cap.map f } }) s

/-- Core `c` is watched by its cluster's capture. -/
def watches (p : SkimParams) (c : Nat) : Bool := p.cores.getLsbD (c % 16)

/-- The capture is loaded or open. -/
def capLive (c : Capture) : Bool := decide (c.phase ≠ .closed)

/-- Drive `ts_so_en` and `ts_so_sel` of a cluster's cores as its capture asks (R208). -/
def driveStore (cl : Nat) (s : State) : State :=
  let cap := (capOf s cl).filter capLive
  { s with cores := tmap (fun c co =>
      if clusterOf c ≠ cl then co else
      match cap with
      | some x => if watches x.p c then { co with soEn := true, soSel := x.p.sel } else { co with soEn := false }
      | none => { co with soEn := false }) s.cores }

/-- The hub's time state at the closing instant: as noted then, else the present one. -/
def stateAtClose (s : State) (c : Capture) : BitVec 4 :=
  ((c.closeAt.bind fun q => q.2.2).getD (BitVec.ofNat 4 (timeStateCode s.time.state)))

/-- Captures whose TIME instant has come note the hub's time state of that instant (R234). -/
def noteCloses (s : State) : State :=
  let now := hubGt s
  let ts := BitVec.ofNat 4 (timeStateCode s.time.state)
  let note := fun (q : GT × BitVec 4 × Option (BitVec 4)) =>
    if q.2.2.isNone && decide (q.1 ≤ now) then (q.1, q.2.1, some ts) else q
  { s with leaves := tmap (fun _ l => { l with skim := { l.skim with
      cap := l.skim.cap.map fun c => { c with closeAt := c.closeAt.map note } } }) s.leaves }

/-- Close a capture: cause, G_close and the time state are written and the hub raises SKIM_CLOSED. -/
def closeCapture (cl : Nat) (cause : BitVec 4) (at_ : GT) (s : State) : State :=
  match capOf s cl with
  | none => s
  | some c =>
    let c := { c with
      phase := .closed, endCause := cause, endGt := at_, endState := stateAtClose s c
      closeAt := none, early := [], incomparable := c.incomparable || (decide (cause = 1) && c.multi) }
    let s := driveStore cl (modLeaf cl (fun l => { l with skim := { cap := some c, queue := [] } }) s)
    raiseEvent 0x0040 0 [(fullAddr s (clusterAddr cl)).setWidth 64, wn cause.toNat, wn (skimFlags c)] c.owner 0 s

/-- The first of the instants at which a capture is to close by TIME or CANCEL. -/
def soonerClose (a : GT × BitVec 4 × Option (BitVec 4)) :
    Option (GT × BitVec 4 × Option (BitVec 4)) → Option (GT × BitVec 4 × Option (BitVec 4))
  | none => some a
  | some b => if a.1 < b.1 then some a else some b

/-- TIME closing instant of a capture that opens at `g`. -/
def timeClose (p : SkimParams) (g : GT) : Option (GT × BitVec 4 × Option (BitVec 4)) :=
  if p.duration = 0 then none else some (g + p.duration.toNat, 2, none)

/-- CANCEL of one leaf's capture at the hub's GT: it closes once its links have passed that instant (R229); a TRIGGER capture
that has not opened will not open any more (R232). -/
def cancelCapture (cl : Nat) (s : State) : State :=
  match capOf s cl with
  | none => s
  | some c =>
    if capLive c then modCap cl (fun c => { c with
      closeAt := soonerClose (hubGt s, 3, some (BitVec.ofNat 4 (timeStateCode s.time.state))) c.closeAt }) s
    else s

/-- Captures whose arming satisfies a test are closed as if cancelled (R516, R526, R531). -/
def cancelCaptures (p : Capture → Bool) (s : State) : State :=
  s.leaves.foldl (fun s q => match q.2.skim.cap with
    | some c => if capLive c && p c then cancelCapture q.1 s else s
    | none => s) s

/-- ARM_SKIM with stamp `g` reaches the leaf: true when it opens a capture (R228, R232). -/
def armSkim (cl : Nat) (g : GT) (s : State) : Bool × State :=
  match capOf s cl with
  | none => (false, s)
  | some c =>
    if c.phase = .waiting ∧ c.closeAt = none ∧ basic s = false then
      let lost := ((c.early.filter fun q => decide (g ≤ q.1)).map Prod.snd).sum
      (true, modCap cl (fun c => { c with
        phase := .isOpen, openAt := g, closeAt := timeClose c.p g, early := [], dropped := satInc c.dropped lost }) s)
    else (false, s)

/-- SKIM_CAPTURE_OPEN: the leaf's GT has reached the opening instant. -/
def execSkimCaptureOpen (cluster : ClusterIx) (cyc : Nat) (s : State) : Host.Outcome State Fault Refusal :=
  let cl := cluster.toNat
  .next (match capOf s cl with
    | some c =>
      if c.phase = .loaded ∧ leafValid s cl = true ∧ c.openAt ≤ leafGt s cl cyc ∧
          c.closeAt.all (fun q => decide (c.openAt < q.1)) = true then
        modCap cl (fun c => { c with phase := .isOpen }) s
      else s
    | none => s)

/-- A watched core stopped presenting beats (GAP), or was reset or fenced (R231). -/
def skimGap (c : Nat) (reset : Bool) (s : State) : State :=
  modCap (clusterOf c) (fun x =>
    if watches x.p c && decide (x.phase = .isOpen) then
      { x with gap := true, reset := x.reset || reset, incomparable := x.incomparable || reset }
    else x) s

/-- Count elements dropped that were stamped `g` (R212). A TRIGGER capture that waits for its instant keeps them apart: those
before it count nowhere (R228). -/
def skimDrop (cl n : Nat) (g : GT) (s : State) : State :=
  modCap cl (fun c =>
    if c.phase = .waiting then { c with early := (g, n) :: c.early }
    else if capLive c then { c with dropped := satInc c.dropped n } else c) s

/-! ## Elements -/

/-- An element reaches the leaf's skim input queue (R212). -/
def queueElem (cl : Nat) (x : SkimElem) (s : State) : State :=
  match tget cl s.leaves with
  | none => s
  | some l =>
    match l.skim.cap with
    | none => s
    | some c =>
      if !capLive c then s
      else if 256 ≤ l.skim.queue.length then skimDrop cl 1 x.stamp s
      else modLeaf cl (fun l => { l with skim := { l.skim with queue := l.skim.queue ++ [x] } }) s

/-- The skim engine takes one element: it belongs to the capture when its stamp lies in [G_open, G_close) (R228). The element
that brings COUNT to MAXCOUNT closes it at the leaf's GT of that instant (R229; log entry 80). -/
def takeElem (cl : Nat) (x : SkimElem) (s : State) : State :=
  match capOf s cl with
  | none => s
  | some c =>
    let inSpan := decide (c.phase = .isOpen ∨ c.phase = .loaded) && decide (c.openAt ≤ x.stamp) &&
      (match c.closeAt with | none => true | some q => decide (x.stamp < q.1))
    if !inSpan then s
    else
      let c := addElem c x
      let s := modCap cl (fun _ => c) s
      if maxCount c.p ≤ c.count.toNat then
        closeCapture cl 1 (gtMax (leafNow s cl) (x.stamp + 1)) (modCap cl (fun c => { c with closeAt := none }) s)
      else s

/-- The leaf knows whether a TRIGGER capture still waiting will take an element: every pulse stamped before it has been
evaluated. -/
def elemSettled (s : State) (cl : Nat) (x : SkimElem) : Bool :=
  match capOf s cl with
  | none => true
  | some c =>
    if c.phase ≠ .waiting ∨ c.closeAt ≠ none then true
    else (((tget cl s.leaves).map (·.events)).getD []).all (fun e => decide (x.stamp < e.1)) &&
      ((mergeBound s cl).all fun b => decide (x.stamp ≤ b))

/-- SKIM_ELEMENT: the oldest element of the input queue. -/
def execSkimElement (cluster : ClusterIx) (s : State) : Host.Outcome State Fault Refusal :=
  let cl := cluster.toNat
  .next (match (tget cl s.leaves).map (·.skim.queue) with
    | some (x :: q) =>
      if elemSettled s cl x then
        takeElem cl x (modLeaf cl (fun l => { l with skim := { l.skim with queue := q } }) s)
      else s
    | _ => s)

/-- Every watched link that still runs has presented a word stamped at or after `t` (R229). -/
def watchedPast (s : State) (cl : Nat) (p : SkimParams) (t : GT) : Bool :=
  s.cores.all fun q => decide (clusterOf q.1 ≠ cl) || !watches p q.1 || q.2.quietStamp.isSome || q.2.clockStopped ||
    decide (t ≤ q.2.lastStamp)

/-- SKIM_CLOSE_TIME: a capture closes at its TIME or CANCEL instant once no beat inside the span can still arrive. -/
def execSkimCloseTime (cluster : ClusterIx) (cyc : Nat) (s : State) : Host.Outcome State Fault Refusal :=
  let cl := cluster.toNat
  .next (match tget cl s.leaves with
    | none => s
    | some l => match l.skim.cap with
      | none => s
      | some c => match c.closeAt with
        | none => s
        | some (t, cause, _) =>
          if capLive c && leafValid s cl && decide (t ≤ leafGt s cl cyc) && watchedPast s cl c.p t then
            let s := l.skim.queue.foldl (fun s x => takeElem cl x s) s
            if ((capOf s cl).map capLive).getD false then closeCapture cl cause t s else s
          else s)

/-! ## Admission at the shim (R210, R211, R213, R214) -/

/-- Key of an element (R209). -/
def elemKey (p : SkimParams) (c : Nat) (ix : BitVec 32) : Word :=
  if p.idxmode then pk [(32, 16, (coreAddr c).toNat), (0, 32, ix.toNat)] else ix.setWidth 64

/-- The element words of a beat that the shim forwards, and how many it discards as port violations. -/
def beatElems (p : SkimParams) (c : Nat) (eng : EngIx) (t : Option Tags) (cnt : Nat) (idx : BitVec 32)
    (data : BitVec 256) (scale : BitVec 16) : List UpKind × Nat :=
  let w := elemWidth p.elfmt
  let per := elemsPerBeat p.elfmt
  let fits := min cnt per
  let block := fun (i : Nat) => (idx.toNat + i) / 32 - idx.toNat / 32
  let badMx := fun (i : Nat) => isMx p.elfmt && decide (2 ≤ block i)
  let secret := (t.map fun g => g.secure || g.priv).getD false && !p.incl
  let ctxOk := match t with
    | none => decide (p.ctxMask = 0)
    | some g => decide (g.ctx &&& p.ctxMask = p.ctx &&& p.ctxMask)
  let admits := fun (i : Nat) =>
    let ix := idx + BitVec.ofNat 32 i
    p.engines.getLsbD eng.toNat && decide (p.idxLo ≤ ix ∧ ix ≤ p.idxHi) && ctxOk && !secret &&
      keptBy p (elemKey p c ix)
  let good := (List.range fits).filter fun i => !badMx i
  ((good.filter admits).map fun i => UpKind.elem eng (elemKey p c (idx + BitVec.ofNat 32 i))
      (BitVec.ofNat 32 (data.toNat / 2 ^ (w * i) % 2 ^ w))
      (if block i = 0 then scale.setWidth 8 else (scale >>> 8).setWidth 8),
   if secret then 0 else (cnt - fits) + (fits - good.length))

/-! ## Commands (R226, R227, R235, R236) -/

def skimRangeBad (s : State) (p : SkimParams) : Bool :=
  setBadArg s p.addr p.mask 2 || decide (p.cores = 0 ∨ p.engines = 0 ∨ p.idxHi < p.idxLo) || decide (13 ≤ p.elfmt.toNat) ||
    decide (p.thresh = 0 ∨ 0x100000000#33 < p.thresh) || decide (p.startMode = 3)

/-- A Tenant arms one context of its own domain only (R236). -/
def tenantSkimOk (s : State) (via : Via) (p : SkimParams) : Bool :=
  decide (p.ctxMask = 0xFFFF) && !p.incl && ctxDefined s p.ctx.toNat &&
    decide (ctxDomain s p.ctx.toNat = domainOf (whoOf s via))

/-- The watched cores of a cluster that are QUIET or clock-stopped. -/
def awayWatched (s : State) (cl : Nat) (cores : BitVec 16) : Bool :=
  s.cores.any fun q => decide (clusterOf q.1 = cl) && cores.getLsbD (q.1 % 16) &&
    (q.2.quietStamp.isSome || q.2.clockStopped)

def newCapture (via : Via) (p : SkimParams) (s : State) : Capture :=
  let now := hubGt s
  let at_ := if p.startMode = 1 ∧ now + 1000 ≤ p.start.toNat then p.start.toNat else now + 1000
  { p := p, who := whoOf s via, mailbox := !isNarrow via, owner := ownerOf s via
    phase := if p.startMode = 2 then .waiting else .loaded
    openAt := if p.startMode = 2 then 0 else at_
    closeAt := if p.startMode = 2 then none else timeClose p at_
    late := decide (p.startMode = 1 ∧ p.start.toNat < now + 1000) }

def execSkimArm (via : Via) (p : SkimParams) (s : State) : Host.Outcome State Fault Refusal :=
  .next (command via 0x0024 (.skimArm via p) false
    (fun s => [
      (denied s via .everyone .observe || (isTenant (whoOf s via) && !tenantSkimOk s via p) ||
        inclDenied s via p.incl 1 (if p.ctxMask = 0xFFFF then some (ctxDomain s p.ctx.toNat) else none), rDenied),
      (skimRangeBad s p, rBadArg), (setBadUnit s p.addr p.mask 2, rBadUnit),
      ((clustersIn s p.addr p.mask).any (fun cl => ((capOf s cl).map capLive).getD false), rBusy)])
    (fun s =>
      let cls := clustersIn s p.addr p.mask
      let c := newCapture via p s
      let s := cls.foldl (fun s cl => driveStore cl
        (modLeaf cl (fun l => { l with skim := { cap := some c, queue := [] } }) s)) s
      let away := cls.filter fun cl => awayWatched s cl p.cores
      if away.isEmpty then respond via rOk [] s
      else respond via rPartial (away.map fun cl => (fullAddr s (clusterAddr cl)).setWidth 64) s) s)

def execSkimCancel (via : Via) (a m : UnitAddr) (s : State) : Host.Outcome State Fault Refusal :=
  .next (command via 0x0024 (.skimCancel via a m) false
    (fun s => [(denied s via .everyone .observe || (isTenant (whoOf s via) &&
        (clustersIn s a m).any fun cl => ((capOf s cl).map fun c => decide (c.who ≠ whoOf s via)).getD false), rDenied),
      (setBadArg s a m 2, rBadArg), (setBadUnit s a m 2, rBadUnit)])
    (fun s => respond via rOk [] ((clustersIn s a m).foldl (fun s cl => cancelCapture cl s) s)) s)

def execSkimRead (via : Via) (a m : UnitAddr) (s : State) : Host.Outcome State Fault Refusal :=
  .next (command via 0x0025 (.skimRead via a m) false
    (fun s =>
      let cap := ((clustersIn s a m).head?).bind (capOf s)
      [(denied s via .everyone .observe || (isTenant (whoOf s via) &&
          (cap.map fun c => decide (c.who ≠ whoOf s via)).getD true), rDenied),
       (setBadArg s a m 2 || decide (m ≠ 0xFFFFFF80), rBadArg), (setBadUnit s a m 2, rBadUnit), (cap.isNone, rBadArg)])
    (fun s => match (clustersIn s a m).head? with
      | none => respond via rBadArg [] s
      | some cl => match capOf s cl with
        | none => respond via rBadArg [] s
        | some c => respond via rOk (skimRecord s cl c) s) s)

end Sys2Proof.Machine
end

