-- ==== Sys2Proof/Machine/Crock.lean ====
section
/-!
DEFINITION. What a leaf keeps of an engine for dumps and hangs: the crock ring and its freeze (R285, R286) and the standing
wait edge (R357 to R360); and the STATE report of a unit, which the crock also takes.
-/
namespace Sys2Proof.Machine

/-- The secure or privileged mark of an entry (R287). -/
def crockMark (t : Option Tags) : Bool := match t with | none => false | some g => g.secure || g.priv

/-- Write one crock entry of Table 09.4; a frozen ring counts it in OVERRUN. -/
def crockPut (c e kind : Nat) (t : Option Tags) (detail : Nat) (stamp : GT) (s : State) : State :=
  modEng c e (fun en =>
    if en.frozen then { en with overrun := satInc en.overrun }
    else
      let w1 := pk [(60, 4, kind), (52, 8, en.gen.toNat), (36, 16, ctxField t), (0, 36, detail)]
      { en with crock := pushRing 32 { w0 := wn stamp, w1 := w1, marked := crockMark t } en.crock }) s

/-- An entry for every present engine of a core. -/
def crockCore (c kind detail : Nat) (stamp : GT) (s : State) : State :=
  match coreOf s c with
  | none => s
  | some co => (enginesOf co).foldl (fun s e => crockPut c e kind (engOf co e).lCur detail stamp s) s

def freezeCrock (c e : Nat) (s : State) : State := modEng c e (fun en => { en with frozen := true }) s
def thawCrock (c e : Nat) (s : State) : State := modEng c e (fun en => { en with frozen := false }) s

/-! ## Staging of the critical crash record (R572) -/

def modStaging (f : Staging → Staging) (s : State) : State :=
  { s with pw := { s.pw with staging := f s.pw.staging } }

def stageCut (header : List Word) (s : State) : State := modStaging (fun g => { g with cut := header.take 4 }) s
def stageHang (header : List Word) (s : State) : State := modStaging (fun g => { g with hang := header.take 4 }) s
def stageRung (payload : List Word) (s : State) : State := modStaging (fun g => { g with rung := payload.take 3 }) s

/-- Copy the crock of an engine; `src` is 1 for a hang, 2 for a stop watchdog. -/
def stageCrock (c e src : Nat) (id : BitVec 32) (s : State) : State :=
  match (coreOf s c).map fun co => engOf co e with
  | none => s
  | some en =>
    let now := hubGt s
    modStaging (fun g => { g with
      crockEngine := engAddr c e, crockSrc := src, crockGen := en.gen, crockId := id, crockGt := now, crock := en.crock }) s

/-! ## Events of the leaf's own (R49, R73, R159, R285) -/

/-- The crock entries of a unit's change of state. -/
def stateCrock (c : Nat) (e : Option Nat) (cause old new : Nat) (g : GT) (s : State) : State :=
  let d := old * 2 ^ 33 + new * 2 ^ 30 + cause * 2 ^ 26
  match e with
  | some k => crockPut c k 6 (((coreOf s c).map fun co => (engOf co k).lCur).getD none) d g s
  | none => crockCore c 6 d g s

/-- The crock entries of an advance, one for each engine of the domain that the leaf has. -/
def genCrock (cl : Nat) (unit : BitVec 16) (domain : Nat) (old : BitVec 8) (g : GT) (s : State) : State :=
  let d := domain * 2 ^ 33 + old.toNat
  let c := unit.toNat / 8
  let e := unit.toNat % 8
  if domain = 0 then crockPut c e 10 (((coreOf s c).map fun co => (engOf co e).lCur).getD none) d g s
  else if domain = 1 then crockCore c 10 d g s
  else ((allCores s).filter fun k => decide (clusterOf k = cl)).foldl (fun s k => crockCore k 10 d g s) s

/-- The leaf stamps an event of its own: its crock entries, and its place among the events. -/
def stampOwn (cl : Nat) (ev : LeafEvent) (s : State) : State :=
  let g := leafNow s cl
  addEvent cl g ev (match ev with
    | .word c (.stateChange e cause old new _) => stateCrock c (e.map (·.toNat)) cause.toNat old.toNat new.toNat g s
    | .gen unit domain _ old => genCrock cl unit domain old g s
    | _ => s)

/-- An event of the leaf's own waits while its interpolator stamps nothing (R49). -/
def leafOwn (cl : Nat) (ev : LeafEvent) (s : State) : State :=
  if leafValid s cl then stampOwn cl ev s else modLeaf cl (fun l => { l with own := l.own ++ [ev] }) s

/-- A leaf whose interpolator is valid again stamps what has waited. -/
def ownDue (cl : Nat) (s : State) : State :=
  match (tget cl s.leaves).map (·.own) with
  | some (a :: l) =>
    if leafValid s cl then
      (a :: l).foldl (fun s ev => stampOwn cl ev s) (modLeaf cl (fun l => { l with own := [] }) s)
    else s
  | _ => s

/-- A unit changes state: its shim reports it over the link, and of a core whose clock is stopped the leaf makes the event
itself (R73, R159); between QUIET and WAKE the stream holds nothing for the core (R177). -/
def noteState (c : Nat) (e : Option Nat) (cause old new : Nat) (t : GT) (s : State) : State :=
  let k := UpKind.stateChange (e.map (BitVec.ofNat 3)) (BitVec.ofNat 4 cause) (BitVec.ofNat 4 old) (BitVec.ofNat 4 new) t
  if betweenQuiet s c then s
  else if ((coreOf s c).map (·.clockStopped)).getD false then leafOwn (clusterOf c) (.word c k) s
  else upPush c k s

/-- Withdraw an engine's standing edge; a withdrawal is never lost (R358, R360). -/
def withdrawEdge (c e : Nat) (s : State) : State :=
  match (coreOf s c).map fun co => engOf co e with
  | none => s
  | some en => match en.edge with
    | none => s
    | some w =>
      let s := modEng c e (fun x => { x with edge := none }) s
      { s with hang := { s.hang with flight := s.hang.flight ++ [.withdraw c e w.gen w.serial] } }

/-- A core enters a state in which no edge stands: its engines' edges are withdrawn (R359). -/
def withdrawCore (c : Nat) (s : State) : State := (List.range 8).foldl (fun s e => withdrawEdge c e s) s

/-- The core returns to RUN or STOPPED: time toward BLOCK_GT starts again (R359). -/
def restartBlock (c : Nat) (s : State) : State :=
  let now := hubGt s
  modCore c (fun co => { co with engs := co.engs.map fun en => { en with blockFrom := now } }) s

end Sys2Proof.Machine
end

