-- ==== Sys2Proof/Machine/Access.lean ====
section
/-!
DEFINITION. What the shim's state access and the dump engine share (chapters 03, 09): the access gate (R106), the core
descriptor (R284), the words of a crock (R287), a core under test (R430), and the sections of a dump that a reset or a
closing gate omits (R307, R308).
-/
namespace Sys2Proof.Machine

/-! ## The access gate (R106, R430) -/

def allStopped (co : Core) : Bool := (enginesOf co).all fun e => decide ((engOf co e).st = .stopped)

/-- R106. While the core is HARD_STOPPED, QUIET or RESETTING, the shim serves no access. -/
def gateOpen (co : Core) : Bool :=
  match co.st with
  | .fenced => true
  | .stale => true
  | .active => allStopped co || ((enginesOf co).any fun e => (engOf co e).named || (engOf co e).incomplete)
  | _ => false

/-- A test runs on the core (R425 to R430). -/
def underTest (s : State) (c : Nat) : Bool := s.test.jobs.any fun j => decide (j.core = c ∧ j.phase ≠ .pending)

/-- The shim serves state accesses of the core now. -/
def accessible (s : State) (c : Nat) : Bool :=
  (((coreOf s c).map fun co => gateOpen co && !co.quietDone).getD false) && !underTest s c

/-! ## The descriptor (Table 09.3) -/

def scrubs (co : Core) : Bool := bit (descWordOf co 1) 63
def coreType (co : Core) : BitVec 16 := fieldB 16 (descWordOf co 0) 32
def spacePresent (co : Core) (n : Nat) : Bool := bit (descWordOf co (6 + n)) 63
def spacePerEngine (co : Core) (n : Nat) : Bool := bit (descWordOf co (6 + n)) 62
def spaceData (co : Core) (n : Nat) : Bool := bit (descWordOf co (6 + n)) 61
def spaceWritable (co : Core) (n : Nat) : Bool := bit (descWordOf co (6 + n)) 60

/-- Words of a space, zero where it is absent; spaces 15 and 16 hold 64. -/
def spaceSize (co : Core) (n : Nat) : Nat :=
  if n = 15 ∨ n = 16 then 64 else if spacePresent co n then bits (descWordOf co (6 + n)) 31 0 else 0

/-! ## The crock as read (R287) -/

/-- The 64 words of an engine's crock, oldest first; entries of a secure or privileged context are zero without INCL. -/
def crockWords (incl : Bool) (en : Engine) : List Word :=
  List.replicate (2 * (32 - en.crock.length)) 0 ++
    en.crock.flatMap fun x => if x.marked && !incl then [0, 0] else [x.w0, x.w1]

def crockZeroed (incl : Bool) (en : Engine) : Bool := !incl && en.crock.any (·.marked)

/-! ## Omitting sections of active dumps (R307, R308) -/

/-- A section of a core's spaces or chains. -/
def ofCoreSpace (x : Section) : Bool := decide (x.type = 0x30 ∨ x.type = 0x31 ∨ x.type = 0x50 ∨ x.type = 0x51)

def sectBusy (x : Section) : Bool := decide (x.stat = .reading ∨ x.stat = .writing)

def returnCredit (core : Nat) (s : State) : State :=
  { s with dumps := { s.dumps with credits := s.dumps.credits.modify (partOf core) (· + 1) } }

def ofSection (id : BitVec 16) (i : Nat) (p : Purpose) : Bool :=
  match p with
  | .dumpData d j _ => decide (d = id ∧ j = i)
  | .dumpHeader d j => decide (d = id ∧ j = i)
  | _ => false

def modDump (id : BitVec 16) (f : Dump → Dump) (s : State) : State :=
  { s with dumps := { s.dumps with list := modFirst (fun d => d.id == id) f s.dumps.list } }

def modSect (id : BitVec 16) (i : Nat) (f : Section → Section) (s : State) : State :=
  modDump id (fun d => { d with sections := d.sections.modify i f }) s

/-- The jobs of a core that serve a section of a dump end; the word of the one in front may still be outstanding. -/
def dropJobs (c : Nat) (p : BitVec 16 → Nat → Bool) (s : State) : State :=
  let hit := fun (j : AccessJob) => match j.serves with | .dump id i => p id i | _ => false
  modCore c (fun co => { co with jobs := (co.jobs.zipIdx.filterMap fun q =>
    if !hit q.1 then some q.1
    else if q.2 = 0 && co.saBusy then some { q.1 with serves := .nobody, remaining := 1 } else none) }) s

/-- Drop what a section holds: its credit, its chunk's writes and what was read of it. -/
def dropSection (id : BitVec 16) (i : Nat) (x : Section) (s : State) : State :=
  let s := if sectBusy x && decide (x.type ≠ 0x40) && (ofCoreSpace x || decide (x.type = 0x20)) then returnCredit x.core s else s
  dropJobs x.core (fun d k => decide (d = id ∧ k = i)) (hmCancel (ofSection id i) s)

/-- Mark a section to be written as omitted. -/
def omitSection (id : BitVec 16) (cause : Nat) (s : State) (q : Section × Nat) : State :=
  modSect id q.2 (fun x => { x with
    stat := .omitting cause, status := 1, cause := cause, body := [], sent := 0, pend := 0, len := 0, failed := 0,
    firstFail := 0, scanBits := 0, scanCount := 0 }) (dropSection id q.2 q.1 s)

def sectOpen (x : Section) : Bool :=
  match x.stat with
  | .due => true | .reading => true | .writing => true | _ => false

def dumpLive (d : Dump) : Bool := decide (d.st = .active ∨ d.st = .parked)

/-- Omit the open sections of every live dump that satisfy a test. -/
def omitSections (p : Section → Bool) (cause : Nat) (s : State) : State :=
  (s.dumps.list.filter dumpLive).foldl (fun s d =>
    (d.sections.zipIdx.filter fun q => sectOpen q.1 && p q.1).foldl (omitSection d.id cause) s) s

/-- The crock section of a core that a rung has begun to reset is dumped all the same, whatever becomes of its gate (R307). -/
def keepCrock (c : Nat) (s : State) : State :=
  { s with dumps := { s.dumps with list := s.dumps.list.map fun d => { d with
    sections := d.sections.map fun x => if x.type = 0x20 ∧ x.core = c then { x with kept := true } else x } } }

/-- A scan pass is given up with its core. -/
def stopScan (c : Nat) (s : State) : State :=
  modCore c (fun co => if co.scan.isNone then co else { co with
    scan := none, scanRun := none, scanMode := false, scanSe := false, funcClkEn := decide (co.st ≠ .hardStopped)
    downQ := co.downQ.filter (fun w => decide (w ≠ .scan)), downWait := co.downWait.filter fun w => decide (w ≠ .scan) }) s

/-- R307: a rung from 3 to 5 starts on a core; a rung 2 on one engine. -/
def preemptCore (c : Nat) (s : State) : State :=
  stopScan c (keepCrock c (omitSections (fun x => ofCoreSpace x && decide (x.core = c)) 4 s))
def preemptEngine (c e : Nat) (s : State) : State :=
  match coreOf s c with
  | none => s
  | some co => keepCrock c (omitSections (fun x => decide ((x.type = 0x31 ∨ x.type = 0x50) ∧ x.core = c ∧ x.eng = e) &&
      spacePerEngine co x.space) 4 s)

/-- A section that the core's access gate opens: of its spaces, its chains or its crock (R287). -/
def gated (x : Section) : Bool := ofCoreSpace x || (decide (x.type = 0x20) && !x.kept)

/-- R308: the core's access gate may have closed for any other reason. -/
def closeGate (c : Nat) (s : State) : State :=
  if ((coreOf s c).map gateOpen).getD false then s
  else omitSections (fun x => gated x && decide (x.core = c)) 5 s

/-- A live dump holds unwritten sections of a core (R282, R423). -/
def dumpHolds (s : State) (c : Nat) : Bool :=
  s.dumps.list.any fun d => dumpLive d && d.sections.any fun x => decide (x.phase ≠ 0 ∧ x.core = c) &&
    (ofCoreSpace x || decide (x.type = 0x20)) && decide (x.stat ≠ .done)

/-- R531: dumps accepted under a principal's grant redact what they have not yet written. -/
def dumpsLoseIncl (who : Principal) (s : State) : State :=
  { s with
    dumps := { s.dumps with
      list := s.dumps.list.map fun d => if d.who = some who then { d with incl := false } else d } }

/-! ## One access at the port (R107, R108) -/

/-- Send down the request for the next word of the job in front. -/
def raiseAccess (c : Nat) (s : State) : State :=
  match (coreOf s c).bind fun co => co.jobs.head? with
  | none => s
  | some j => downPush c
      (.access j.write j.space j.eng (BitVec.ofNat 32 (j.first + j.got.length)) (j.wdata.getD j.got.length 0) j.gen)
      (modCore c (fun co => { co with saBusy := true }) s)

/-- Queue a job; the access begins at once where none is in front of it. -/
def queueJob (c : Nat) (j : AccessJob) (s : State) : State :=
  let idle := ((coreOf s c).map fun co => co.jobs.isEmpty && !co.saBusy).getD false
  let s := modCore c (fun co => { co with jobs := co.jobs ++ [j] }) s
  if idle then raiseAccess c s else s

end Sys2Proof.Machine
end

