-- ==== Sys2Proof/Machine/Cut.lean ====
section
/-!
DEFINITION. Stops and the cut (chapter 08): accepting a cut, arming and stopping its units, the record, its completion,
RESUME; the rind's part in a cut.
-/
namespace Sys2Proof.Machine

/-! ## Finding cuts and entries (R261 to R263) -/

def activeCut (s : State) (id : BitVec 32) : Option Cut := s.cuts.active.find? fun x => x.id == id
def keptCut (s : State) (id : BitVec 32) : Option Cut := (s.cuts.active ++ s.cuts.ended).find? fun x => x.id == id

def modCut (id : BitVec 32) (f : Cut → Cut) (s : State) : State :=
  { s with cuts := { s.cuts with
    active := modFirst (fun x => x.id == id) f s.cuts.active
    ended := modFirst (fun x => x.id == id) f s.cuts.ended } }

/-- The active cut that claims a core. -/
def cutOf (s : State) (c : Nat) : Option Cut := ((coreOf s c).bind (·.claim)).bind (activeCut s)

/-- The stop instant of the cut that holds a core. -/
def claimT (s : State) (c : Nat) : GT := ((cutOf s c).map (·.t)).getD 0

/-- A cut is in force from T on (R243). -/
def cutInForce (s : State) (x : Cut) : Bool := decide (x.t ≤ hubGt s)

/-- One exception entry (Table 08.6). -/
def excEntry (unit : BitVec 16) (kind state : Nat) (gen : BitVec 8) (detail : Nat) : Word :=
  pk [(48, 16, unit.toNat), (44, 4, kind), (41, 3, state), (32, 8, gen.toNat), (0, 32, detail)]

/-- Entries that every kept record holds (R262). -/
def poolUsed (s : State) : Nat := ((s.cuts.active ++ s.cuts.ended).map fun x => x.entries.length).foldl (· + ·) 0

/-- The last entry of the older ended record that holds one gives way. -/
def evictEntry (s : State) : Option State :=
  match (s.cuts.ended.reverse.find? fun x => !x.entries.isEmpty) with
  | none => none
  | some x => some (modCut x.id (fun y => { y with entries := y.entries.dropLast, truncated := true }) s)

/-- Add an entry to a cut's record: 8,192 a record, 16,384 in all (R262, R263). -/
def cutEntry (id : BitVec 32) (w : Word) (s : State) : State :=
  match keptCut s id with
  | none => s
  | some x =>
    let kind := bits w 47 44
    let s := modCut id (fun y => { y with
      total := y.total + 1, half := y.half || decide (kind = 7), carried := y.carried || decide (kind = 8)
      epoch := y.epoch || decide (kind = 14) }) s
    if 8192 ≤ x.entries.length then modCut id (fun y => { y with truncated := true }) s
    else if poolUsed s < 16384 then modCut id (fun y => { y with entries := y.entries ++ [w] }) s
    else match evictEntry s with
      | some s => modCut id (fun y => { y with entries := y.entries ++ [w] }) s
      | none => modCut id (fun y => { y with truncated := true }) s

def coreGen (s : State) (c : Nat) : BitVec 8 := ((coreOf s c).map (·.gen)).getD 0
def engGen (s : State) (c e : Nat) : BitVec 8 := ((coreOf s c).map fun co => (engOf co e).gen).getD 0

/-- An entry for a core, and for an engine. -/
def coreEntry (id : BitVec 32) (c kind state detail : Nat) (s : State) : State :=
  cutEntry id (excEntry (coreAddr c) kind state (coreGen s c) detail) s
def engEntry (id : BitVec 32) (c e kind state detail : Nat) (s : State) : State :=
  cutEntry id (excEntry (engAddr c e) kind state (engGen s c e) detail) s

/-! ## The record (Tables 08.4, 08.5, R264) -/

def cutFlags (x : Cut) : Nat :=
  b2n (!x.consistent) + 2 * b2n x.unverified + 4 * b2n x.unaligned + 8 * b2n x.stretch + 16 * b2n (!x.rind) +
    32 * b2n x.truncated + 64 * b2n x.cancelled + 128 * b2n (x.origin && x.system) + 256 * b2n x.answered +
    512 * b2n x.half + 1024 * b2n x.carried

def cutResult (x : Cut) : BitVec 8 :=
  if x.cancelled then rOk
  else if !x.consistent then rLateCut
  else if 0 < x.engIncomplete ∨ 0 < x.chipsIncomplete then rIncomplete
  else if 0 < x.missing then rPartial else rOk

/-- RIND_MODE of a compute link. -/
def rindMode (s : State) (x : Cut) (n : Nat) : Nat :=
  if !s.ties.linkPresent.getLsbD n then 3 else if !x.rind then 0
  else if s.ties.linkUntagged.getLsbD n && !(s.rind.links.getD n {}).closed then 2 else 1

/-- XCHIP_UNVERIFIED (R259). -/
def cutUnverified (s : State) (x : Cut) : Bool :=
  x.unverified || (x.rind && (List.range 16).any fun n =>
    decide (rindMode s x n = 2) || decide ((x.links.getD n {}).untagged ≠ 0))

def cutHeader (s : State) (x : Cut) : List Word :=
  let x := { x with unverified := cutUnverified s x }
  [pk [(32, 32, x.id.toNat), (8, 16, cutFlags x), (0, 8, (cutResult x).toNat)], wn x.t, wn x.accept, wn (x.done.getD 0),
   pk [(48, 16, (chipOf s).toNat), (47, 1, b2n x.hard), (36, 4, ((x.timeState.getD 0)).toNat), (0, 32, x.watchdog)],
   pk [(32, 32, x.engStopped), (0, 32, x.lates.length)], pk [(32, 32, x.engIncomplete), (0, 32, x.coresExcluded)],
   pk [(48, 16, x.coresHard), (32, 16, sgn 16 x.maxSkew), (0, 32, x.total)]] ++
  ((List.range 16).map fun n =>
    let l := x.links.getD n {}
    pk [(62, 2, rindMode s x n), (61, 1, b2n l.leaked), (20, 20, l.held.toNat), (0, 20, l.untagged.toNat)]) ++
  [pk [(32, 32, x.reported.length), (0, 32, x.missing)], pk [(32, 32, x.chipsLate), (0, 32, x.chipsIncomplete)],
   0, 0, 0, 0, 0, 0]

/-! ## Leads (R240, R241) -/

def defaultWatchdog (w : BitVec 32) : Nat := if w = 0 then 4000000 else w.toNat
def watchdogBad (w : BitVec 32) : Bool := decide (w ≠ 0) && decide (w.toNat < 40000 ∨ 4000000000 < w.toNat)

def leastLead (s : State) (others : Bool) : Nat :=
  if others then 640 * ((s.time.diam.map (·.toNat)).getD 0) + 8000 else 384
def defaultLead (s : State) (others : Bool) : Nat := if others then leastLead s true else 1000

/-- The instant a TFORM and its value name. -/
def instantOf (s : State) (others tform : Bool) (v : Word) : GT :=
  if tform then hubGt s + (if v = 0 then defaultLead s others else v.toNat) else v.toNat

def leadShort (s : State) (others : Bool) (t : GT) : Bool := decide (t < hubGt s + leastLead s others)

def instantBad (s : State) (others : Bool) (t : GT) : Bool := leadShort s others t || decide (hubGt s + 2 ^ 40 < t)

/-- A set reaching other chips needs a diameter and an aligned hub (R241, R55). -/
def systemBusy (s : State) (others : Bool) : Bool :=
  others && (s.time.diam.isNone || decide (s.time.state = .free ∨ s.time.state = .calibrating))

/-- The Vendor service acts on this chip only (Table 17.5). -/
def vendorAway (s : State) (via : Via) (a m : UnitAddr) : Bool :=
  decide (whoOf s via = some .vendor) && namesOther s a m

/-- The chips of a list that the set names besides this one. -/
def othersOf (s : State) (chips : List (BitVec 16)) (a m : UnitAddr) : List (BitVec 16) :=
  (chips.filter fun c => decide (c ≠ chipOf s) && (decide (m >>> 16 = 0) || decide (c = (a >>> 16).setWidth 16))).eraseDups

/-- The chips of the set that the most recent START tree reached (R265). -/
def chipsNamed (s : State) (a m : UnitAddr) : List (BitVec 16) := othersOf s s.time.tree a m

/-! ## The rind's arm (R256, R258) -/

/-- The test of R256: the tag belongs to a departure at or after T. -/
def postTag (g t : GT) (tag : BitVec 20) : Bool :=
  if g < t + 2 ^ 18 then decide ((tag - BitVec.ofNat 20 t).toNat < 2 ^ 19) else true

/-- Links whose last passed tag is post-cut when the rind is armed. -/
def armRind (s : State) (t : GT) : List CutLink :=
  s.rind.links.zipIdx.map fun p =>
    let judged := s.ties.linkPresent.getLsbD p.2 && !s.ties.linkUntagged.getLsbD p.2 && !p.1.closed
    { leaked := judged && (match p.1.lastTag with | none => false | some tag => postTag (hubGt s) t tag) }

/-- The active cuts in which the rind takes part. -/
def rindCuts (s : State) : List Cut := s.cuts.active.filter (·.rind)

/-- Release the held links when no cut holds them any more (R277). -/
def releaseRind (s : State) : State :=
  if (rindCuts s).isEmpty then
    { s with rind := { s.rind with links := s.rind.links.map fun l =>
      if l.held then { l with held := false, releases := l.releases + 1 } else l } } else s

/-! ## Floods and reports (R246, R265, R456, R458) -/

def stopFlood (op : Nat) (hard : Bool) (id : BitVec 32) (t : GT) (a m : UnitAddr) (watchdog : Nat) (w4 w5 : Word)
    (s : State) : State :=
  originateFlood (mkFrame s 0 0x10 0 1
    [pk [(56, 8, op), (55, 1, b2n hard), (0, 32, id.toNat)], wn t, a ++ m, pk [(0, 32, watchdog)], w4, w5] 48) s

/-- A REPORT frame to the origin of a flood. -/
def sendReport (id : BitVec 32) (kind : Nat) (ws : List Word) (s : State) : State :=
  let p := wn kind :: ws
  sendFrame (mkFrame s ((id >>> 16).setWidth 16) 0x33 0 1 p (8 * p.length)) s

/-! ## Completion (R248, R264, R265) -/

/-- The time state at T, taken at the first row of the cut at or after T. -/
def noteT (id : BitVec 32) (s : State) : State :=
  modCut id (fun x =>
    if x.timeState.isNone && decide (x.t ≤ hubGt s) then
      { x with timeState := some (BitVec.ofNat 4 (timeStateCode s.time.state))
               unaligned := x.unaligned || (x.system && decide (s.time.state ≠ .locked)) }
    else x) s

/-- Result code of a step (R274). -/
def stepCode (r : StepRun) : BitVec 8 :=
  if r.epoch then rEpochBoundary else if r.late then rLateCut else if r.incomplete then rIncomplete
  else if r.no then rPartial else rOk

/-- Raise CUT_COMPLETE, and STEP_COMPLETE for the cut of a TIME step (R271, R274). -/
def raiseCut (id : BitVec 32) (s : State) : State :=
  match keptCut s id with
  | none => s
  | some x =>
    let s := raiseEvent 0x0010 0 ((cutHeader s x).take 8) x.owner (cutResult x) (modCut id (fun y => { y with complete := true }) s)
    match x.byStep with
    | none => s
    | some (n, o) =>
      raiseEvent 0x0011 0 [id.setWidth 64, wn n] o (if x.epoch then rEpochBoundary else cutResult x) s

/-- Every named chip has reported. -/
def allReported (x : Cut) : Bool := x.named.all fun c => decide (c ∈ x.reported)

/-- The record of a part that is done: the origin raises the event once every named chip has reported; another hub sends
its header. -/
def concludeCut (id : BitVec 32) (s : State) : State :=
  match keptCut s id with
  | none => s
  | some x =>
    if !x.origin then sendReport id 0 (cutHeader s x) (modCut id (fun y => { y with complete := true }) s)
    else if !x.system || allReported x then raiseCut id s else s

/-- This chip's part is done. In basic service its record waits for the firmware (R506). -/
def completeCut (id : BitVec 32) (s : State) : State :=
  match activeCut s id with
  | none => s
  | some x =>
    if x.done.isSome then s else
    let s := noteT id (modCut id (fun y => { y with done := some (hubGt s) }) s)
    let s := stageCut (((activeCut s id).map (cutHeader s)).getD []) s
    if basic s then s else concludeCut id s

/-- Firmware has returned and adopted the state area: the cuts that wait for it are concluded, those that have ended
meanwhile among them (R279, R506). -/
def concludeCuts (s : State) : State :=
  (s.cuts.active ++ s.cuts.ended).foldl (fun s x =>
    if x.done.isSome && !x.complete && !x.cancelled then concludeCut x.id s else s) s

/-- A cut ends on the chip: its claims go, its record becomes the most recent ended one, the rind releases (R262, R277). -/
def endCut (id : BitVec 32) (s : State) : State :=
  match activeCut s id with
  | none => s
  | some x =>
    let s := { s with
      cores := tmap (fun _ co => if co.claim = some id then { co with claim := none, arm := none } else co) s.cores
      cuts := { s.cuts with
        active := eraseFirst (fun y => y.id == id) s.cuts.active, ended := (x :: s.cuts.ended).take 2 } }
    releaseRind s

/-- The cut has nothing left to stop or to release on this chip. -/
def cutOver (s : State) (x : Cut) : Bool :=
  x.done.isSome && cutInForce s x && x.stopped.isEmpty && x.leaves.isEmpty && x.resumes.isEmpty && x.timeStep.isNone

def endIfOver (id : BitVec 32) (s : State) : State :=
  match activeCut s id with
  | none => s
  | some x => if cutOver s x then endCut id s else s

/-- A cluster's part: every named core is heard of, and no engine is still SOFT_STOPPING but on a core that has left. -/
def leafDone (x : Cut) (cl : Nat) : Bool :=
  x.unheard.all (fun c => decide (clusterOf c ≠ cl)) && x.soft.all fun q => decide (clusterOf q.1 ≠ cl ∨ q.1 ∈ x.left)

/-- The leaf reports its part once it is complete. -/
def cutProgress (id : BitVec 32) (cl : Nat) (s : State) : State :=
  match activeCut s id with
  | none => s
  | some x =>
    if cl ∈ x.leaves ∧ ¬ cl ∈ x.reports ∧ leafDone x cl = true then
      modCut id (fun y => { y with reports := y.reports ++ [cl] }) s
    else s

/-- LEAF_CUT_REPORT: a leaf's report reaches the hub; the last one completes this chip's part. -/
def execLeafCutReport (cluster : ClusterIx) (id : BitVec 32) (s : State) : Host.Outcome State Fault Refusal :=
  let cl := cluster.toNat
  .next (match activeCut s id with
    | none => s
    | some x =>
      if cl ∈ x.reports ∧ serving s = true then
        let s := noteT id (modCut id (fun y => { y with
          reports := y.reports.filter (· ≠ cl), leaves := y.leaves.filter (· ≠ cl) }) s)
        if x.leaves.filter (· ≠ cl) = [] then endIfOver id (completeCut id s) else s
      else s)

/-! ## Accepting a cut (R243, R244, R246, R260, R262) -/

/-- A part without a core of this chip is complete at T, and takes the time state of that instant (R54, R56, R265). -/
def bareCutDone (id : BitVec 32) (s : State) : State :=
  match activeCut s id with
  | none => s
  | some x =>
    let s := noteT id s
    if x.cores = [] ∧ x.leaves = [] ∧ x.done.isNone ∧ cutInForce s x = true then endIfOver id (completeCut id s) else s

/-- The cuts whose T has come, at a beat of GT. -/
def cutsDue (s : State) : State :=
  if serving s then s.cuts.active.foldl (fun s x => bareCutDone x.id s) s else s

/-- Apply an ARM on this chip. Cores that belong to another cut stay in it, which only a flood can meet (log entry 62). -/
def acceptCut (x : Cut) (s : State) : State :=
  let all := coresIn s x.addr x.mask
  let cs := all.filter fun c => ((coreOf s c).map fun co => co.claim.isNone).getD false
  let x := { x with
    cores := cs, unarmed := cs, unheard := cs, leaves := (cs.map clusterOf).eraseDups
    rind := decide (all ≠ [] ∧ all = allCores s) }
  let links := if x.rind then armRind s x.t else List.replicate 16 {}
  let x := { x with links := links, consistent := links.all fun l => !l.leaked }
  let s := { s with cuts := { s.cuts with active := s.cuts.active ++ [x] } }
  let s := modCores cs (fun co => { co with claim := some x.id }) s
  bareCutDone x.id s

def newCutId (s : State) : BitVec 32 := chipOf s ++ s.cuts.next

/-- A cut as it stands before it is applied on this chip. -/
def bareCut (id : BitVec 32) (a m : UnitAddr) (hard : Bool) (t : GT) (watchdog : Nat) (owner : Owner) (origin system : Bool)
    (who : Option Principal) (s : State) : Cut :=
  { id := id, addr := a, mask := m, hard := hard, t := t, watchdog := watchdog, accept := hubGt s, owner := owner
    origin := origin, system := system, cores := [], unarmed := [], unheard := [], leaves := [], who := who
    named := if origin && system then chipsNamed s a m else [] }

/-- Originate a cut: number it, apply it here and send the stop flood where the set names other chips. -/
def originateCut (a m : UnitAddr) (hard : Bool) (t : GT) (watchdog : Nat) (owner : Owner) (who : Option Principal)
    (s : State) : State :=
  let id := newCutId s
  let others := namesOther s a m
  let x := bareCut id a m hard t watchdog owner true others who s
  let s := acceptCut x { s with cuts := { s.cuts with next := nextSeq s.cuts.next } }
  if others then stopFlood 0 hard id t a m watchdog 0 0 s else s

/-- A core of the set belongs to a cut already (R243). -/
def claimed (s : State) (a m : UnitAddr) : Bool :=
  (coresIn s a m).any fun c => ((coreOf s c).map fun co => co.claim.isSome).getD false

/-- STOP_AT ARM. -/
def execStopAtArm (via : Via) (a m : UnitAddr) (hard tform : Bool) (t : Word) (watchdog : BitVec 32) (s : State) :
    Host.Outcome State Fault Refusal :=
  .next (command via 0x0030 (.stopAtArm via a m hard tform t watchdog) false
    (fun s =>
      let others := namesOther s a m
      [(denied s via .opPlatVen (if hard then .invasive else .observe) || vendorAway s via a m, rDenied),
       (setBadArg s a m 1 true || watchdogBad watchdog ||
         (!(others && s.time.diam.isNone) && instantBad s others (instantOf s others tform t)), rBadArg),
       (setBadUnit s a m 1, rBadUnit), (systemBusy s others || claimed s a m, rBusy),
       (decide (16 ≤ s.cuts.active.length), rNoResource)])
    (fun s =>
      let at_ := instantOf s (namesOther s a m) tform t
      let id := newCutId s
      respond via rPending [id.setWidth 64, wn at_]
        (originateCut a m hard at_ (defaultWatchdog watchdog) (ownerOf s via) (whoOf s via) s)) s)

/-- Withdraw a pending cut: its record carries OK with CANCELLED (R245). -/
def cancelCut (id : BitVec 32) (s : State) : State :=
  let s := modCut id (fun x => { x with
    cancelled := true, done := some (hubGt s), timeState := some (BitVec.ofNat 4 (timeStateCode s.time.state)) }) s
  endCut id s

def execStopAtCancel (via : Via) (id : BitVec 32) (s : State) : Host.Outcome State Fault Refusal :=
  .next (command via 0x0030 (.stopAtCancel via id) false
    (fun s =>
      let late := match activeCut s id with
        | none => true
        | some x => decide (x.t < hubGt s + leastLead s x.system)
      [(denied s via .opPlatVen .observe, rDenied), ((keptCut s id).isNone, rBadArg), (late, rBusy)])
    (fun s =>
      let s1 := respond via rOk [] s
      match activeCut s id with
      | none => s1
      | some x =>
        let s1 := if x.system then stopFlood 1 false id 0 x.addr x.mask 0 0 0 s1 else s1
        raiseCut id (cancelCut id s1)) s)

def execStopAtReport (via : Via) (id first : BitVec 32) (s : State) : Host.Outcome State Fault Refusal :=
  .next (command via 0x0030 (.stopAtReport via id first) false
    (fun s =>
      let bad := match keptCut s id with
        | none => true
        | some x => decide (first ≠ 0) && decide (x.entries.length ≤ first.toNat)
      [(denied s via .opPlatVen .observe, rDenied), (bad, rBadArg)])
    (fun s => match keptCut s id with
      | none => respond via rBadArg [] s
      | some x => respond via rOk (cutHeader s x ++ (x.entries.drop first.toNat).take 448) s) s)

/-! ## Arming and stopping the cores (R97 to R102, R251 to R255) -/

/-- A core left out of the stop: FENCED, STALE, QUIET or RESETTING (R34). -/
def excludedNow (co : Core) : Bool := !coreInService co || decide (coreReports co = 7)

/-- The shim drops its arm, and the holds that it raised for it where the core is in service. -/
def dropArm (co : Core) : Core :=
  { (if coreInService co then lowerHolds co else co) with arm := none, armStretch := false, holdsUp := false }

/-- The shim has brought a unit of the core to a stop. -/
def shimStopped (co : Core) : Bool :=
  decide (co.st = .hardStopped) ||
    (enginesOf co).any fun e => decide ((engOf co e).st = .stopped ∨ (engOf co e).st = .softStopping)

/-- The leaf counts a core as excluded, with its state `st` at T (R254). -/
def excludeCore (id : BitVec 32) (c st : Nat) (s : State) : State :=
  let s := coreEntry id c 3 st 0 s
  cutProgress id (clusterOf c) (modCut id (fun x => { x with
    unarmed := x.unarmed.filter (· ≠ c), unheard := x.unheard.filter (· ≠ c), excluded := x.excluded ++ [c]
    coresExcluded := x.coresExcluded + 1 }) s)

/-- Bring one engine to SOFT_STOPPING or STOPPED by its command in flight. -/
def stopEngine (cause : Nat) (t : GT) (c : Nat) (s : State) (e : Nat) : State :=
  match coreOf s c with
  | none => s
  | some co =>
    let en := engOf co e
    if en.st = .run then
      let st := if en.cur.isSome then EngState.softStopping else .stopped
      noteState c (some e) cause 0 (if en.cur.isSome then 1 else 2) t (modEng c e (fun x => { x with st := st, hold := true }) s)
    else s

/-- The engines of a core that are SOFT_STOPPING. -/
def softMask (co : Core) : BitVec 8 :=
  (List.range 8).foldl (fun b e => setBit b e (decide ((engOf co e).st = .softStopping))) 0

/-- The stop takes effect at the shim, `late` on arrival, and is reported over the link. -/
def stopCore (c : Nat) (hard late : Bool) (t : GT) (at_ : Option GT) (s : State) : State :=
  match coreOf s c with
  | none => s
  | some co =>
    let freeze := hard && decide (c ∈ scanGroup s)
    let cause := if late then 8 else 0
    let s := if freeze then
        noteState c none cause (coreReports co) 3 t (withdrawCore c
          (modCore c (fun x => { raiseHolds x with st := .hardStopped, funcClkEn := false }) s))
      else (enginesOf co).foldl (stopEngine cause t c) (modCore c raiseHolds s)
    match coreOf s c with
    | none => s
    | some co2 =>
      closeGate c <| upPush c (.stopped (if freeze then 0 else softMask co2) (if late then co.ties.engPresent else 0) co2.tok co2.dat
          co2.old co2.epoch co2.armStretch freeze at_)
        (modCore c (fun x => { x with arm := none, armStretch := false, holdsUp := !freeze }) s)

/-- Steering units with exactly one half present: DETAIL of HALF_PRESENT. -/
def halfDetail (units tok dat : BitVec 4) : Nat :=
  let half := (tok ^^^ dat) &&& units
  (dat &&& half).toNat * 16 + (tok &&& half).toNat

/-- CARRIED entries of a core (R273). -/
def carried (id : BitVec 32) (c st : Nat) (old : List (BitVec 6)) (epoch : BitVec 8) (s : State) : State :=
  (old.zipIdx).foldl (fun s p =>
    if p.1 = 0 then s
    else cutEntry id (excEntry (engAddr c p.2) 8 st (coreGen s c) (epoch.toNat * 2 ^ 24 + p.1.toNat)) s) s

/-- The entries for a core's steering at its stop: HALF_PRESENT and CARRIED (R270, R273). -/
def steerEntries (id : BitVec 32) (c st : Nat) (units tok dat : BitVec 4) (old : List (BitVec 6)) (epoch : BitVec 8)
    (s : State) : State :=
  let half := halfDetail units tok dat
  carried id c st old epoch (if half = 0 then s else coreEntry id c 7 st half s)

/-- A DETAIL that gives GT from T, saturating (R252). -/
def satDetail (n : Int) : Nat := if n < 0 then 0 else satN 32 n.toNat

/-- The leaf answers for a core whose clock is stopped (R255): its engines stop by the leaf's word. -/
def answerCore (id : BitVec 32) (c : Nat) (co : Core) (t : GT) (s : State) : State :=
  let busy := (enginesOf co).filter fun e => decide ((engOf co e).lRep ≠ 0)
  let detail := (busy.map fun e => 2 ^ e).foldl (· + ·) 0
  let s := coreEntry id c 6 (coreReports co) detail s
  let s := steerEntries id c (if busy = [] then 2 else 1) co.ties.steerPresent co.tok co.dat co.old co.epoch s
  let s := (enginesOf co).foldl (fun s e =>
    let en := engOf co e
    if en.st = .run then
      let soft := decide (en.lRep ≠ 0)
      noteState c (some e) 0 0 (if soft then 1 else 2) t
        (modEng c e (fun x => { x with st := if soft then .softStopping else .stopped }) s)
    else s) s
  let s := downPush c (.restartArm id) (modCore c (fun x => { x with answered := true }) s)
  cutProgress id (clusterOf c) (modCut id (fun x => { x with
    answered := true, unarmed := x.unarmed.filter (· ≠ c), unheard := x.unheard.filter (· ≠ c)
    stopped := x.stopped ++ [c], soft := x.soft ++ busy.map fun e => (c, e)
    engStopped := x.engStopped + ((enginesOf co).length - busy.length) }) s)

/-- LEAF_STOP_ARM: the leaf's GT has reached T − 256; it arms the core with its stop cycle `n` (R97), and from T on it takes
a core that is out of service then as excluded (R254). -/
def execLeafStopArm (core : CoreIx) (cyc : Nat) (id : BitVec 32) (n : BitVec 32) (s : State) :
    Host.Outcome State Fault Refusal :=
  let c := core.toNat
  .next (match activeCut s id, coreOf s c with
    | some x, some co =>
      let g := leafGt s (clusterOf c) cyc
      if c ∈ x.unheard ∧ co.claim = some id ∧ leafValid s (clusterOf c) = true ∧ x.t ≤ g + 256 then
        if excludedNow co then
          if x.t ≤ g then excludeCore id c (coreReports co) (modCore c dropArm s) else s
        else if !decide (c ∈ x.unarmed) then s
        else if co.clockStopped then answerCore id c co x.t s
        else modCut id (fun x => { x with unarmed := x.unarmed.filter (· ≠ c) })
          (downPush c (.stopArm (stopCycle co x.t n) x.hard id) s)
      else s
    | _, _ => s)

/-- The stop instant of a cut. -/
def cutT (s : State) (id : BitVec 32) : GT := ((activeCut s id).map (·.t)).getD 0

/-- A core that took a fence, reset or gating before its stop is excluded at T (R33, R279). -/
def excludeArmed (c : Nat) (id : BitVec 32) (s : State) : State :=
  let s := modCore c dropArm s
  match activeCut s id with
  | none => s
  | some x => if c ∈ x.unheard then excludeCore id c (((coreOf s c).map coreReports).getD 0) s else s

/-- SHIM_ARM_RECEIVE: the shim reads its oldest arm: it latches N, or stops on arrival when N has passed (R100), or raises
every hold after a restart arm (R255); a sample arm waits for its cycle (R138). -/
def execShimArmReceive (core : CoreIx) (dc : Nat) (s : State) : Host.Outcome State Fault Refusal :=
  let c := core.toNat
  .next (if tapLive s c then
    let s := tapAdvance c dc s
    match coreOf s c with
    | none => s
    | some co => match if co.downRead then none else co.downQ.head? with
      | none => s
      | some w =>
        if !isArm w then s else
        let s := modCore c (fun x => { downPop x with downRead := true }) s
        match w with
        | .stopArm n hard id =>
          if (activeCut s id).isNone then s
          else if ccReached co.cc n then
            if excludedNow co then excludeArmed c id s else stopCore c hard true (cutT s id) none s
          else modCore c (fun x => { x with arm := some (n, hard, id), holdsUp := false }) s
        | .restartArm _ => modCore c raiseHolds s
        | .sampleArm n set k =>
          modCore c (fun x => { x with sampleArms := x.sampleArms ++ [(n, set, k, ccReached co.cc n)] }) s
        | _ => s
  else s)

/-- SHIM_HOLD_RAISE: from cycle N − 4, or the cycle after an arm read later, every hold of a soft stop is up (R101). -/
def execShimHoldRaise (core : CoreIx) (dc : Nat) (s : State) : Host.Outcome State Fault Refusal :=
  let c := core.toNat
  .next (if tapLive s c then
    let s := tapAdvance c dc s
    match coreOf s c with
    | none => s
    | some co => match co.arm with
      | none => s
      | some (n, hard, _) =>
        let frozen := hard && decide (c ∈ scanGroup s)
        if ccReached (co.cc + 4) n && !frozen && coreInService co then
          modCore c (fun x => { raiseHolds x with holdsUp := true }) s
        else s
  else s)

/-- SHIM_STOP_CYCLE: the core's cycle is N or later; `cyc` gives the leaf's stamp of it (R101, R102). -/
def execShimStopCycle (core : CoreIx) (dc cyc : Nat) (s : State) : Host.Outcome State Fault Refusal :=
  let c := core.toNat
  .next (if tapLive s c then
    let s := tapAdvance c dc s
    match coreOf s c with
    | none => s
    | some co => match co.arm with
      | none => s
      | some (n, hard, id) =>
        if !ccReached co.cc n then s
        else if excludedNow co then excludeArmed c id s
        else stopCore c hard false (cutT s id) (some (leafGt s (clusterOf c) cyc)) s
  else s)

/-! ## The leaf reads the reports (R250 to R252, R263, R272, R273) -/

/-- The leaf reads a core's stop report, stamped `stamp`. -/
def readStopped (c : Nat) (soft late : BitVec 8) (tok dat : BitVec 4) (old : List (BitVec 6)) (epoch : BitVec 8)
    (stretch hard : Bool) (at_ : GT) (s : State) : State :=
  match cutOf s c, coreOf s c with
  | some x, some co =>
    if !decide (c ∈ x.unheard) then s else
    let id := x.id
    let fresh := (onesOf late).filter fun e => !decide ((c, e) ∈ x.lates)
    let st := if hard then 3 else if soft ≠ 0 then 1 else 2
    let skew : Int := (at_ : Int) - x.t
    let es := enginesOf co
    let s := fresh.foldl (fun s e =>
      engEntry id c e 1 (if hard then 3 else if soft.getLsbD e then 1 else 2) (satDetail skew) s) s
    let s := if hard then coreEntry id c 5 3 (sgn 16 skew) s else s
    let s := if stretch then coreEntry id c 9 st (sgn 32 ((co.stretchAt : Int) - x.t)) s else s
    let s := steerEntries id c st co.ties.steerPresent tok dat old epoch s
    let softs := es.filter fun e => soft.getLsbD e
    cutProgress id (clusterOf c) (modCut id (fun y => { y with
      unheard := y.unheard.filter (· ≠ c), unarmed := y.unarmed.filter (· ≠ c)
      stopped := y.stopped.filter (· ≠ c) ++ [c]
      soft := y.soft ++ (softs.filter fun e => decide ((engOf co e).st ≠ .resetting)).map fun e => (c, e)
      consistent := y.consistent && decide (late = 0), stretch := y.stretch || stretch
      lates := y.lates ++ fresh.map fun e => (c, e)
      engStopped := y.engStopped + (es.length - softs.length)
      coresHard := y.coresHard + b2n hard
      maxSkew := if hard && decide (y.maxSkew.natAbs < skew.natAbs) then skew else y.maxSkew }) s)
  | _, _ => s

/-- The leaf learns that a SOFT_STOPPING engine is STOPPED (R248). -/
def readEngStopped (c e : Nat) (s : State) : State :=
  match cutOf s c with
  | none => s
  | some x =>
    if (c, e) ∈ x.soft then
      cutProgress x.id (clusterOf c) (modCut x.id (fun y => { y with
        soft := y.soft.filter (· ≠ (c, e)), engStopped := y.engStopped + 1 }) s)
    else s

/-- A stop is in progress on a core: its cut has armed it, or holds it (R96). -/
def stopRuns (x : Cut) (c : Nat) : Bool :=
  decide (c ∈ x.stopped) || (decide (c ∈ x.unheard) && !decide (c ∈ x.unarmed))

/-- The state a late unit of a core enters by the stop, where the core has not stopped yet. -/
def lateState (s : State) (x : Cut) (c st : Nat) : Nat :=
  if x.hard && decide (c ∈ scanGroup s) then 3 else if decide (c ∈ x.unheard) then 1 else st

/-- GT from T, or from the release of a step that runs, to a late begin or firing (R252, R274). -/
def lateBy (x : Cut) (stamp : GT) : Nat := satDetail ((stamp : Int) - ((x.step.map (·.release)).getD x.t))

/-- A unit is late: NOT_CONSISTENT, and LATE_CUT for a step that runs. -/
def markLate (id : BitVec 32) (s : State) : State :=
  modCut id (fun y => { y with consistent := false, step := y.step.map fun r => { r with late := true } }) s

/-- The leaf's STATE record with CAUSE 8 for a late unit that has stopped already; one that has not takes the cause with its
stop (R252). -/
def lateRecord (c : Nat) (e : Option Nat) (st : Nat) (x : Cut) (g : GT) (s : State) : State :=
  if c ∈ x.stopped then
    addEvent (clusterOf c) g
      (.word c (.stateChange (e.map (BitVec.ofNat 3)) 8 (BitVec.ofNat 4 st) (BitVec.ofNat 4 st) x.t)) (stateCrock c e 8 st st g s)
  else s

/-- A begin stamped at or after T on an engine under a stop, or one while held in any stop in progress, makes the engine LATE,
unless the step that runs released it (R96, R99, R252, R274). -/
def lateBegin (c e : Nat) (held : Bool) (stamp : GT) (s : State) : State :=
  match cutOf s c, coreOf s c with
  | some x, some co =>
    let released := (x.step.map fun r => decide ((c, e) ∈ r.relEngs)).getD false
    let after := decide (x.t ≤ stamp) && decide (c ∈ x.stopped ∨ c ∈ x.unheard)
    if !released && (after || (held && stopRuns x c)) then
      let st := lateState s x c (engReports co e)
      let s := engEntry x.id c e 1 st (lateBy x stamp) s
      lateRecord c (some e) st x stamp (markLate x.id (modCut x.id (fun y => { y with
        lates := if (c, e) ∈ y.lates then y.lates else y.lates ++ [(c, e)] }) s))
    else s
  | _, _ => s

/-- A firing at a steering unit that is held in a stop in progress, or stamped at or after T of one, is LATE, unless the step
that runs released the unit (R252, R274): an entry, not counted in ENG_LATE. -/
def lateSteering (c u : Nat) (held : Bool) (stamp : GT) (s : State) : State :=
  match cutOf s c, coreOf s c with
  | some x, some co =>
    let released := (x.step.map fun r => decide (c ∈ r.relCores) && r.steer.getLsbD u).getD false
    let after := decide (x.t ≤ stamp) && decide (c ∈ x.unheard)
    if !released && (after || (held && stopRuns x c)) then
      let st := lateState s x c (coreReports co)
      let s := cutEntry x.id (excEntry (engAddr c u) 1 st (coreGen s c) (lateBy x stamp)) s
      lateRecord c none st x stamp (markLate x.id s)
    else s
  | _, _ => s

/-- The command of an INCOMPLETE engine ends while the cut is in force, whether or not a step has released the engine since
(R250). -/
def endedLate (c e : Nat) (t : Tags) (s : State) : State :=
  match cutOf s c with
  | none => s
  | some x =>
    if c ∈ x.stopped ∧ ((coreOf s c).map fun co => (engOf co e).owed).getD false = true then
      closeGate c (modEng c e (fun en => { en with incomplete := false, owed := false })
        (engEntry x.id c e 10 2 (t.ctx.toNat * 2 ^ 16) s))
    else s

/-! ## Watchdog and deadline (R249, R265) -/

/-- Mark an engine INCOMPLETE: it enters STOPPED with its command in flight, its crock freezes. -/
def markIncomplete (id : BitVec 32) (c e cause old : Nat) (s : State) : State :=
  let t := ((coreOf s c).bind fun co => (engOf co e).cur).getD {}
  let s := engEntry id c e 2 1 (t.ctx.toNat * 2 ^ 16 + t.layer.toNat) s
  let s := noteState c (some e) cause old 2 0
    (modEng c e (fun en => { en with st := .stopped, incomplete := true, owed := true, hold := true, released := false }) s)
  let first := decide (((activeCut s id).map (·.engIncomplete)).getD 0 = 0)
  let s := freezeCrock c e (modCut id (fun y => { y with engIncomplete := y.engIncomplete + 1 }) s)
  if first then stageCrock c e 2 id s else s

/-- STOP_WATCHDOG_EXPIRY: each engine still SOFT_STOPPING is marked (R249). -/
def execStopWatchdogExpiry (id : BitVec 32) (s : State) : Host.Outcome State Fault Refusal :=
  .next (match activeCut s id with
    | none => s
    | some x =>
      if x.t + x.watchdog ≤ hubGt s then
        let late := x.soft.filter fun q =>
          ((coreOf s q.1).map fun co => decide ((engOf co q.2).st = .softStopping)).getD false
        let s := late.foldl (fun s q => markIncomplete id q.1 q.2 7 1 s) (noteT id s)
        let s := modCut id (fun y => { y with soft := [], engStopped := y.engStopped + late.length, watchdogDone := true }) s
        x.leaves.foldl (fun s cl => cutProgress id cl s) s
      else s)

/-- CUT_REPORT_DEADLINE: the origin raises the event with the missing chips counted. -/
def execCutReportDeadline (id : BitVec 32) (s : State) : Host.Outcome State Fault Refusal :=
  .next (match keptCut s id with
    | none => s
    | some x =>
      if x.origin && x.system && !x.complete && decide (x.t + x.watchdog + 4000000 ≤ hubGt s) && !basic s then
        raiseCut id (modCut id (fun y => { y with
          missing := y.refused + (y.named.filter fun c => !decide (c ∈ y.reported)).length }) s)
      else s)

/-- A chip's cut report reaches the origin (R265): `ws` is the header of its record. -/
def cutReported (src : BitVec 16) (ws : List Word) (s : State) : State :=
  let w0 := ws.getD 0 0
  let id := fieldB 32 w0 32
  match keptCut s id with
  | none => s
  | some x =>
    if x.origin && x.system && !x.complete && decide (src ∈ x.named) && !decide (src ∈ x.reported) then
      let code := fieldB 8 w0 0
      let s := modCut id (fun y =>
        if code = rNoResource then { y with reported := y.reported ++ [src], refused := y.refused + 1, missing := y.refused + 1 }
        else { y with
          reported := y.reported ++ [src]
          consistent := y.consistent && !bit w0 8, unverified := y.unverified || bit w0 9
          unaligned := y.unaligned || bit w0 10
          chipsLate := y.chipsLate + b2n (decide (code = rLateCut))
          chipsIncomplete := y.chipsIncomplete + b2n (decide (code = rIncomplete)) }) s
      match keptCut s id with
      | none => s
      | some y => if y.done.isSome && allReported y then raiseCut id s else s
    else s

/-! ## Leaving a cut (R263, R35) -/

/-- A core becomes FENCED or RESETTING while a cut is in force: `took` says that its stop had taken effect. A core that the
stop has not reached takes the fence or the reset instead and is EXCLUDED; another leaves the cut with LEFT (R33, R254, R263,
R279; log entry 87). -/
def leaveCut (c : Nat) (took : Bool) (s : State) : State :=
  match cutOf s c with
  | none => s
  | some x =>
    if cutInForce s x && decide (c ∈ x.stopped ∨ c ∈ x.unheard) then
      let st := ((coreOf s c).map coreReports).getD 0
      let s := modCore c (fun co => { co with arm := none }) s
      let s := if took || decide (c ∈ x.stopped) then
          cutProgress x.id (clusterOf c) (modCut x.id (fun y => { y with
            unarmed := y.unarmed.filter (· ≠ c), unheard := y.unheard.filter (· ≠ c), stopped := y.stopped.filter (· ≠ c)
            soft := y.soft.filter fun q => q.1 ≠ c }) (coreEntry x.id c 4 st 0 s))
        else excludeCore x.id c st s
      endIfOver x.id s
    else s

/-- A cut in force that names the core and has not released it (R35). -/
def stopsOnReturn (s : State) (c : Nat) : Option Cut :=
  match cutOf s c with
  | none => none
  | some x => if cutInForce s x && decide (c ∈ x.cores) then some x else none

/-- A core that wakes or leaves RESETTING under a cut in force enters STOPPED (R35): every engine of it but those a step has
released. Where its stop had not been reported it is excluded, with its state `st` at T (R254). -/
def enterStopped (c : Nat) (x : Cut) (st : Nat) (s : State) : State :=
  let s := if c ∈ x.unheard then excludeCore x.id c st s else s
  let s := modCore c (fun co => { raiseHolds co with
    arm := none
    engs := (raiseHolds co).engs.zipIdx.map fun p =>
      if engPresent co p.2 && !p.1.released && decide (p.1.st = .run) then { p.1 with st := .stopped } else p.1 }) s
  modCut x.id (fun y => { y with stopped := y.stopped.filter (· ≠ c) ++ [c] }) s

/-! ## Release and RESUME (R275 to R277) -/

/-- Release one core at the instant `at_`: engines and a frozen clock run again; holds fall, but those R103 requires, at the
release cycle of the core, which is mapped from the instant as a stop cycle is (R275); at once where the leaf has no map. -/
def releaseCore (cause : Nat) (epochToo : Bool) (at_ : GT) (c : Nat) (s : State) : State :=
  match coreOf s c with
  | none => s
  | some co =>
    let t := if cause = 1 then claimT s c else 0
    let s := if co.st = .hardStopped then
        restartBlock c (noteState c none cause 3 0 t (modCore c (fun x => { x with st := .active }) s))
      else s
    let s := (enginesOf co).foldl (fun s e =>
      if (engOf co e).st = .stopped then
        thawCrock c e (noteState c (some e) cause 2 0 t
          (modEng c e (fun x => { x with st := .run, incomplete := false, owed := false, released := false }) s))
      else s) s
    closeGate c (downPush c (.run epochToo (mapCycle co.map at_)) (modCore c (fun x => { x with answered := false }) s))

/-- The cores of a set that are stopped under a cut. -/
def stoppedIn (s : State) (x : Cut) (a m : UnitAddr) : List Nat := (coresIn s a m).filter fun c => decide (c ∈ x.stopped)

/-- A named unit is still SOFT_STOPPING. -/
def softIn (s : State) (x : Cut) (a m : UnitAddr) : Bool :=
  (enginesIn s a m).any fun q => decide (q.1 ∈ x.cores) &&
    ((coreOf s q.1).map fun co => decide ((engOf co q.2).st = .softStopping)).getD false

/-- Why a RESUME of a cut is refused at this chip, if it is: pending, SOFT_STOPPING, or a step running (R276). -/
def resumeBusy (s : State) (x : Cut) (a m : UnitAddr) : Bool :=
  !cutInForce s x || softIn s x a m || x.step.isSome || x.timeStep.isSome

def execResume (via : Via) (id : BitVec 32) (a m : UnitAddr) (tform : Bool) (r : Word) (s : State) :
    Host.Outcome State Fault Refusal :=
  .next (command via 0x0032 (.resume via id a m tform r) false
    (fun s =>
      let others := namesOther s a m
      let x := keptCut s id
      [(denied s via .opPlatVen .sealedLevel || vendorAway s via a m, rDenied),
       (setBadArg s a m 1 true || x.isNone || leadShort s others (instantOf s others tform r), rBadArg),
       (setBadUnit s a m 1, rBadUnit), ((x.map fun x => resumeBusy s x a m).getD false || (others && s.time.diam.isNone), rBusy)])
    (fun s =>
      let others := namesOther s a m
      let at_ := instantOf s others tform r
      let s1 := respond via rPending [] s
      let s1 := modCut id (fun x => { x with resumes := x.resumes ++ [(a, m, at_, some (ownerOf s via))] }) s1
      if others then stopFlood 2 false id at_ a m 0 0 0 s1 else s1) s)

/-- RESUME_RELEASE: the oldest release instant of the cut that is due. -/
def execResumeRelease (id : BitVec 32) (s : State) : Host.Outcome State Fault Refusal :=
  .next (match keptCut s id with
    | none => s
    | some x => match x.resumes.find? fun q => decide (q.2.2.1 ≤ hubGt s) with
      | none => s
      | some q =>
        let s := (stoppedIn s x q.1 q.2.1).foldl (fun s c => releaseCore 2 true q.2.2.1 c (modCut id (fun y => { y with
          stopped := y.stopped.filter (· ≠ c), cores := y.cores.filter (· ≠ c) }) s)) s
        let s := modCut id (fun y => { y with resumes := eraseFirst (fun z => z == q) y.resumes }) s
        let s := match q.2.2.2 with
          | some o => raiseEvent 0x0012 0 [id.setWidth 64, wn q.2.2.1] o 0 s
          | none => s
        endIfOver id s)

/-! ## The rind (R79, R256, R259, R410) -/

def modRind (n : Nat) (f : RindLink → RindLink) (s : State) : State :=
  { s with rind := { s.rind with links := s.rind.links.modify n f } }

/-- Count on a link in every cut in which the rind takes part. -/
def countLink (n : Nat) (f : CutLink → CutLink) (s : State) : State :=
  { s with cuts := { s.cuts with
    active := s.cuts.active.map fun x => if x.rind then { x with links := x.links.modify n f } else x } }

end Sys2Proof.Machine
end

