-- ==== Sys2Proof/Machine/Steps.lean ====
section
/-!
DEFINITION. Steps inside a cut (chapter 08, "Steps").
-/
namespace Sys2Proof.Machine

/-- The set lies within the cut's set (R267). -/
def setWithin (a m : UnitAddr) (x : Cut) : Bool := decide (m &&& x.mask = x.mask) && decide (a &&& x.mask = x.addr)

def modStep (id : BitVec 32) (f : StepRun → StepRun) (s : State) : State :=
  modCut id (fun x => { x with step := x.step.map f }) s

/-- The step ends once no released unit lacks an outcome (R274). -/
def stepFinish (id : BitVec 32) (s : State) : State :=
  match activeCut s id with
  | none => s
  | some x => match x.step with
    | none => s
    | some r =>
      if r.engs = [] ∧ r.fires = [] then
        raiseEvent 0x0011 0 [id.setWidth 64, wn r.num] r.owner (stepCode r) (modCut id (fun y => { y with step := none }) s)
      else s

/-- A released engine is back in STOPPED, its hold raised. -/
def stepStop (c e : Nat) (s : State) : State :=
  match coreOf s c with
  | none => s
  | some co =>
    let old := (engOf co e).st
    let s := modEng c e (fun en => { en with st := .stopped, hold := true, released := false, stepBegun := false }) s
    if old = .run then noteState c (some e) 1 0 2 (claimT s c) s else s

/-- An engine takes its outcome: entry of `kind` with DETAIL, and the step's own flag. -/
def engineOutcome (id : BitVec 32) (c e kind detail : Nat) (no : Bool) (s : State) : State :=
  let s := engEntry id c e kind 2 detail (stepStop c e s)
  stepFinish id (modStep id (fun r => { r with
    engs := r.engs.filter (fun q => decide (¬ (q.1 = c ∧ q.2.1 = e))), no := r.no || no }) s)

/-- Release an engine for one command (R104, R268). -/
def releaseEngine (cause : Bool) (c e : Nat) (s : State) : State :=
  let s := modEng c e (fun en => { en with
    st := .run, released := true, stepBegun := false, oldCmd := en.lCur.isSome, incomplete := false }) s
  let s := if cause then noteState c (some e) 1 2 0 (claimT s c) (thawCrock c e s) else s
  closeGate c s

/-- The command of a released engine has ended, tags `t` (R268 to R270): its outcome, or the next round; none follows once an
epoch boundary has ended the step for the cluster (R272). -/
def stepEngineEnd (id : BitVec 32) (r : StepRun) (c e : Nat) (t : Tags) (s : State) : State :=
  let done := engineOutcome id c e 11 (t.ctx.toNat * 2 ^ 16) false
  if r.form ≠ .context ∨ t.ctx = r.ctx ∨ clusterOf c ∈ r.ended then done s
  else
    let left := ((coreOf s c).map fun co => (engOf co e).rounds).getD 0
    if left ≤ 1 then engineOutcome id c e 12 0 true s
    else
      let s := downPush c (.release (setBit 0 e true) 0)
        (modEng c e (fun en => { en with rounds := left - 1 }) (releaseEngine false c e s))
      modStep id (fun q => { q with engs := q.engs.map fun x =>
        if x.1 = c ∧ x.2.1 = e then (c, e, hubGt s + q.bound) else x }) s

/-- The leaf reads the END of a command of core `c`, engine `e`: of the command that the step's release found in flight, or of
the one it let begin. -/
def stepReadEnd (c e : Nat) (t : Tags) (s : State) : State :=
  match cutOf s c with
  | none => s
  | some x => match x.step with
    | none => s
    | some r =>
      let flag := fun (k : Engine → Bool) => ((coreOf s c).map fun co => k (engOf co e)).getD false
      if flag (·.oldCmd) then modEng c e (fun en => { en with oldCmd := false }) s
      else if flag (·.stepBegun) && r.engs.any (fun q => decide (q.1 = c ∧ q.2.1 = e)) then stepEngineEnd x.id r c e t s else s

/-- Every named unit of a core's steering has fired, or some have not: the core's outcome (R270). -/
def steerOutcome (id : BitVec 32) (c : Nat) (s : State) : State :=
  match coreOf s c with
  | none => s
  | some co =>
    let left := co.stNamed &&& ~~~co.stFired
    let ok := decide (left = 0)
    let s := if ok then coreEntry id c 11 2 co.stFired.toNat s
      else coreEntry id c 13 2 ((co.dat &&& left).toNat * 16 + (co.tok &&& left).toNat) s
    let s := modCore c (fun x => { x with stHold := x.ties.steerPresent, stReleased := 0 }) s
    stepFinish id (modStep id (fun r => { r with fires := r.fires.filter (· ≠ c), no := r.no || !ok }) s)

/-- The leaf reads that released units of a core have fired. -/
def stepReadFired (c : Nat) (s : State) : State :=
  match cutOf s c, coreOf s c with
  | some x, some co => match x.step with
    | none => s
    | some r => if c ∈ r.fires ∧ co.stNamed &&& ~~~co.stFired = 0 then steerOutcome x.id c s else s
  | _, _ => s

/-! ## Epoch boundary (R105, R272) -/

/-- The entry EPOCH of a core. -/
def epochEntry (id : BitVec 32) (s : State) (c : Nat) : State :=
  coreEntry id c 14 2 ((((coreOf s c).map fun co => co.epoch.toNat)).getD 0 * 2 ^ 24) s

/-- The leaf ends the step for a cluster: the reporting core takes EPOCH, every other released unit what it has. In a TIME
step the released cores of the cluster are held until T', and each has an entry EPOCH. -/
def epochEnd (c : Nat) (epoch : BitVec 8) (s : State) : State :=
  match cutOf s c with
  | none => s
  | some x =>
    let cl := clusterOf c
    match x.step with
    | some r =>
      let s := coreEntry x.id c 14 2 (epoch.toNat * 2 ^ 24) (modStep x.id (fun q => { q with
        epoch := true, ended := if cl ∈ q.ended then q.ended else q.ended ++ [cl] }) s)
      let s := (r.fires.filter fun k => decide (clusterOf k = cl)).foldl (fun s k => steerOutcome x.id k s) s
      let s := (r.engs.filter fun q => decide (clusterOf q.1 = cl)).foldl (fun s q =>
        let begun := ((coreOf s q.1).map fun co => (engOf co q.2.1).stepBegun).getD false
        if begun then modEng q.1 q.2.1 (fun en => { en with hold := true }) s
        else engineOutcome x.id q.1 q.2.1 12 0 true s) s
      stepFinish x.id s
    | none =>
      if x.timed && !cutInForce s x && !decide (cl ∈ x.epochs) then
        (x.cores.filter fun k => decide (clusterOf k = cl)).foldl (fun s k => shimEpochHold k (epochEntry x.id s k))
          (modCut x.id (fun y => { y with epochs := y.epochs ++ [cl] }) s)
      else s

/-! ## Judging a step (R267) -/

def stepBoundBad (b : BitVec 32) : Bool := decide (b ≠ 0) && decide (b.toNat < 4000 ∨ 4000000000 < b.toNat)
def stepBound (b : BitVec 32) : Nat := if b = 0 then 4000000 else b.toNat

/-- BUSY of R267 for a step of the given form over this chip's units. -/
def stepBusy (s : State) (x : Cut) (a m : UnitAddr) (time others : Bool) : Bool :=
  let cs := stoppedIn s x a m
  let hard := cs.filter fun c => ((coreOf s c).map fun co => decide (co.st = .hardStopped)).getD false
  let able := (enginesIn s a m).any fun q => decide (q.1 ∈ x.stopped) &&
    ((coreOf s q.1).map fun co => decide (co.st = .active ∧ (engOf co q.2).st = .stopped)).getD false
  !cutInForce s x || x.step.isSome || x.timeStep.isSome || softIn s x a m || (!time && !hard.isEmpty) ||
    (!others && !able && !(time && !hard.isEmpty))

/-- The checks all forms share, in the order of R14. -/
def stepChecks (via : Via) (id : BitVec 32) (a m : UnitAddr) (lvl : Nat) (time bad : Bool) (s : State) :
    List (Bool × BitVec 8) :=
  let x := keptCut s id
  let others := namesOther s a m
  [(time && others && levelThree s via, rVersion),
   (denied s via .opPlatVen .invasive || (time && vendorAway s via a m), rDenied),
   (x.isNone || setBadArg s a m lvl time || !((x.map (setWithin a m)).getD false) || bad, rBadArg),
   (setBadUnit s a m lvl, rBadUnit), ((x.map fun x => stepBusy s x a m time others).getD false, rBusy)]

/-- Engines of the set that are STOPPED under the cut. -/
def stoppedEngines (s : State) (x : Cut) (a m : UnitAddr) : List (Nat × Nat) :=
  (enginesIn s a m).filter fun q => decide (q.1 ∈ x.stopped) &&
    ((coreOf s q.1).map fun co => decide (co.st = .active ∧ (engOf co q.2).st = .stopped)).getD false

/-- The release set of a core goes down in one word, so that its holds fall in one cycle (R104). -/
def sendRelease (engs : List (Nat × Nat)) (cores : List Nat) (steer : BitVec 4) (s : State) (c : Nat) : State :=
  let mask := (engs.filter fun q => decide (q.1 = c)).foldl (fun b q => setBit b q.2 true) (0 : BitVec 8)
  let units := ((coreOf s c).map fun co => if c ∈ cores then steer &&& co.ties.steerPresent else 0).getD 0
  downPush c (.release mask units) s

/-- Begin a step: its number, PENDING, and the releases. -/
def beginStep (via : Via) (id : BitVec 32) (form : StepForm) (engs : List (Nat × Nat)) (cores : List Nat) (steer : BitVec 4)
    (ctx : BitVec 16) (rounds bound : Nat) (s : State) : State :=
  let num := s.cuts.stepNum
  let owner := ownerOf s via
  let now := hubGt s
  let s := respond via rPending [wn num] { s with cuts := { s.cuts with stepNum := num + 1 } }
  let s := modCut id (fun x => { x with step := some {
    num := num, form := form, ctx := ctx, rounds := rounds, bound := bound, steer := steer, owner := owner, release := now
    engs := engs.map fun q => (q.1, q.2, now + bound), fires := cores, relEngs := engs, relCores := cores } }) s
  let s := engs.foldl (fun s q => modEng q.1 q.2 (fun en => { en with rounds := rounds }) (releaseEngine true q.1 q.2 s)) s
  let s := cores.foldl (fun s c => modCore c (fun co => { co with
    stNamed := steer &&& co.ties.steerPresent, stFired := 0 }) s) s
  ((engs.map Prod.fst ++ cores).eraseDups).foldl (sendRelease engs cores steer) s

/-- STEP FORM COMMAND (R268). -/
def execStepCommand (via : Via) (id : BitVec 32) (a m : UnitAddr) (bound : BitVec 32) (s : State) :
    Host.Outcome State Fault Refusal :=
  .next (command via 0x0031 (.stepCommand via id a m bound) false (fun s => stepChecks via id a m 0 false (stepBoundBad bound) s)
    (fun s => match activeCut s id with
      | none => respond via rBusy [] s
      | some x => beginStep via id .command (stoppedEngines s x a m) [] 0 0 1 (stepBound bound) s) s)

/-- STEP FORM CONTEXT (R269). -/
def execStepContext (via : Via) (id : BitVec 32) (a m : UnitAddr) (ctx rounds : BitVec 16) (bound : BitVec 32) (s : State) :
    Host.Outcome State Fault Refusal :=
  .next (command via 0x0031 (.stepContext via id a m ctx rounds bound) false
    (fun s => stepChecks via id a m 0 false (stepBoundBad bound || decide (rounds = 0)) s)
    (fun s => match activeCut s id with
      | none => respond via rBusy [] s
      | some x => beginStep via id .context (stoppedEngines s x a m) [] 0 ctx rounds.toNat (stepBound bound) s) s)

/-- STEP FORM FIRING (R270). -/
def execStepFiring (via : Via) (id : BitVec 32) (a m : UnitAddr) (steer : BitVec 4) (withEng : Bool) (bound : BitVec 32)
    (s : State) : Host.Outcome State Fault Refusal :=
  .next (command via 0x0031 (.stepFiring via id a m steer withEng bound) false
    (fun s => stepChecks via id a m 1 false (stepBoundBad bound || decide (steer = 0)) s)
    (fun s => match activeCut s id with
      | none => respond via rBusy [] s
      | some x =>
        let cs := (stoppedEngines s x a m).map Prod.fst |>.eraseDups
        let es := if withEng then stoppedEngines s x a m else []
        beginStep via id .firing es cs steer 0 1 (stepBound bound) s) s)

/-- Apply a TIME step on this chip: the new cut is pending, its claim waits for R (R271). -/
def armTimeStep (old new : BitVec 32) (a m : UnitAddr) (r : GT) (x : Cut) (s : State) : State :=
  let cs := (coresIn s a m).filter fun c => ((activeCut s old).map fun y => decide (c ∈ y.stopped)).getD false
  let x := { x with
    timed := true, cores := cs, unarmed := cs, unheard := cs, leaves := (cs.map clusterOf).eraseDups
    rind := decide (coresIn s a m ≠ [] ∧ coresIn s a m = allCores s) }
  let links := if x.rind then armRind s x.t else List.replicate 16 {}
  let x := { x with links := links, consistent := links.all fun l => !l.leaked }
  let s := { s with cuts := { s.cuts with active := s.cuts.active ++ [x] } }
  bareCutDone new (modCut old (fun y => { y with timeStep := some (new, a, m, r) }) s)

/-- STEP FORM TIME (R271). -/
def execStepTime (via : Via) (id : BitVec 32) (a m : UnitAddr) (delta : Word) (s : State) :
    Host.Outcome State Fault Refusal :=
  .next (command via 0x0031 (.stepTime via id a m delta) false
    (fun s => stepChecks via id a m 1 true (decide (delta.toNat < 64 ∨ 2 ^ 40 < delta.toNat)) s ++
      [(decide (16 ≤ s.cuts.active.length), rNoResource)])
    (fun s => match activeCut s id with
      | none => respond via rBusy [] s
      | some x =>
        let others := namesOther s a m
        let r := hubGt s + defaultLead s others
        let num := s.cuts.stepNum
        let new := newCutId s
        let owner := ownerOf s via
        let y := { bareCut new a m x.hard (r + delta.toNat) x.watchdog owner true others (whoOf s via) s with
          byStep := some (num, owner) }
        let s := respond via rPending [wn num, new.setWidth 64]
          { s with cuts := { s.cuts with stepNum := num + 1, next := nextSeq s.cuts.next } }
        let s := armTimeStep id new a m r y s
        if others then stopFlood 3 x.hard id r a m x.watchdog delta (new.setWidth 64) s else s) s)

/-- The named cores pass from the old cut to the new one at R (R271): its claim takes over, also on those that were stopped
after the step was accepted. -/
def takeOver (old new : BitVec 32) (cs : List Nat) (s : State) : State :=
  let s := modCut new (fun y =>
    let more := cs.filter fun c => !decide (c ∈ y.cores)
    { y with
      cores := y.cores ++ more, unarmed := y.unarmed ++ more, unheard := y.unheard ++ more
      leaves := (y.leaves ++ more.map clusterOf).eraseDups }) s
  modCores (((activeCut s new).map (·.cores)).getD []) (fun co =>
    if co.claim.all (fun k => decide (k = old)) then { co with claim := some new } else co) s

/-- TIME_STEP_RELEASE: at R the named cores run and pass from the old cut to the new one. -/
def execTimeStepRelease (id : BitVec 32) (s : State) : Host.Outcome State Fault Refusal :=
  .next (match activeCut s id with
    | none => s
    | some x => match x.timeStep with
      | none => s
      | some (new, a, m, r) =>
        if r ≤ hubGt s then
          let cs := stoppedIn s x a m
          let s := cs.foldl (fun s c => releaseCore 1 false r c s) s
          let s := takeOver id new cs s
          let s := modCut id (fun y => { y with
            stopped := y.stopped.filter (fun c => !decide (c ∈ cs)), cores := y.cores.filter (fun c => !decide (c ∈ cs))
            timeStep := none }) s
          endIfOver id s
        else s)

/-- STEP_BOUND_EXPIRY: units whose bound has passed take NO_BEGIN, INCOMPLETE or NO_FIRE (R268, R270). -/
def execStepBoundExpiry (id : BitVec 32) (s : State) : Host.Outcome State Fault Refusal :=
  .next (match activeCut s id with
    | none => s
    | some x => match x.step with
      | none => s
      | some r =>
        let now := hubGt s
        let s := (r.engs.filter fun q => decide (q.2.2 ≤ now)).foldl (fun s q =>
          let begun := ((coreOf s q.1).map fun co => (engOf co q.2.1).stepBegun).getD false
          if begun then
            let s := markIncomplete id q.1 q.2.1 1 0 s
            modStep id (fun z => { z with
              incomplete := true, engs := z.engs.filter (fun y => decide (¬ (y.1 = q.1 ∧ y.2.1 = q.2.1))) }) s
          else engineOutcome id q.1 q.2.1 12 0 true s) s
        let s := if r.release + r.bound ≤ now then r.fires.foldl (fun s c => steerOutcome id c s) s else s
        stepFinish id s)

end Sys2Proof.Machine
end

