-- ==== Sys2Proof/Machine/Triggers.lean ====
section
/-!
DEFINITION. Comparators, matchers, guards, sequencers and cross-triggers (chapter 06), and the evaluation of a leaf's stamped
events in merge order with the records they write (R165, R194).
-/
namespace Sys2Proof.Machine

/-! ## Matching (R182, R183, R185, R188, R189) -/

def inRange (lo hi v : Nat) : Bool := decide (lo ≤ v ∧ v ≤ hi)

def cmpProg (b : LeafBlock) (i c e : Nat) (tgt : BitVec 24) : Bool :=
  let w := cmpWord b i 0
  decide (cmpKind b i = 1) && watchCore w c && watchEng w e &&
    (inRange (bits (cmpWord b i 1) 23 0) (bits (cmpWord b i 2) 23 0) tgt.toNat != bit w 32)

def cmpData (b : LeafBlock) (i c : Nat) (wr : Bool) (size : Nat) (addr : BitVec 32) (d : Word) : Bool :=
  let w := cmpWord b i 0
  let acc := bits w 35 34
  let lo := bits (cmpWord b i 1) 31 0
  let hi := bits (cmpWord b i 2) 31 0
  let last := addr.toNat + 2 ^ size - 1
  let touches := decide (lo ≤ hi ∧ addr.toNat ≤ hi ∧ lo ≤ last)
  decide (cmpKind b i = 2) && watchCore w c && (decide (acc = 2) || decide (acc = b2n wr)) && (touches != bit w 32) &&
    decide (d &&& cmpWord b i 4 = cmpWord b i 3 &&& cmpWord b i 4)

def masked (a m v : Nat) : Bool := decide (a &&& m = v &&& m)

def matchTags (b : LeafBlock) (i c e : Nat) (isEnd : Bool) (failed : Bool) (t : Tags) : Bool :=
  let w := tagWord b i 0
  let w1 := tagWord b i 1
  let w2 := tagWord b i 2
  let w3 := tagWord b i 3
  bit w (if isEnd then 63 else 62) && (!bit w 61 || (isEnd && failed)) && watchCore w c && watchEng w e &&
    masked t.ctx.toNat (bits w2 63 48) (bits w1 63 48) && masked t.layer.toNat (bits w2 47 32) (bits w1 47 32) &&
    masked t.op.toNat (bits w2 31 16) (bits w1 31 16) && masked t.seq.toNat (bits w3 31 0) (bits w3 63 32)

def matchGuard (b : LeafBlock) (i c e : Nat) (overwrite : Bool) (slot : BitVec 20) (t : Option Tags) : Bool :=
  let w := guardWord b i 0
  let w1 := guardWord b i 1
  let w2 := guardWord b i 2
  bit w (if overwrite then 63 else 62) && watchCore w c && watchEng w e &&
    inRange (bits w1 19 0) (bits w1 51 32) slot.toNat &&
    (match t with
     | none => decide (bits w2 15 0 = 0)
     | some g => masked g.ctx.toNat (bits w2 15 0) (bits w2 31 16))

/-- Source codes that an event of a core pulses, ascending (R180). -/
def sourcesOf (b : LeafBlock) (c : Nat) (k : UpKind) : List Nat :=
  match k with
  | .prog e _ _ br tgt => if br then (List.range 16).filter fun i => cmpProg b i c e.toNat tgt else []
  | .data _ _ wr size addr d => (List.range 16).filter fun i => cmpData b i c wr size.toNat addr d
  | .crossing i e _ => if cmpCounter b i.toNat c e.toNat then [i.toNat] else []
  | .begin e t _ => ((List.range 8).filter fun i => matchTags b i c e.toNat false false t).map (16 + ·)
  | .fin e t st im _ _ _ => ((List.range 8).filter fun i => matchTags b i c e.toNat true (im || decide (st ≠ 0)) t).map (16 + ·)
  | .slotMark e t ov slot _ _ => ((List.range 4).filter fun i => matchGuard b i c e.toNat ov slot t).map (24 + ·)
  | _ => []

/-- The engine an event concerns. -/
def engineOf : UpKind → Option EngIx
  | .begin e _ _ => some e | .fin e _ _ _ _ _ _ => some e | .state e _ _ _ => some e | .prog e _ _ _ _ => some e
  | .data e _ _ _ _ _ => some e | .slotMark e _ _ _ _ _ => some e | .crossing _ e _ => some e
  | .error e _ _ _ _ _ => some e | .elem e _ _ _ => some e | .account e _ _ => some e
  | _ => none

def tagsOf : UpKind → Option Tags
  | .begin _ t _ => some t | .fin _ t _ _ _ _ _ => some t | .prog _ t _ _ _ => t | .data _ t _ _ _ _ => t
  | .slotMark _ t _ _ _ _ => t | .error _ t _ _ _ _ => t | .crossing _ _ t => t
  | _ => none

/-! ## Actions (R196 to R200) -/

/-- A pulse: its source, the unit it names, its stamp and the tags of that unit's command. -/
structure Pulse where
  src : Nat
  unit : Option (Nat × Nat)
  stamp : GT
  tags : Option Tags
deriving DecidableEq, Repr

/-- What a pulse leads to besides the state: gates to open and to close, counter-limit pulses. -/
structure Effects where
  opens : List (Nat × Nat) := []
  closes : List (Nat × Nat) := []
  limits : List Nat := []
deriving DecidableEq, Repr

def modSeq (cl q : Nat) (f : Seq → Seq) (s : State) : State := modTrig cl (fun t => { t with seqs := t.seqs.modify q f }) s
def seqDrop (cl q : Nat) (s : State) : State := modSeq cl q (fun x => { x with drops := satInc x.drops }) s

/-- The traced engines of a sequencer's trace set. -/
def traceSet (s : State) (cl : Nat) (w : Word) : List (Nat × Nat) :=
  (s.cores.filter fun p => decide (clusterOf p.1 = cl) && bit w (p.1 % 16)).flatMap fun p =>
    ((enginesOf p.2).filter fun e => bit w (16 + e) && traced s p.1 e).map fun e => (p.1, e)

/-- A MARK record (R198, R201). -/
def emitMark (cl src : Nat) (value : Nat) (unit : Option (Nat × Nat)) (tags : Option Tags) (stamp : GT) (w1 : Word)
    (s : State) : State :=
  if (sessionAt s cl).isNone || hiddenBy s cl tags then s else
  match unit with
  | some (c, e) => emitEng c e 7 src value stamp [w1] (closeProg c e none s)
  | none => emitCluster cl 7 src value stamp [w1] s

/-- EVENT: at most one per sequencer per 4,000 GT; not in basic service (R198, R207). -/
def actEvent (cl q st value : Nat) (stamp : GT) (s : State) : State :=
  let x := (trigOf s cl).seqs.getD q {}
  if basic s || (match x.lastEvent with | none => false | some t => decide (stamp < t + 4000)) then seqDrop cl q s
  else raiseEvent 0x0200 2 [(fullAddr s (clusterAddr cl)).setWidth 64, wn q, wn st, wn value, wn stamp, 0] {} 0
    (modSeq cl q (fun x => { x with lastEvent := some stamp }) s)

/-- STOP: ask the hub to stop SCOPE at T = G + LEAD. -/
def actStop (cl q st value : Nat) (hdr : Word) (stamp : GT) (s : State) : State :=
  if basic s then seqDrop cl q s
  else
    let b := (trigOf s cl).block
    { s with triggers := { s.triggers with stops := s.triggers.stops ++ [{
        cluster := cl, seq := q, state := st, value := BitVec.ofNat 16 value, stamp := stamp
        scope := bits hdr 53 52, hard := bit hdr 54, t := stamp + bits hdr 51 32, owner := b.owner, mailbox := b.mailbox }] } }

/-- Take the actions of transition word `w` of sequencer `q`, left from state `st`, in code order. -/
def takeActions (cl q st : Nat) (w : Word) (p : Pulse) (x : State × Effects) : State × Effects :=
  let b := (trigOf x.1 cl).block
  let hdr := seqWord b q 0
  let set := traceSet x.1 cl (seqWord b q 1)
  let value := bits w 31 16
  let x := if bit w 32 then (x.1, { x.2 with opens := x.2.opens ++ set }) else x
  let x := if bit w 33 then (x.1, { x.2 with closes := x.2.closes ++ set }) else x
  let x := if bit w 34 then
      (emitMark cl 0 value p.unit p.tags p.stamp (pk [(2, 3, st), (0, 2, q)]) x.1, x.2) else x
  let x := if bit w 35 then
      let n := ((trigOf x.1 cl).seqs.getD q {}).counter + 1
      if n.toNat = bits hdr 31 0 then
        (modSeq cl q (fun y => { y with counter := 0 }) x.1, { x.2 with limits := x.2.limits ++ [28 + q] })
      else (modSeq cl q (fun y => { y with counter := n }) x.1, x.2)
    else x
  let x := if bit w 36 then (actEvent cl q st value p.stamp x.1, x.2) else x
  let x := if bit w 37 then
      let r := armSkim cl p.stamp x.1
      (if r.1 && !basic x.1 then r.2 else seqDrop cl q x.1, x.2)
    else x
  let x := if bit w 38 then (actStop cl q st value hdr p.stamp x.1, x.2) else x
  if bit w 39 then
    if basic x.1 then (seqDrop cl q x.1, x.2)
    else ({ x.1 with triggers := { x.1.triggers with
      raises := x.1.triggers.raises ++ [(bits w 15 13, p.stamp, none)] } }, x.2)
  else x

/-- A transition fires on a pulse of `src` (R193). -/
def fires (w : Word) (latch : BitVec 40) (src : Nat) : Bool :=
  let a := bits w 62 57
  let b := bits w 56 51
  bit w 63 && (match bits w 50 49 with
    | 0 => decide (src = a)
    | 1 => (decide (src = a) && latch.getLsbD b) || (decide (src = b) && latch.getLsbD a)
    | 2 => decide (src = a ∨ src = b)
    | _ => decide (src = a) && !latch.getLsbD b)

/-- One sequencer meets one pulse: at most one transition; its latches clear when it takes one (R193, R194). -/
def seqPulse (cl : Nat) (p : Pulse) (x : State × Effects) (q : Nat) : State × Effects :=
  let t := trigOf x.1 cl
  if !bit (seqWord t.block q 0) 63 then x
  else
    let y := t.seqs.getD q {}
    let w0 := seqWord t.block q (2 + 2 * y.state)
    let w1 := seqWord t.block q (3 + 2 * y.state)
    let w := if fires w0 y.latch p.src then some w0 else if fires w1 y.latch p.src then some w1 else none
    match w with
    | none => (modSeq cl q (fun z => { z with latch := setBit z.latch p.src true }) x.1, x.2)
    | some w => takeActions cl q y.state w p
        (modSeq cl q (fun z => { z with latch := 0, state := bits w 48 46 }) x.1, x.2)

/-- The gates after a pulse: closed where any sequencer closed it, else open where any opened it (R197). -/
def applyGates (f : Effects) (s : State) : State :=
  let s := f.opens.foldl (fun s u => if u ∈ f.closes then s else setGate u.1 u.2 true s) s
  f.closes.foldl (fun s u => setGate u.1 u.2 false s) s

/-- Evaluate one pulse, then the counter-limit pulses it caused; a limit pulse emitted by a limit pulse is discarded and
counted (R195). The second result lists the gates opened. -/
def evalPulse (cl : Nat) (p : Pulse) (s : State) : State × List (Nat × Nat) :=
  let r := [0, 1, 2, 3].foldl (seqPulse cl p) (s, {})
  let s := applyGates r.2 r.1
  r.2.limits.foldl (fun (x : State × List (Nat × Nat)) src =>
    let r2 := [0, 1, 2, 3].foldl (seqPulse cl { p with src := src }) (x.1, {})
    let s := applyGates r2.2 r2.1
    (modTrig cl (fun t => { t with derived := satInc t.derived r2.2.limits.length }) s, x.2 ++ r2.2.opens)) (s, r.2.opens)

/-! ## The record of an event (R158, R159, R167, R187) -/

def sat32 (n : Nat) : Nat := satN 32 n

/-- The lowest DATA comparator with DTRACE that matched (R184). -/
def dtraceOf (b : LeafBlock) (c : Nat) (wr : Bool) (size : Nat) (addr : BitVec 32) (d : Word) : Option Nat :=
  (List.range 16).find? fun i => cmpData b i c wr size addr d && bit (cmpWord b i 0) 33

/-- LOST records of SOURCE LINK for the enabled kinds of a drop word (R167). -/
def linkLost (c : Nat) (first last : GT) (cmds progs datas : Nat) (s : State) : State :=
  let put := fun (kind n : Nat) (s : State) =>
    if 0 < n ∧ kindOn s (clusterOf c) kind = true ∧ tracedCore s c = true then
      let ws := lostRec 0 (coreAddr c) { first := first, last := last, count := n, kinds := 2 ^ kind }
      traceEmit (clusterOf c) { stamp := last, chain := false, w0 := ws.headD 0, rest := ws.drop 1 } s
    else s
  put 2 datas (put 1 progs (put 0 cmds s))

/-- Write the record of an event stamped `g` (Table 05.4), the engine's gate standing as it applies to this event. Instructions
that retire while the gate is closed are not counted (log entry 92). -/
def writeEvent (c : Nat) (k : UpKind) (g : GT) (s : State) : State :=
  match k with
  | .begin e t held =>
    if kindTraced s c e.toNat 0 (some t) then
      emitEng c e.toNat 2 (b2n held) t.ctx.toNat g [pk [(48, 16, t.layer.toNat), (32, 16, t.op.toNat), (0, 32, t.seq.toNat)]]
        (closeProg c e.toNat none s)
    else s
  | .fin e t st im busy stall _ =>
    if kindTraced s c e.toNat 0 (some t) then
      let sat := decide (2 ^ 32 ≤ busy.toNat ∨ 2 ^ 32 ≤ stall.toNat)
      emitEng c e.toNat 3 (4 * b2n sat + (if im then 3 else st.toNat)) t.ctx.toNat g
        [pk [(32, 32, sat32 busy.toNat), (0, 32, sat32 stall.toNat)]] (closeProg c e.toNat none s)
    else s
  | .prog e t ret br tgt =>
    if traced s c e.toNat && kindOn s (clusterOf c) 1 && gateOf s (c, e.toNat) then
      progWord c e.toNat ret.toNat br tgt t g s
    else s
  | .data e t wr size addr d =>
    match dtraceOf (trigOf s (clusterOf c)).block c wr size.toNat addr d with
    | none => s
    | some i =>
      if dataTraced s c e.toNat t then
        emitEng c e.toNat 6 (2 * size.toNat + b2n wr) (ctxField t) g
          [pk [(32, 4, i), (0, 32, addr.toNat)], d, match t with | none => 0 | some x => x.seq.setWidth 64] (closeProg c e.toNat none s)
      else s
  | .epoch old new viol tok dat oldtok =>
    if tracedCore s c then
      emitCore c 11 (b2n viol) (old.toNat * 256 + new.toNat) g
        [pk [(28, 4, dat.toNat), (24, 4, tok.toNat), (0, 24, oldtok.toNat)]] s
    else s
  | .quiet infl busy cc synth _ =>
    if tracedCore s c then
      emitCore c 9 (if synth then 3 else 0) infl.toNat g [wn g, busy.setWidth 64, cc.setWidth 64] s
    else s
  | .wake ret n cc since =>
    if tracedCore s c then
      let gated := match since with | none => 0xFFFFFFFFFFFFFFFF | some q => wn (g - q)
      emitCore c 10 (b2n ret) (satN 16 n) g [wn g, gated, cc.setWidth 64] s
    else s
  | .stateChange e cause old new t => emitState c (e.map (·.toNat)) cause.toNat old.toNat new.toNat t g s
  | _ => s

/-! ## Events in merge order -/

/-- The leaf's merge reaches the instant at which a block was loaded: later pulses meet the new block, every sequencer in INIT
with its counter at zero and its latches clear (R206). -/
def switchBlock (cl : Nat) (b : LeafBlock) (s : State) : State :=
  modTrig cl (fun t => { t with
    block := b
    seqs := t.seqs.zipIdx.map fun q => { q.1 with state := bits (seqWord b q.2 0) 62 60, counter := 0, latch := 0 } }) s

/-- Slot operations are counted whether or not a guard matches (R189), and a guard with REPORT sends an error (R191). -/
def slotReports (cl c : Nat) (k : UpKind) (g : GT) (s : State) : State :=
  match k with
  | .slotMark e t ov slot peer peerV =>
    let s := modTrig cl (fun x => if ov then { x with overFull := satInc x.overFull }
      else { x with readEmpty := satInc x.readEmpty }) s
    let b := (trigOf s cl).block
    let hits := (List.range 4).filter fun i => matchGuard b i c e.toNat ov slot t && bit (guardWord b i 0) 61
    let own := ctxField t
    let other := if peerV then peer.toNat else 0xFFFF
    let detail := pk [(63, 1, b2n ov), (62, 1, b2n (if ov then t.isSome else peerV)), (61, 1, b2n (if ov then peerV else t.isSome)),
      (32, 20, slot.toNat), (16, 16, if ov then own else other), (0, 16, if ov then other else own)]
    hits.foldl (fun s _ =>
      countPolicies c g true 1 1
        (leafReport cl (errRec g 2 1 1 t (engAddr c e.toNat) (engGen s c e.toNat) 0 0 detail) 1 (some (c % 16)) s)) s
  | _ => s

/-- Evaluate one event: its pulses first, then its record (R194, R197). -/
def evalEvent (cl : Nat) (g : GT) (ev : LeafEvent) (s : State) : State :=
  match ev with
  | .session p => takeSession cl p g s
  | .load b => switchBlock cl b s
  | .word c k =>
    let s := slotReports cl c k g s
    let unit := (engineOf k).map fun e => (c, e.toNat)
    let was := (unit.map (gateOf s)).getD false
    let srcs := sourcesOf (trigOf s cl).block c k
    let r := srcs.foldl (fun (x : State × List (Nat × Nat)) i =>
      let y := evalPulse cl { src := i, unit := unit, stamp := g, tags := tagsOf k } x.1
      (y.1, x.2 ++ y.2)) (s, [])
    match unit with
    | none => writeEvent c k g r.1
    | some u =>
      let after := gateOf r.1 u
      let open_ := was || decide (u ∈ r.2)
      if open_ = after then writeEvent c k g r.1
      else modEng u.1 u.2 (fun en => { en with gate := after })
        (writeEvent c k g (modEng u.1 u.2 (fun en => { en with gate := open_ }) r.1))
  | .gen unit domain rung old => emitGen cl unit domain rung old g s
  | .pulse ch src origin =>
    let s := emitMark cl src ch none none g (pk [(48, 16, if src = 2 then origin.toNat else 0)]) s
    (evalPulse cl { src := 32 + ch, unit := none, stamp := g, tags := none } s).1

/-- The earliest stamp of the last words of the cluster's running links. -/
def linkBound (s : State) (cl : Nat) : Option GT :=
  let ls := (s.cores.filter fun p => decide (clusterOf p.1 = cl) && p.2.quietStamp.isNone && !p.2.clockStopped).map fun p => p.2.lastStamp
  match ls with
  | [] => none
  | a :: l => some (l.foldl min a)

/-- An event's turn has come: no event that goes before it can still arrive. A cross-trigger pulse waits for the local events
of its own stamp (R194). -/
def eventReady (bound : Option GT) (x : GT × LeafEvent) : Bool :=
  bound.all fun b => match x.2 with
    | .pulse _ _ _ => decide (x.1 < b)
    | _ => decide (x.1 ≤ b)

/-- Evaluate every event the bound allows, `n` at most. -/
def evalN : Nat → Option GT → Nat → State → State
  | 0, _, _, s => s
  | n + 1, bound, cl, s =>
    match (tget cl s.leaves).map (·.events) with
    | some ((g, e) :: rest) =>
      if eventReady bound (g, e) then
        evalN n bound cl (evalEvent cl g e (modLeaf cl (fun l => { l with events := rest }) s))
      else s
    | _ => s

/-- The leaf goes on with its merge: events, then records. -/
def leafMerge (cl : Nat) (s : State) : State :=
  let n := ((tget cl s.leaves).map fun l => l.events.length).getD 0
  traceFlush cl (evalN n (linkBound s cl) cl s)

/-! ## Requests at the hub (R200 to R203) -/

/-- Who a trigger's stop acts for, in the narrow way the hub needs it. -/
def stopSet (s : State) (x : StopAsk) : UnitAddr × UnitAddr :=
  if x.scope = 0 then (fullAddr s (clusterAddr x.cluster), 0xFFFFFF80)
  else if x.scope = 1 then (chipOf s ++ (0#16), 0xFFFF0000)
  else (0, 0)

/-- TRIGGER_STOP_REQUEST: the hub issues the oldest request as a STOP_AT, or discards and counts it. -/
def execTriggerStopRequest (s : State) : Host.Outcome State Fault Refusal :=
  .next (match s.triggers.stops with
    | [] => s
    | x :: l =>
      if serving s = false then s else
      let s := { s with triggers := { s.triggers with stops := l } }
      let u := stopSet s x
      let least := if x.hard then DebugLevel.invasive else .observe
      let lvl := if x.mailbox then s.protect.debug else s.narrow.level
      let code := if levelRank lvl < levelRank least then some rDenied
        else if basic s then some rDegraded
        else if claimed s u.1 u.2 || systemBusy s (namesOther s u.1 u.2) then some rBusy
        else if 16 ≤ s.cuts.active.length then some rNoResource else none
      match code with
      | none => originateCut u.1 u.2 x.hard x.t 4000000 {} x.owner s
      | some c =>
        raiseEvent 0x0200 2 [(fullAddr s (clusterAddr x.cluster)).setWidth 64, wn x.seq, wn x.state, x.value.setWidth 64,
          wn x.stamp, c.setWidth 64] {} 0 (seqDrop x.cluster x.seq s))

/-- Deliver a channel to the clusters of its set; `origin` is the chip of a trigger frame (R201, R202). -/
def deliverChannel (ch : Nat) (origin : Option (BitVec 16)) (s : State) : State :=
  let k := s.triggers.channels.getD ch {}
  let cls := if k.loaded then clustersIn s k.caddr k.cmask else []
  { s with triggers := { s.triggers with
    channels := s.triggers.channels.modify ch (fun x => { x with last := some (hubGt s) })
    deliveries := s.triggers.deliveries ++ cls.map fun cl => (cl, ch, (if origin.isSome then 2 else 1), origin.getD 0) } }

/-- CROSS_TRIGGER_RAISE: the oldest raise is delivered, or merged into one less than 256 GT old; a local raise also goes to
the channel's chips (R202, R203). -/
def execCrossTriggerRaise (s : State) : Host.Outcome State Fault Refusal :=
  .next (match s.triggers.raises with
    | [] => s
    | (ch, g, origin) :: l =>
      if serving s = false then s else
      let s := { s with triggers := { s.triggers with raises := l } }
      let k := s.triggers.channels.getD ch {}
      let merges := match k.last with | none => false | some t => decide (hubGt s < t + 256)
      if merges then { s with triggers := { s.triggers with
        channels := s.triggers.channels.modify ch (fun x => { x with merged := x.merged + 1 }) } }
      else
        let s := deliverChannel ch origin s
        if k.chips && origin.isNone && !basic s then
          originateFlood (mkFrame s 0 0x11 0 3 [wn ch, wn g, k.haddr ++ k.hmask] 24) s
        else s)

/-- CROSS_TRIGGER_DELIVER: a pulse reaches a leaf at its GT (R194, R201). -/
def execCrossTriggerDeliver (cluster : ClusterIx) (cyc : Nat) (s : State) : Host.Outcome State Fault Refusal :=
  let cl := cluster.toNat
  .next (match s.triggers.deliveries.find? fun d => decide (d.1 = cl) with
    | none => s
    | some d =>
      if leafValid s cl = false then s else
      let s := { s with triggers := { s.triggers with deliveries := eraseFirst (fun x => x == d) s.triggers.deliveries } }
      leafMerge cl (addEvent cl (leafGt s cl cyc) (.pulse d.2.1 d.2.2.1 d.2.2.2) s))

/-! ## COUNTER_CROSSING (R185) -/

/-- The shim sees a watched counter reach its threshold after having been below it; the tags are those of the command that the
present cycle belongs to (R88). -/
def execCounterCrossing (core : CoreIx) (eng : EngIx) (dc : Nat) (comparator : BitVec 4) (s : State) :
    Host.Outcome State Fault Refusal :=
  let c := core.toNat
  let e := eng.toNat
  .next (tapRow c dc 0 (fun s =>
    match coreOf s c with
    | none => s
    | some co =>
      let b := newestBlock s (clusterOf c)
      let i := comparator.toNat
      if cmpCounter b i c e && slotReached b i co e && !(engOf co e).crossed.getLsbD i && engPresent co e then
        upPush c (.crossing comparator eng (cycleTags (engOf co e))) (modEng c e (fun en => { en with crossed := setBit en.crossed i true }) s)
      else s) s)

/-! ## TRIG_SET (R181, R186, R192, R199, R205, R206) -/

/-- A source is disabled or reserved. -/
def sourceBad (b : LeafBlock) (src : Nat) : Bool :=
  if src < 16 then decide (cmpKind b src = 0)
  else if src < 24 then decide (bits (tagWord b (src - 16) 0) 63 62 = 0)
  else if src < 28 then decide (bits (guardWord b (src - 24) 0) 63 62 = 0)
  else if src < 32 then !bit (seqWord b (src - 28) 0) 63
  else decide (40 ≤ src)

def transitionBad (b : LeafBlock) (w : Word) : Bool :=
  bit w 63 && (sourceBad b (bits w 62 57) || (decide (bits w 50 49 ≠ 0) && sourceBad b (bits w 56 51)))

def seqTransitions (b : LeafBlock) (q : Nat) : List Word := (List.range 16).map fun k => seqWord b q (2 + k)

/-- A sequencer that can take a STOP action. -/
def stopsBy (b : LeafBlock) (q : Nat) : Bool :=
  bit (seqWord b q 0) 63 && (seqTransitions b q).any fun w => bit w 63 && bit w 38

/-- LEAD of a sequencer that runs lies below the least for its SCOPE (R199); a block always gives LEAD, so its default of 1,000 GT
is the loader's (log entry 94). -/
def leadBad (s : State) (b : LeafBlock) (q : Nat) : Bool :=
  let hdr := seqWord b q 0
  let sys := decide (bits hdr 53 52 = 2)
  bit hdr 63 && !(sys && s.time.diam.isNone) && decide (bits hdr 51 32 < 384 + leastLead s sys)

def blockBad (s : State) (b : LeafBlock) : Bool :=
  decide (b.words.length ≠ 196) ||
  (List.range 16).any (fun i =>
    let w := cmpWord b i 0
    decide (3 < cmpKind b i) || (decide (cmpKind b i = 2) && decide (bits w 35 34 = 3)) ||
      (decide (cmpKind b i = 3) && decide (26 < bits w 31 27))) ||
  (List.range 8).any (fun i => bit (tagWord b i 0) 61 && decide (bits (tagWord b i 0) 63 62 = 1)) ||
  (List.range 4).any (fun q =>
    let hdr := seqWord b q 0
    decide (bits hdr 53 52 = 3) || (seqTransitions b q).any (transitionBad b) ||
      (bit hdr 63 && (decide (bits hdr 31 0 = 0) || leadBad s b q)))

/-- More than 4 counter-threshold slots in some core (R186). -/
def slotsShort (b : LeafBlock) : Bool :=
  (List.range 16).any fun k =>
    decide (4 < ((List.range 16).filter fun i => decide (cmpKind b i = 3) && watchCore (cmpWord b i 0) k).length)

/-- Load a block into a leaf: it applies to pulses stamped from the leaf's present GT on (R206; log entry 80); DSEL and the
shims' slots at once. -/
def loadBlock (b : LeafBlock) (cl : Nat) (s : State) : State :=
  let s := modTrig cl (fun t => { t with newest := b }) s
  let s := { s with cores := tmap (fun c co =>
    if clusterOf c ≠ cl then co
    else primeCrossed b c (if hubTracedCore s c then co else { co with daSel := b.dsel })) s.cores }
  leafMerge cl (addEvent cl (leafNow s cl) (.load b) s)

def execTrigSetLoad (via : Via) (a m : UnitAddr) (dsel : BitVec 3) (block : List Word) (s : State) :
    Host.Outcome State Fault Refusal :=
  .next (command via 0x0023 (.trigSetLoad via a m dsel block) false
    (fun s =>
      let b : LeafBlock := { words := block }
      let hard := (List.range 4).any fun q => stopsBy b q && bit (seqWord b q 0) 54
      [(denied s via .opPlatVen (if hard then .invasive else .observe), rDenied),
       (setBadArg s a m 2 || blockBad s b, rBadArg), (setBadUnit s a m 2, rBadUnit),
       (s.time.diam.isNone && (List.range 4).any (fun q => bit (seqWord b q 0) 63 && decide (bits (seqWord b q 0) 53 52 = 2)), rBusy),
       (slotsShort b, rNoResource)])
    (fun s =>
      let b : LeafBlock := { words := block, owner := whoOf s via, mailbox := !isNarrow via, dsel := dsel }
      let cls := clustersIn s a m
      let s := cls.foldl (fun s cl => loadBlock b cl s) s
      let away := cls.filter fun cl => awayWatched s cl 0xFFFF
      if away.isEmpty then respond via rOk [] s
      else respond via rPartial (away.map fun cl => (fullAddr s (clusterAddr cl)).setWidth 64) s) s)

def execTrigSetClear (via : Via) (a m : UnitAddr) (s : State) : Host.Outcome State Fault Refusal :=
  .next (command via 0x0023 (.trigSetClear via a m) false
    (fun s => [(denied s via .opPlatVen .observe, rDenied), (setBadArg s a m 2, rBadArg), (setBadUnit s a m 2, rBadUnit)])
    (fun s =>
      let b : LeafBlock := { words := List.replicate 196 0, owner := whoOf s via, mailbox := !isNarrow via }
      respond via rOk [] ((clustersIn s a m).foldl (fun s cl => loadBlock b cl s) s)) s)

/-- The chips of a channel's set, of the whole system those of the link-state table (log entry 9), whose route has a hop
below level 3 now (R202). -/
def chipsShort (s : State) (a m : UnitAddr) : List (BitVec 16) :=
  let known := if m >>> 16 = 0 then s.iz.links.map fun q => BitVec.ofNat 16 q.1 else [(a >>> 16).setWidth 16]
  (othersOf s known a m).filter fun c => !routeForeseen s c 3

def execTrigSetChannel (via : Via) (ch : BitVec 3) (ca cm ha hm : UnitAddr) (enable : Bool) (s : State) :
    Host.Outcome State Fault Refusal :=
  .next (command via 0x0023 (.trigSetChannel via ch ca cm ha hm enable) false
    (fun s => [(denied s via .opPlatVen .observe || (enable && vendorAway s via ha hm), rDenied),
      (setBadArg s ca cm 2 || (enable && setBadArg s ha hm 4 true), rBadArg),
      (setBadUnit s ca cm 2 || (enable && setBadUnit s ha hm 4), rBadUnit)])
    (fun s =>
      let s := { s with triggers := { s.triggers with channels := s.triggers.channels.set ch.toNat {
        caddr := ca, cmask := cm, loaded := true, haddr := ha, hmask := hm, chips := enable } } }
      let away := if enable then chipsShort s ha hm else []
      if away.isEmpty then respond via rOk [] s else respond via rPartial (away.map (·.setWidth 64)) s) s)

/-- A block is loaded that the leaf's merge has not reached. -/
def loadWaits (s : State) (cl : Nat) : Bool :=
  (((tget cl s.leaves).map (·.events)).getD []).any fun x => match x.2 with | .load _ => true | _ => false

/-- Table 06.11. -/
def trigStatus (t : Trig) : List Word :=
  (t.readEmpty ++ t.overFull) ::
    (t.seqs.map fun q => pk [(61, 3, q.state), (32, 16, q.drops.toNat), (0, 32, q.counter.toNat)]) ++
    ((List.range 8).map fun k => (t.missed.getD (2 * k + 1) 0) ++ (t.missed.getD (2 * k) 0)) ++ [t.derived.setWidth 64]

def execTrigSetStatus (via : Via) (a m : UnitAddr) (s : State) : Host.Outcome State Fault Refusal :=
  .next (command via 0x0023 (.trigSetStatus via a m) false
    (fun s => [(denied s via .opPlatVen .observe, rDenied), (setBadArg s a m 2 || decide (m ≠ 0xFFFFFF80), rBadArg),
      (setBadUnit s a m 2, rBadUnit)])
    (fun s =>
      let cl := ((clustersIn s a m).head?).getD 0
      let s1 := if loadWaits s cl then switchBlock cl (newestBlock s cl) s else s
      respond via rOk (trigStatus (trigOf s1 cl)) s) s)

end Sys2Proof.Machine
end

