-- ==== Sys2Proof/Machine/Domains.lean ====
section
/-!
DEFINITION. The operations on a reset domain that fences, rungs, tests and wakes share (chapters 01, 13): advancing
generations (R36 to R40), entering FENCED (R401), entering and leaving RESETTING (R395 to R398), lowering the reset requests.
-/
namespace Sys2Proof.Machine

/-! ## Generations (R38, R40, R159, R285) -/

/-- At most 255 advances of a domain in any 100 ms: those made at a GT above t − 400,000,000 and at most t, the hub's GT
(R40). -/
def advFull (s : State) (l : List GT) : Bool :=
  decide (255 ≤ (l.filter fun g => decide (hubGt s < g + 400000000 ∧ g ≤ hubGt s)).length)

def engAdvFull (s : State) (c e : Nat) : Bool := ((coreOf s c).map fun co => advFull s (engOf co e).advances).getD false
def coreAdvFull (s : State) (c : Nat) : Bool :=
  ((coreOf s c).map fun co => advFull s co.advances || (enginesOf co).any fun e => advFull s (engOf co e).advances).getD false

def coresOfPart (s : State) (p : Nat) : List Nat := (allCores s).filter fun c => decide (partOf c = p)

def partAdvFull (s : State) (p : Nat) : Bool :=
  advFull s (s.gens.partAdv.getD p []) || (coresOfPart s p).any (coreAdvFull s)
def chipAdvFull (s : State) : Bool := advFull s s.gens.chipAdv || (allParts s).any (partAdvFull s)

/-- Advance an engine's generation; `rung` goes into the GEN record. -/
def advEngineGen (rung c e : Nat) (s : State) : State :=
  let old := engGen s c e
  leafOwn (clusterOf c) (.gen (engAddr c e) 0 rung old)
    (modEng c e (fun en => { en with gen := en.gen + 1, advances := pushRing 255 (hubGt s) en.advances }) s)

/-- Advance a core's generation and those of its engines. -/
def advCoreGen (rung c : Nat) (s : State) : State :=
  match coreOf s c with
  | none => s
  | some co =>
    let s := modCore c (fun x => { x with gen := x.gen + 1, advances := pushRing 255 (hubGt s) x.advances }) s
    (enginesOf co).foldl (fun s e => advEngineGen rung c e s) (leafOwn (clusterOf c) (.gen (coreAddr c) 1 rung co.gen) s)

/-- The event of a partition or chip advance in every leaf of a list. -/
def leafGens (cls : List Nat) (domain rung : Nat) (old : BitVec 8) (s : State) : State :=
  cls.foldl (fun s cl => leafOwn cl (.gen (clusterAddr cl) domain rung old) s) s

def advPartGen (rung p : Nat) (s : State) : State :=
  let old := partGen s p
  let s := { s with gens := { s.gens with
    part := s.gens.part.modify p (· + 1), partAdv := s.gens.partAdv.modify p (pushRing 255 (hubGt s)) } }
  let s := leafGens ((allClusters s).filter fun cl => decide (partOfCluster cl = p)) 2 rung old s
  (coresOfPart s p).foldl (fun s c => advCoreGen rung c s) s

def advChipGen (rung : Nat) (s : State) : State :=
  let old := s.gens.chip
  let s := { s with gens := { s.gens with chip := s.gens.chip + 1, chipAdv := pushRing 255 (hubGt s) s.gens.chipAdv } }
  let s := leafGens (allClusters s) 3 rung old s
  (allParts s).foldl (fun s p => advPartGen rung p s) s

/-! ## Leaving a step (R417) -/

/-- Released units of a core end the step; it goes on for the others. -/
def leaveStep (c : Nat) (s : State) : State :=
  match cutOf s c with
  | none => s
  | some x =>
    if x.step.isSome then
      let s := modCore c (fun co => { co with
        stReleased := 0, engs := co.engs.map fun en => { en with released := false, stepBegun := false } }) s
      stepFinish x.id (modStep x.id (fun r => { r with
        engs := r.engs.filter (fun q => q.1 ≠ c), fires := r.fires.filter (· ≠ c) }) s)
    else s

/-- An engine enters RESETTING, and its core with it: released, it ends the step; the core counts as complete for a cut in
force that has stopped it, with one entry LEFT, and stays among the cores of the cut, which a RESUME must still release
(R263, R417; log entry 87). -/
def leaveStepEngine (c e : Nat) (s : State) : State :=
  match cutOf s c with
  | none => s
  | some x =>
    let others := ((coreOf s c).map fun co =>
      (enginesOf co).any fun k => decide (k ≠ e) && decide ((engOf co k).st = .resetting)).getD false
    let took := ((coreOf s c).map shimStopped).getD false && decide (c ∈ x.stopped ∨ c ∈ x.unheard)
    let s := if cutInForce s x && took && !others then coreEntry x.id c 4 7 0 s else s
    let s := stepFinish x.id (modStep x.id (fun r => { r with
      engs := r.engs.filter fun q => decide (¬ (q.1 = c ∧ q.2.1 = e)) }) s)
    if took then
      cutProgress x.id (clusterOf c) (modCut x.id (fun y => { y with
        soft := y.soft.filter (· ≠ (c, e)), left := if c ∈ y.left then y.left else y.left ++ [c] }) s)
    else s

/-! ## Entering FENCED (R401) -/

/-- Engine holds as R103 requires them in FENCED, STALE, QUIET and RESETTING. -/
def holdEngines (co : Core) : Core :=
  { co with engs := co.engs.zipIdx.map fun p => if engPresent co p.2 then { p.1 with hold := true } else p.1 }

/-- The core's power is gated: its leaf holds a QUIET record for it since its last WAKE (R399). -/
def coreGated (co : Core) : Bool := co.quietStamp.isSome

/-- Fence a core that is not RESETTING and not FENCED: `cause` 3, or 4 for a fence of the hub's own. -/
def fenceCore (cause c : Nat) (s : State) : State :=
  match coreOf s c with
  | none => s
  | some co =>
    let now := hubGt s
    let s := withdrawCore c (skimGap c true s)
    let s := modCore c (fun x => { holdEngines x with
      st := .fenced, oldGen := x.gen, fence := true, fenceAck := false
      fenceDue := if coreGated x || decide (co.st = .quiet) then none else some (now + 8000)
      engs := (holdEngines x).engs.map fun en => { en with oldGen := en.gen } }) s
    let s := if co.st = .quiet then s else noteState c none cause (coreReports co) 5 0 s
    leaveCut c (shimStopped co) (leaveStep c s)

/-! ## Entering and leaving RESETTING (R395 to R398) -/

/-- A frozen core runs on as by RESUME, every hold kept at 1, and goes on as from RUN (Table 13.6). -/
def unfreeze (c : Nat) (s : State) : State :=
  match coreOf s c with
  | none => s
  | some co =>
    if co.st = .hardStopped then
      noteState c none 5 3 0 0 (modCore c (fun x => { raiseHolds x with st := .active, funcClkEn := true }) s)
    else s

/-- The core enters RESETTING; `fenced` says that it comes back STALE. -/
def enterResetting (fenced : Bool) (c : Nat) (s : State) : State :=
  match coreOf s c with
  | none => s
  | some co =>
    let s := withdrawCore c (skimGap c true (preemptCore c s))
    let s := (enginesOf co).foldl (fun s e => thawCrock c e s) s
    let s := modCore c (fun x => { holdEngines x with
      st := .resetting, wasFenced := fenced, funcClkEn := true, fenceDue := none }) s
    leaveCut c (shimStopped co) (leaveStep c (noteState c none 5 (coreReports co) 7 0 s))

/-- The shim raises `ts_core_rst_req` (R114). -/
def requestCoreReset (c : Nat) (s : State) : State := modCore c (fun co => { co with rstReq := true }) s

/-- Every engine is back under the core: none stopped, resetting or marked. -/
def freshEngines (co : Core) : Core :=
  { co with engs := co.engs.map fun en => { en with
    st := .run, incomplete := false, owed := false, oldCmd := false, rstReq := false, released := false
    stepBegun := false } }

/-- The core enters STALE: counters at zero, holds at 1, `ts_fence` lowered; a scrubbing core loses its taint (R404, R283). -/
def enterStale (cause c : Nat) (s : State) : State :=
  let s := modCore c (fun co => { zeroCounters (freshEngines (holdEngines co)) with
    st := .stale, wasFenced := false, fence := false, fenceAck := false, fenceDue := none }) s
  noteState c none cause 7 6 0 s

/-- The taint ends at a reset by rung 3 or higher of a core whose descriptor says SCRUB (R283). -/
def scrubTaint (c : Nat) (s : State) : State :=
  modCore c (fun co => { co with tainted := co.tainted && !scrubs co }) s

/-- The core is back in RUN or STOPPED: time toward BLOCK_GT and the autofence windows start again (R359, R355). -/
def readmit (c : Nat) (s : State) : State :=
  restartBlock c (modCore c (fun co => { co with slotCounts := List.replicate 4 {} }) s)

/-- The core leaves RESETTING under rung 4 or 5 (R397). -/
def leaveResetting (c : Nat) (s : State) : State :=
  match coreOf s c with
  | none => s
  | some co =>
    if co.st ≠ .resetting then s else
    let s := scrubTaint c s
    if co.wasFenced then enterStale 5 c s
    else
      let s := modCore c (fun x => { freshEngines x with st := .active, fence := false, fenceAck := false }) s
      match stopsOnReturn s c with
      | some x => readmit c (enterStopped c x 7 (noteState c none 5 7 2 0 s))
      | none => readmit c (modCore c lowerHolds (noteState c none 5 7 0 0 s))

/-! ## Engine reset (rung 2) -/

def enterEngineReset (c e : Nat) (s : State) : State :=
  match coreOf s c with
  | none => s
  | some co =>
    let old := engReports co e
    let s := withdrawEdge c e (skimGap c true (preemptEngine c e s))
    let s := modEng c e (fun en => { en with st := .resetting, hold := true, rstReq := true }) (thawCrock c e s)
    closeGate c (leaveStepEngine c e (noteState c (some e) 5 old 7 0 s))

/-- The engine leaves RESETTING: STOPPED when its core is STOPPED under a cut in force, else RUN (R397). With its last
engine the core leaves RESETTING, and under a cut in force that names it the whole core is STOPPED, whether or not the cut
had stopped it before (R35). -/
def leaveEngineReset (c e : Nat) (s : State) : State :=
  let now := hubGt s
  let cut := stopsOnReturn s c
  let s := modEng c e (fun en => { en with
    st := .run, incomplete := false, owed := false, oldCmd := false, rstReq := false, blockFrom := now }) s
  let last := !(((coreOf s c).map fun co => (enginesOf co).any fun k => decide ((engOf co k).st = .resetting)).getD false)
  let back := match cut with | none => false | some x => last || decide (c ∈ x.stopped)
  let s := if back then modEng c e (fun en => { en with st := .stopped, hold := true }) s
    else modCore c (fun co => modEngC e (fun en => { en with hold := holdNeeded co e || co.holdsUp || co.gateWarn }) co) s
  let s := noteState c (some e) 5 7 (if back then 2 else 0) 0 s
  match cut with
  | none => s
  | some x =>
    let s := if last && !decide (c ∈ x.stopped) then noteState c none 5 7 2 0 s else s
    let s := if last then enterStopped c x 7 s else s
    closeGate c (if back then readEngStopped c e s else s)

end Sys2Proof.Machine
end

