-- ==== Sys2Proof/Machine/SelfTest.lean ====
section
/-!
DEFINITION. Self-test slots (chapter 14): lending, requests, the slot scheduler, the signature, results. The closing reset
and the rungs that end a test are in Recovery.lean.
-/
namespace Sys2Proof.Machine

/-- A core named in a result, as its unit address in a word of its own (R485). -/
def coreWord (c : Nat) : Word := (coreAddr c).setWidth 64

/-- Cores named in a result with a code each, a word for each value (R485, log entry 20). -/
def codedCores (l : List (Nat × BitVec 8)) : List Word := l.flatMap fun q => [coreWord q.1, q.2.setWidth 64]

/-- The job whose test runs on a core. -/
def jobOn (s : State) (c : Nat) : Option Job := s.test.jobs.find? fun j => decide (j.core = c ∧ j.phase ≠ .pending)

def testRun (s : State) (id : BitVec 16) : Option TestRun := s.test.runs.find? fun r => r.id == id

/-- The request whose status STATUS gives: one of the 16 most recent (R421). -/
def statusRun (s : State) (id : BitVec 16) : Option TestRun := (s.test.runs.take 16).find? fun r => r.id == id

def modRun (id : BitVec 16) (f : TestRun → TestRun) (s : State) : State :=
  { s with test := { s.test with runs := modFirst (fun r => r.id == id) f s.test.runs } }

/-! ## Results (R422, R429) -/

/-- Jobs of a request that are pending or running. -/
def openJobs (s : State) (id : BitVec 16) : List Job := s.test.jobs.filter fun j => decide (j.test = id)

/-- Result of a request whose jobs have all ended: counts are PASS, FAIL, STARVED, ABORTED, WRONG_TYPE, NOCHAINS. -/
def testCode (counts : List Nat) : BitVec 8 :=
  let only := fun k => counts.zipIdx.all fun p => decide (p.2 = k) || decide (p.1 = 0)
  if only 0 then rOk else if only 2 then rTestStarved else rPartial

/-- The completion event of a request with no job left. -/
def testComplete (id : BitVec 16) (s : State) : State :=
  match testRun s id with
  | none => s
  | some r =>
    if (openJobs s id).isEmpty && !r.complete then
      raiseEvent 0x0032 0 (id.setWidth 64 :: r.counts.map wn) r.owner (testCode r.counts)
        (modRun id (fun r => { r with complete := true }) s)
    else s

/-- A job of a request ends with an outcome: its test-result event, its count. -/
def testResult (c : Nat) (id : BitVec 16) (outcome : Nat) (gen : BitVec 8) (noreset fenced : Bool) (sig : Word)
    (start end_ : GT) (s : State) : State :=
  let owner := ((testRun s id).map (·.owner)).getD {}
  let s := modRun id (fun r => { r with counts := r.counts.modify outcome (· + 1) }) s
  raiseEvent 0x0031 0
    [pk [(48, 16, (coreAddr c).toNat), (32, 16, id.toNat), (24, 8, gen.toNat), (9, 1, b2n noreset), (8, 1, b2n fenced),
      (0, 8, outcome)], if outcome ≤ 1 then sig else 0, wn start, wn end_] owner 0 s

def dropJob (j : Job) (s : State) : State :=
  { s with test := { s.test with jobs := eraseFirst (fun q => q == j) s.test.jobs } }

/-- End a job of the table; in basic service its result waits for the firmware (R432). -/
def endJob (j : Job) (outcome : Nat) (gen : BitVec 8) (noreset fenced : Bool) (sig : Word) (start : GT) (s : State) : State :=
  let s := dropJob j s
  if basic s then
    { s with test := { s.test with held := s.test.held ++ [{
      core := j.core, test := j.test, gen := gen, noreset := noreset, fenced := fenced, start := start, stop := hubGt s }] } }
  else testComplete j.test (testResult j.core j.test outcome gen noreset fenced sig start (hubGt s) s)

/-- GT at which the slot of a job opened, zero where none did. -/
def jobStart (j : Job) : GT :=
  match j.phase with | .pending => 0 | .running g => g | .closing g _ _ => g

/-- The shim leaves scan configuration (R110, Table 14.3). -/
def leaveScan (clk : Bool) (c : Nat) (s : State) : State :=
  modCore c (fun co => { co with testScan := none, scanMode := false, scanSe := false, scanSi := 0, funcClkEn := clk }) s

/-- A test on a core ends ABORTED: a rung of the host driver reaches it, or it is gated, which leaves it FENCED (Table 14.5). -/
def abortTest (fenced : Bool) (c : Nat) (s : State) : State :=
  match jobOn s c with
  | none => s
  | some j =>
    endJob j 3 0 false fenced 0 (jobStart j) (leaveScan true c s)

/-! ## Lending (R419, R420) -/

def lendable (co : Core) : Bool := decide (co.st = .fenced ∨ co.st = .stale) && !anyInflight co

/-- TEST_LEND LEND. -/
def execTestLend (via : Via) (a m : UnitAddr) (s : State) : Host.Outcome State Fault Refusal :=
  .next (command via 0x0055 (.testLend via a m) false
    (fun s =>
      [(levelThree s via, rVersion), (denied s via .opPlatVen .sealedLevel, rDenied), (setBadArg s a m 1, rBadArg), (setBadUnit s a m 1, rBadUnit)])
    (fun s =>
      let cs := coresIn s a m
      let ok := cs.filter fun c => ((coreOf s c).map lendable).getD false
      let no := cs.filter fun c => !decide (c ∈ ok)
      let s := modCores ok (fun co => { co with lent := true }) s
      if no = [] then respond via rOk [] s
      else if ok = [] then respond via rBusy [] s
      else respond via rPartial (no.map coreWord) s) s)

/-- TEST_LEND RECLAIM: cores under test keep their mark. -/
def execTestReclaim (via : Via) (a m : UnitAddr) (s : State) : Host.Outcome State Fault Refusal :=
  .next (command via 0x0055 (.testReclaim via a m) false
    (fun s =>
      [(levelThree s via, rVersion), (denied s via .opPlatVen .sealedLevel, rDenied), (setBadArg s a m 1, rBadArg), (setBadUnit s a m 1, rBadUnit)])
    (fun s =>
      let cs := coresIn s a m
      let no := cs.filter fun c => underTest s c
      let s := modCores (cs.filter fun c => !decide (c ∈ no)) (fun co => { co with lent := false }) s
      if no = [] then respond via rOk [] s
      else respond via rPartial (no.map coreWord) s) s)

/-- TEST_LEND CONFIG. -/
def execTestSlotConfig (via : Via) (maxChip : BitVec 5) (maxCluster : BitVec 2) (s : State) :
    Host.Outcome State Fault Refusal :=
  .next (command via 0x0055 (.testSlotConfig via maxChip maxCluster) false
    (fun s =>
      [(levelThree s via, rVersion), (denied s via .opPlatVen .sealedLevel, rDenied),
       (decide (maxChip = 0 ∨ 16 < maxChip.toNat ∨ maxCluster = 0 ∨ 2 < maxCluster.toNat), rBadArg)])
    (fun s => respond via rOk [] { s with
      test := { s.test with maxChip := maxChip.toNat, maxCluster := maxCluster.toNat } }) s)

/-! ## Requests (R421) -/

/-- The outcome a core gets at once, if it gets one: NOCHAINS, WRONG_TYPE. -/
def atOnce (s : State) (p : TestParams) (c : Nat) : Option Nat :=
  match coreOf s c with
  | none => some 5
  | some co => if co.ties.scanChains = 0 then some 5 else if coreType co ≠ p.coreType then some 4 else none

/-- TEST_REQUEST REQUEST. -/
def execTestRequest (via : Via) (p : TestParams) (s : State) : Host.Outcome State Fault Refusal :=
  .next (command via 0x0054 (.testRequest via p) false
    (fun s =>
      let now := hubGt s
      let d := p.deadline.toNat
      let jobs := (coresIn s p.addr p.mask).filter fun c => (atOnce s p c).isNone
      [(levelThree s via, rVersion), (denied s via .opPlatVen .sealedLevel, rDenied),
       (setBadArg s p.addr p.mask 1 || decide (p.patterns = 0 ∨ 4096 < p.patterns.toNat) ||
         decide (d ≠ 0 ∧ (d < now + 1000 ∨ now + 2 ^ 40 < d)), rBadArg),
       (setBadUnit s p.addr p.mask 1, rBadUnit), (decide (1024 < s.test.jobs.length + jobs.length), rNoResource)])
    (fun s =>
      let id := s.test.next
      let now := hubGt s
      let deadline := if p.deadline = 0 then now + 2 ^ 40 else p.deadline.toNat
      let cs := coresIn s p.addr p.mask
      let jobs := (cs.filter fun c => (atOnce s p c).isNone).map fun c => ({
        core := c, test := id, deadline := deadline, patterns := p.patterns.toNat, seed := p.seed, expect := p.expect } : Job)
      let run : TestRun := { id := id, owner := ownerOf s via }
      let open_ := fun (r : TestRun) => !r.complete
      let rs := run :: s.test.runs
      let s := respond via rPending [id.setWidth 64] { s with
        test := { s.test with
          next := nextSeq id, jobs := s.test.jobs ++ jobs
          runs := rs.take 16 ++ (rs.drop 16).filter open_ } }
      let s := cs.foldl (fun s c => match atOnce s p c with
        | none => s
        | some k => testResult c id k 0 false false 0 0 now s) s
      testComplete id s) s)

/-- TEST_REQUEST CANCEL: pending jobs STARVED, running tests stop and close with ABORTED (Table 14.5). -/
def execTestCancel (via : Via) (id : BitVec 16) (s : State) : Host.Outcome State Fault Refusal :=
  .next (command via 0x0054 (.testCancel via id) false
    (fun s => [(levelThree s via, rVersion), (denied s via .opPlatVen .sealedLevel, rDenied),
      (((testRun s id).map (·.complete)).getD true, rBadArg)])
    (fun s =>
      let js := openJobs s id
      let s := respond via rOk [] s
      js.foldl (fun s j => match j.phase with
        | .pending => endJob j 2 0 false false 0 0 s
        | .running g =>
          if coreAdvFull s j.core then endJob j 3 0 true true 0 g (leaveScan true j.core s)
          else
            let s := { s with test := { s.test with
              jobs := modFirst (fun q => q == j) (fun q => { q with phase := .closing g 3 0 }) s.test.jobs } }
            requestCoreReset j.core (enterResetting true j.core (leaveScan true j.core s))
        | .closing _ _ _ => s) s) s)

/-- TEST_REQUEST STATUS: pending, running, and the finished jobs by outcome. -/
def execTestStatus (via : Via) (id : BitVec 16) (s : State) : Host.Outcome State Fault Refusal :=
  .next (command via 0x0054 (.testStatus via id) false
    (fun s => [(levelThree s via, rVersion), (denied s via .opPlatVen .sealedLevel, rDenied), ((statusRun s id).isNone, rBadArg)])
    (fun s =>
      let js := openJobs s id
      let p := (js.filter fun j => decide (j.phase = .pending)).length
      respond via rOk ([wn p, wn (js.length - p)] ++ (((statusRun s id).map (·.counts)).getD []).map wn) s) s)

/-! ## The scheduler (R423 to R425) -/

/-- Pending jobs in order of DEADLINE, then of acceptance. -/
def insertJob (j : Job) : List Job → List Job
  | [] => [j]
  | k :: l => if k.deadline ≤ j.deadline then k :: insertJob j l else j :: k :: l

def pendingJobs (s : State) : List Job :=
  (s.test.jobs.filter fun j => decide (j.phase = .pending)).foldl (fun l j => insertJob j l) []

/-- R423. -/
def slotOpens (s : State) (j : Job) : Bool :=
  let run := s.test.jobs.filter fun q => decide (q.phase ≠ .pending)
  (((coreOf s j.core).map fun co => co.lent && lendable co).getD false) && !dumpHolds s j.core && !underTest s j.core &&
    decide (run.length < s.test.maxChip) &&
    decide ((run.filter fun q => decide (clusterOf q.core = clusterOf j.core)).length < s.test.maxCluster) &&
    decide (hubGt s < j.deadline)

/-- Open a slot: a STALE core is fenced, the core enters scan configuration. -/
def openSlot (s : State) (j : Job) : State :=
  if slotOpens s j then
    let stale := ((coreOf s j.core).map fun co => decide (co.st = .stale)).getD false
    let s := if stale then fenceCore 3 j.core s else s
    let s := modCore j.core (fun co =>
      scanPins { co with testScan := some { start := co.cc, patterns := j.patterns, pre := hashPrefix j.seed 3 } }) s
    { s with test := { s.test with
      jobs := modFirst (fun q => q == j) (fun q => { q with phase := .running (hubGt s) }) s.test.jobs } }
  else s

/-- TEST_SCHEDULER_PASS. -/
def execTestSchedulerPass (s : State) : Host.Outcome State Fault Refusal :=
  .next (if serving s && !basic s then (pendingJobs s).foldl openSlot s else s)

/-- TEST_DEADLINE_EXPIRY: every pending job whose deadline has passed ends STARVED; in basic service the deadlines wait
for the firmware (R432). -/
def execTestDeadlineExpiry (s : State) : Host.Outcome State Fault Refusal :=
  .next (if serving s && !basic s then
      ((pendingJobs s).filter fun j => decide (j.deadline ≤ hubGt s)).foldl (fun s j => endJob j 2 0 false false 0 0 s) s
    else s)

/-! ## The signature and the end of the sequence (R426, R428) -/

/-- One shift of a pass from 1 on; `n` chains. -/
def sigStep (n : Nat) (sig : Word) (so : BitVec 32) : Word :=
  let x := if sig.getLsbD 63 then (sig <<< 1) ^^^ 0x42F0E1EBA9EA3693#64 else sig <<< 1
  x ^^^ wn (so.toNat % 2 ^ n)

def signatureOf (n : Nat) (responses : List (BitVec 32)) : Word := responses.foldl (sigStep n) 0

/-- TEST_SEQUENCE_END: `responses` are the bits sampled on `ts_scan_so` in the shifts of passes 1 to P, in order. -/
def execTestSequenceEnd (core : CoreIx) (responses : List (BitVec 32)) (s : State) : Host.Outcome State Fault Refusal :=
  let c := core.toNat
  .next (match jobOn s c, coreOf s c with
    | some j, some co => match j.phase with
      | .running g =>
        if serving s then
          let sig := signatureOf co.ties.scanChains.toNat responses
          let outcome := if sig = j.expect then 0 else 1
          let s := leaveScan true c s
          if coreAdvFull s c then endJob j outcome 0 true true sig g s
          else
            let s := { s with test := { s.test with
              jobs := modFirst (fun q => q == j) (fun q => { q with phase := .closing g outcome sig }) s.test.jobs } }
            requestCoreReset c (enterResetting true c s)
        else s
      | _ => s
    | _, _ => s)

/-- The closing reset of a test has completed (R428): after a PASS the core stays STALE, else it is fenced again. The core
stays lent. -/
def closeTest (c : Nat) (s : State) : State :=
  match jobOn s c with
  | none => s
  | some j => match j.phase with
    | .closing g outcome sig =>
      let again := basic s || decide (outcome ≠ 0)
      let s := if again then fenceCore 3 c s else s
      endJob j outcome (coreGen s c) false again sig g s
    | _ => s

/-- What waited for the firmware is reported ABORTED (R432): each result, then the requests that have no job left. -/
def reportHeld (s : State) : State :=
  let hs := s.test.held
  let s := hs.foldl (fun s h => testResult h.core h.test 3 h.gen h.noreset h.fenced 0 h.start h.stop s)
    { s with test := { s.test with held := [] } }
  ((hs.map (·.test)).eraseDups).foldl (fun s id => testComplete id s) s

end Sys2Proof.Machine
end

