-- ==== Sys2Proof/Machine/Recovery.lean ====
section
/-!
DEFINITION. Fencing and the reset ladder (chapter 13): FENCE, UNFENCE, RESET_RUNG with its escalation and its handshakes at
the ports, REOPEN and the rind's open state, the tray sideband of rung 6.
-/
namespace Sys2Proof.Machine

/-! ## Rungs: bookkeeping (R390, R392, R615) -/

def modRung (id : BitVec 16) (f : Rung → Rung) (s : State) : State :=
  { s with rec_ := { s.rec_ with rungs := modFirst (fun r => r.id == id) f s.rec_.rungs } }

def rungOf (s : State) (id : BitVec 16) : Option Rung := s.rec_.rungs.find? fun r => r.id == id

/-- Two unit entries of a rung stand for the same domain. -/
def sameDomain (a b : RungUnit) : Bool :=
  decide (a.rung = b.rung ∧ a.core = b.core ∧ a.eng = b.eng ∧ a.part = b.part)

def isLate (u : RungUnit) : Bool := decide (u.phase = .late)

def unionB (a b : List (BitVec 16)) : List (BitVec 16) := a ++ b.filter fun x => !decide (x ∈ a)

/-- Units named that no entry of the rung still holds are completed, unless they failed. -/
def creditUnits (os : List (BitVec 16)) (r : Rung) : Rung :=
  let free := os.filter fun o => !(r.units.any fun u => decide (o ∈ u.origs)) && !decide (o ∈ r.failed)
  { r with done := unionB r.done free }

/-- An entry of the rung has completed. -/
def unitDone (u : RungUnit) (r : Rung) : Rung :=
  let r := { r with units := r.units.filter fun v => !sameDomain u v }
  if isLate u then r else creditUnits u.origs r

/-- An entry fails: the units it counts for are failed ones. -/
def unitFailed (u : RungUnit) (stays : Bool) (r : Rung) : Rung :=
  { r with
    units := if stays then r.units.map fun v => if sameDomain u v then { v with phase := .late } else v
      else r.units.filter fun v => !sameDomain u v
    failed := unionB r.failed u.origs, done := r.done.filter fun o => !decide (o ∈ u.origs), timedOut := true }

/-- The new generation of the one named domain (Table 13.4, NEWGEN). -/
def newGen (s : State) (r : Rung) : BitVec 8 :=
  match r.single with
  | none => 0
  | some a =>
    let c := a.toNat / 8
    match r.rung with
    | 2 => engGen s c (a.toNat % 8)
    | 3 => coreGen s c
    | 4 => partGen s (partOf c)
    | 5 => s.gens.chip
    | _ => 0

def rungCode (r : Rung) : BitVec 8 :=
  if r.failed = [] then rOk else if r.done = [] then rTimeout else rPartial

/-- Table 13.4. -/
def rungWords (s : State) (r : Rung) (code : BitVec 8) : List Word :=
  [pk [(48, 16, r.id.toNat), (45, 3, r.rung), (42, 3, r.highest), (11, 1, b2n r.superseded), (10, 1, b2n r.noack),
     (9, 1, b2n r.escalated), (0, 8, code.toNat)], wn r.accept, wn (hubGt s),
   pk [(32, 32, r.done.length), (0, 32, r.failed.length)],
   pk [(56, 8, (newGen s r).toNat), (48, 8, s.gens.chip.toNat), (0, 16, ((r.failed.head?).getD 0).toNat)]]

/-- Raise the completion event once every unit has completed or failed, and forget the rung once no handshake is due. -/
def rungSettle (id : BitVec 16) (s : State) : State :=
  match rungOf s id with
  | none => s
  | some r =>
    let s := if !r.reported && r.units.all isLate then
        raiseEvent 0x0030 0 (rungWords s r (rungCode r)) r.owner (rungCode r)
          (stageRung (rungWords s r (rungCode r)) (modRung id (fun r => { r with reported := true }) s))
      else s
    if r.units = [] then
      { s with rec_ := { s.rec_ with rungs := eraseFirst (fun r => r.id == id) s.rec_.rungs } } else s

/-- An entry of a rung has completed. -/
def finishUnit (id : BitVec 16) (u : RungUnit) (s : State) : State := rungSettle id (modRung id (unitDone u) s)

/-- The running rung, if any, whose entry satisfies a test. -/
def findUnit (s : State) (p : RungUnit → Bool) : Option (BitVec 16 × RungUnit) :=
  s.rec_.rungs.findSome? fun r => (r.units.find? p).map fun u => (r.id, u)

/-- A larger domain is being reset: running rungs stop on the entries it contains (R394). -/
def supersede (id : BitVec 16) (p : RungUnit → Bool) (s : State) : State :=
  let hit := fun (u : RungUnit) => decide (2 ≤ u.rung ∧ u.rung ≤ 5) && p u
  let ids := (s.rec_.rungs.filter fun r => r.id ≠ id && r.units.any hit).map (·.id)
  ids.foldl (fun s i =>
    rungSettle i (modRung i (fun r =>
      (r.units.filter hit).foldl (fun r u => unitDone u { r with superseded := true }) r) s)) s

/-- Add an entry to a rung, or its named units to the entry of the same domain; entries of the rung that the domain
contains are absorbed. -/
def addUnit (id : BitVec 16) (u : RungUnit) (inside : RungUnit → Bool) (s : State) : State :=
  modRung id (fun r =>
    let ins := r.units.filter fun v => inside v && !sameDomain u v && decide (2 ≤ v.rung) && !isLate v
    let os := ins.foldl (fun os v => unionB os v.origs) u.origs
    let us := r.units.filter fun v => !(decide (v ∈ ins))
    let us := if us.any (sameDomain u) then us.map fun v => if sameDomain u v then { v with origs := unionB v.origs os } else v
      else us ++ [{ u with origs := os }]
    { r with units := us, highest := max r.highest u.rung }) s

/-! ## Waiting FENCEs (R401, R402) -/

/-- Answer a FENCE with no acknowledgement outstanding: refused cores are named, then the cores without acknowledgement,
each followed by its NOACK (log entry 20). -/
def answerFence (via : Via) (refused noack : List Nat) (named : Nat) (s : State) : State :=
  let ws := refused.map coreWord ++ noack.flatMap fun c => [coreWord c, 1]
  if refused = [] then respond via rOk ws s
  else if refused.length = named then respond via rBusy [] s else respond via rPartial ws s

/-- A core has acknowledged its fence, or its time has run out: `noack`. -/
def fenceSettled (c : Nat) (noack : Bool) (s : State) : State :=
  let upd := fun (w : FenceWait) => if c ∈ w.waiting then
      { w with waiting := w.waiting.filter (· ≠ c), noack := if noack then w.noack ++ [c] else w.noack } else w
  let ws := s.rec_.fences.map upd
  let s := { s with rec_ := { s.rec_ with fences := ws.filter fun w => !w.waiting.isEmpty } }
  (ws.filter fun w => w.waiting.isEmpty).foldl (fun s w =>
    answerFence w.via w.refused w.noack (w.refused.length + 1 + w.noack.length) s) s

/-! ## Applying a rung to a domain (R395, R398, R399) -/

/-- Commands of a context in flight on a core. -/
def ctxEngines (co : Core) (ctx : BitVec 16) : List Nat :=
  (enginesOf co).filter fun e => ((engOf co e).cur.map fun t => decide (t.ctx = ctx)).getD false

/-- One abort at a time on a core: the oldest that waits raises the request and the holds concerned (R113). -/
def pumpAborts (c : Nat) (s : State) : State :=
  match coreOf s c with
  | none => s
  | some co => match co.abortQ with
    | [] => s
    | (ctx, _) :: _ =>
      if co.abortReq then s else
      let es := ctxEngines co ctx
      modCore c (fun x => { x with
        abortReq := true, abortCtx := ctx
        abortHeld := BitVec.ofNat 8 (es.map (2 ^ ·)).sum
        engs := x.engs.zipIdx.map fun p => if p.2 ∈ es then { p.1 with hold := true } else p.1 }) s

/-- Ask the shim of a core to abort a context, for a rung or for a hang's ABORT action. -/
def askAbort (c : Nat) (ctx : BitVec 16) (rung : Option (BitVec 16)) (s : State) : State :=
  pumpAborts c (modCore c (fun co => { co with abortQ := co.abortQ ++ [(ctx, rung)] }) s)

/-- A core takes part in a context abort: RUN, STOPPED or SOFT_STOPPING (R395). -/
def abortable (s : State) (c : Nat) : Bool := ((coreOf s c).map fun co => decide (coreReports co ≤ 2)).getD false

/-- A hang's ABORT action: its guilty context is aborted on this chip (R380). -/
def abortContext (ctx : BitVec 16) (s : State) : State :=
  ((allCores s).filter (abortable s)).foldl (fun s c => askAbort c ctx none s) s

def applyRung1 (id : BitVec 16) (c : Nat) (s : State) : State :=
  let ctx := ((rungOf s id).map (·.p.ctx)).getD 0
  askAbort c ctx (some id) (addUnit id
    { rung := 1, core := c, origs := [coreAddr c], phase := .abort, due := hubGt s + 180000 } (fun _ => false) s)

/-- A rung gives up an abort of a core that has not been raised yet. -/
def forgetAbort (c : Nat) (id : BitVec 16) (s : State) : State :=
  modCore c (fun co => { co with
    abortQ := co.abortQ.take (b2n co.abortReq) ++ (co.abortQ.drop (b2n co.abortReq)).filter fun q => q.2 ≠ some id }) s

/-- Rung 2 on an engine, counting for `origs`. -/
def applyRung2 (id : BitVec 16) (origs : List (BitVec 16)) (c e : Nat) (s : State) : State :=
  enterEngineReset c e (addUnit id
    { rung := 2, core := c, eng := e, origs := origs, phase := .reset, due := hubGt s + 760000 } (fun _ => false) s)

def inCore (c : Nat) (u : RungUnit) : Bool := decide ((u.rung = 2 ∨ u.rung = 3) ∧ u.core = c)

/-- Step 2 of rung 3: the fenced core enters RESETTING; a gated one passes to STALE at once (R399). -/
def rung3Reset (id : BitVec 16) (u : RungUnit) (s : State) : State :=
  let c := u.core
  let s := fenceSettled c false (abortTest false c s)
  let isGated := ((coreOf s c).map coreGated).getD false
  if isGated then
    let s := enterStale 5 c (scrubTaint c (advCoreGen 3 c (enterResetting true c s)))
    finishUnit id u (modCore c (fun co => { co with rungWhileGated := true }) s)
  else
    let due := hubGt s + 3800000
    let s := modRung id (fun r => { r with
      units := r.units.map fun v => if sameDomain u v then { v with phase := .reset, due := due } else v }) s
    requestCoreReset c (enterResetting true c s)

/-- An engine reset gives way to the rung 3 of its core: the engine is RESETTING no more, so that the core can be fenced
(Table 01.6; log entry 87). -/
def engineResetsEnd (c : Nat) (s : State) : State :=
  match coreOf s c with
  | none => s
  | some co => (enginesOf co).foldl (fun s e =>
      if decide (co.st = .active) && decide ((engOf co e).st = .resetting) then
        noteState c (some e) 5 7 0 0 (modEng c e (fun en => { en with st := .run }) s)
      else s) s

/-- Rung 3 on a core: fenced first unless it is FENCED already; a frozen one runs on first, held (Table 13.6). A core whose power is gated
is fenced at once, without acknowledgement (Table 13.6, R399, R401). -/
def applyRung3 (id : BitVec 16) (origs : List (BitVec 16)) (c : Nat) (s : State) : State :=
  match coreOf s c with
  | none => s
  | some co =>
    let u : RungUnit := { rung := 3, core := c, origs := origs, phase := .fence, due := hubGt s + 8000 }
    let s := supersede id (inCore c) (addUnit id u (inCore c) s)
    if co.st = .fenced then rung3Reset id u s
    else
      let s := fenceCore 3 c (engineResetsEnd c (unfreeze c s))
      if decide (co.st = .quiet) || coreGated co then rung3Reset id u s else s

/-- A core of a domain under rung 4 or 5 (Table 13.6). -/
def domainCore (s : State) (c : Nat) : State :=
  let s := fenceSettled c false (abortTest false c (preemptCore c s))
  match coreOf s c with
  | none => s
  | some co => match co.st with
    | .quiet => s
    | .fenced => requestCoreReset c (enterResetting true c s)
    | .stale => requestCoreReset c (enterResetting true c (fenceCore 3 c s))
    | .resetting => s
    | _ => enterResetting false c (unfreeze c s)

def inPart (p : Nat) (u : RungUnit) : Bool :=
  decide (((u.rung = 2 ∨ u.rung = 3) ∧ partOf u.core = p) ∨ (u.rung = 4 ∧ u.part = p))

/-- Rung 4 on a partition; the request waits while its done is 1 (R387). -/
def applyRung4 (id : BitVec 16) (origs : List (BitVec 16)) (p : Nat) (s : State) : State :=
  let s := addUnit id { rung := 4, part := p, origs := origs, phase := .reset, due := hubGt s + 11600000 } (inPart p) s
  let s := supersede id (inPart p) s
  let s := (coresOfPart s p).foldl domainCore s
  if s.rec_.partDone.getLsbD p then s
  else { s with rec_ := { s.rec_ with partReq := setBit s.rec_.partReq p true } }

/-- The rind closes: what it holds is presented again and dropped; REOPENs that wait are void (R411, R596). -/
def closeRind (s : State) : State :=
  { s with
    rec_ := { s.rec_ with opens := [] }
    rind := { s.rind with links := s.rind.links.map fun l =>
      { l with closed := true, held := false, releases := l.releases + b2n l.held } } }

/-- Rung 5. -/
def applyRung5 (id : BitVec 16) (origs : List (BitVec 16)) (s : State) : State :=
  let s := addUnit id { rung := 5, origs := origs, phase := .reset, due := hubGt s + 47200000 } (fun _ => true) s
  let s := closeRind (supersede id (fun _ => true) s)
  let s := (allCores s).foldl domainCore s
  if s.rec_.chipDone then s else { s with rec_ := { s.rec_ with chipReq := true } }

/-! ## Escalation (R393) -/

def mayReach (r : Rung) (next : Nat) : Bool := r.p.escalate && decide (next ≤ r.p.maxRung.toNat)

/-- Drop an entry that an enclosing domain takes over. -/
def dropUnit (id : BitVec 16) (u : RungUnit) (s : State) : State :=
  modRung id (fun r => { r with units := r.units.filter (fun v => !sameDomain u v), escalated := true }) s

/-- A partition or the chip is being reset by another rung already. -/
def partBusy (s : State) (p : Nat) : Bool := (findUnit s fun u => decide ((u.rung = 4 ∧ u.part = p) ∨ u.rung = 5)).isSome

/-- Escalate an entry that missed its timeout, where the request allows it and R40 does not refuse. -/
def escalateUnit (r : Rung) (u : RungUnit) (s : State) : Option State :=
  let id := r.id
  match u.rung with
  | 1 =>
    match coreOf s u.core with
    | none => none
    | some co =>
      let es := ctxEngines co r.p.ctx
      if mayReach r 2 && decide (co.st = .active) && !es.isEmpty && es.all (fun e => !engAdvFull s u.core e) then
        some (es.foldl (fun s e => applyRung2 id u.origs u.core e s) (dropUnit id u s))
      else none
  | 2 => if mayReach r 3 && !coreAdvFull s u.core then some (applyRung3 id u.origs u.core (dropUnit id u s)) else none
  | 3 =>
    let p := partOf u.core
    if mayReach r 4 && !partAdvFull s p then some (applyRung4 id u.origs p (dropUnit id u s)) else none
  | 4 => if mayReach r 5 && !chipAdvFull s && s.rec_.tray.waits.isNone then some (applyRung5 id u.origs (dropUnit id u s)) else none
  | _ => none

/-- An entry has missed its hub timeout: it escalates, or fails; a reset handshake goes on (R615). -/
def unitTimeout (id : BitVec 16) (s : State) (u : RungUnit) : State :=
  match rungOf s id with
  | none => s
  | some r =>
    if (r.units.any fun v => sameDomain u v && decide (v.phase = u.phase)) then
      let s := if u.rung = 1 then forgetAbort u.core id s else s
      match escalateUnit r u s with
      | some s => s
      | none => modRung id (unitFailed u (decide (2 ≤ u.rung))) s
    else s

/-- RUNG_TIMEOUT. -/
def execRungTimeout (id : BitVec 16) (s : State) : Host.Outcome State Fault Refusal :=
  .next (match rungOf s id with
    | none => s
    | some r =>
      if serving s then
        let due := r.units.filter fun u => decide (u.due ≤ hubGt s ∧ (u.phase = .abort ∨ u.phase = .reset))
        rungSettle id (due.foldl (unitTimeout id) s)
      else s)

/-! ## RESET_RUNG APPLY (R390, R391, R394, R408, R418, R420) -/

/-- R408, Table 17.5: a Tenant may abort a context of its own domain; rung 6 is not the Vendor's. -/
def rungDenied (s : State) (via : Via) (rung : Nat) (p : RungParams) : Bool :=
  match whoOf s via with
  | some (.tenant d) => !(decide (rung = 1) && ctxDefined s p.ctx.toNat && decide (ctxDomain s p.ctx.toNat = d))
  | _ => denied s via (if rung = 6 then .opPlat else .opPlatVen) .sealedLevel

def rungLevel (rung : Nat) : Nat := match rung with | 2 => 0 | 4 => 3 | 5 => 4 | 6 => 4 | _ => 1

/-- Generation of the one domain a set names at the rung's level (R391). -/
def namedGen (s : State) (rung : Nat) (a : UnitAddr) : BitVec 8 :=
  let l := a.toNat % 65536
  match rung with
  | 2 => engGen s (l / 8) (l % 8)
  | 4 => partGen s (partOf (l / 8))
  | 5 => s.gens.chip
  | 6 => s.gens.chip
  | _ => coreGen s (l / 8)

def rungBadArg (s : State) (rung : Nat) (p : RungParams) : Bool :=
  let lvl := rungLevel rung
  setBadArg s p.addr p.mask lvl || (p.genchk && decide (maskLevel p.mask ≠ some lvl)) ||
    (p.escalate && decide (p.maxRung.toNat ≤ rung ∨ 5 < p.maxRung.toNat))

/-- The parts a set names at level partition. -/
def partsIn (s : State) (a m : UnitAddr) : List Nat := ((coresIn s a m).map partOf).eraseDups

/-- The state a named engine's core reports, for rung 2. -/
def rung2States (s : State) (p : RungParams) : List (CoreState × EngState) :=
  (enginesIn s p.addr p.mask).filterMap fun q => (coreOf s q.1).map fun co => (co.st, (engOf co q.2).st)

/-- BUSY of an APPLY: the states of Table 13.6, R40, R394. -/
def rungBusy (s : State) (rung : Nat) (p : RungParams) : Bool :=
  let cs := coresIn s p.addr p.mask
  match rung with
  | 1 => false
  | 2 => (rung2States s p).any (fun q => decide (q.1 = .hardStopped ∨ q.1 = .quiet ∨ q.1 = .resetting ∨ q.2 = .resetting)) ||
      (enginesIn s p.addr p.mask).any fun q => engAdvFull s q.1 q.2
  | 3 => cs.any fun c => ((coreOf s c).map fun co => decide (co.st = .resetting)).getD false || partBusy s (partOf c) ||
      coreAdvFull s c
  | 4 => (partsIn s p.addr p.mask).any fun q => partBusy s q || partAdvFull s q
  | 5 => (findUnit s fun u => decide (u.rung = 5)).isSome || s.rec_.tray.waits.isSome || chipAdvFull s
  | _ => (findUnit s fun u => decide (u.rung = 5) && !isLate u).isSome || s.rec_.tray.waits.isSome

/-- The checks of APPLY in the order of R14. -/
def rungChecks (via : Via) (rung : Nat) (p : RungParams) (s : State) : List (Bool × BitVec 8) :=
  [(rungDenied s via rung p, rDenied), (rungBadArg s rung p, rBadArg), (setBadUnit s p.addr p.mask (rungLevel rung), rBadUnit),
   (decide (rung = 1) && !ctxDefined s p.ctx.toNat, rBadContext),
   (p.genchk && decide (p.gen ≠ namedGen s rung p.addr), rGeneration),
   (decide (rung = 2) && (rung2States s p).any (fun q => decide (q.1 = .fenced)), rFenced),
   (decide (rung = 2) && (rung2States s p).any (fun q => decide (q.1 = .stale)), rStale),
   (decide (rung ≤ 2) && basic s, rDegraded), (rungBusy s rung p, rBusy)]

/-- Accept an APPLY: its number, PENDING, its record; then the rung is applied. -/
def applyRung (via : Via) (rung : Nat) (p : RungParams) (act : BitVec 16 → State → State) (s : State) : State :=
  let id := s.rec_.next
  let r : Rung := {
    id := id, rung := rung, p := p, owner := ownerOf s via, accept := hubGt s, highest := rung
    single := if maskLevel p.mask = some (rungLevel rung) then some (p.addr.setWidth 16) else none }
  let s := respond via rPending [id.setWidth 64] { s with
    rec_ := { s.rec_ with next := nextSeq id, last := id, rungs := s.rec_.rungs ++ [r] } }
  let s := if rung = 2 then s else modCores (coresIn s p.addr p.mask) (fun co => { co with lent := false }) s
  rungSettle id (act id s)

/-- Context abort of the named cores: those not in RUN, STOPPED or SOFT_STOPPING are skipped and count as completed. -/
def execContextAbort (via : Via) (p : RungParams) (s : State) : Host.Outcome State Fault Refusal :=
  .next (command via 0x0052 (.contextAbort via p) true (rungChecks via 1 p) (fun s => applyRung via 1 p (fun id s =>
    (coresIn s p.addr p.mask).foldl (fun s c =>
      if abortable s c then applyRung1 id c s
      else modRung id (creditUnits [coreAddr c]) s) s) s) s)

def execEngineReset (via : Via) (p : RungParams) (s : State) : Host.Outcome State Fault Refusal :=
  .next (command via 0x0052 (.engineReset via p) true (rungChecks via 2 p) (fun s => applyRung via 2 p (fun id s =>
    (enginesIn s p.addr p.mask).foldl (fun s q => applyRung2 id [engAddr q.1 q.2] q.1 q.2 s) s) s) s)

def execCoreFenceAndReset (via : Via) (p : RungParams) (s : State) : Host.Outcome State Fault Refusal :=
  .next (command via 0x0052 (.coreFenceAndReset via p) true (rungChecks via 3 p) (fun s => applyRung via 3 p (fun id s =>
    (coresIn s p.addr p.mask).foldl (fun s c => applyRung3 id [coreAddr c] c s) s) s) s)

def execPartitionReset (via : Via) (p : RungParams) (s : State) : Host.Outcome State Fault Refusal :=
  .next (command via 0x0052 (.partitionReset via p) true (rungChecks via 4 p) (fun s => applyRung via 4 p (fun id s =>
    (partsIn s p.addr p.mask).foldl (fun s q => applyRung4 id [coreAddr (q * 1024)] q s) s) s) s)

def execChipComputeReset (via : Via) (p : RungParams) (s : State) : Host.Outcome State Fault Refusal :=
  .next (command via 0x0052 (.chipComputeReset via p) true (rungChecks via 5 p) (fun s => applyRung via 5 p (fun id s => applyRung5 id [0] s) s) s)

/-! ## Rung 6 (R414, R415) -/

/-- The 8 bytes of the request of Table 13.12. -/
def trayRequest (s : State) (reason : BitVec 8) : List Byte :=
  let seq := s.rec_.tray.seq + 1
  [1, reason] ++ ((wordBytes ((chipOf s).setWidth 64)).take 2) ++ ((wordBytes (seq.setWidth 64)).take 4)

def execTrayPowerCycle (via : Via) (p : RungParams) (s : State) : Host.Outcome State Fault Refusal :=
  .next (command via 0x0052 (.trayPowerCycle via p) true (rungChecks via 6 p) (fun s =>
    let id := s.rec_.next
    let req := trayRequest s p.reason
    let s := applyRung via 6 p (fun id s => addUnit id
      { rung := 6, origs := [0], phase := .late, due := hubGt s + 4000000000 } (fun _ => false)
      (modRung id (fun r => { r with reported := true }) s)) s
    { s with rec_ := { s.rec_ with tray := { s.rec_.tray with
      seq := s.rec_.tray.seq + 1, request := req, waits := some (id, hubGt s + 4000000000), reason := some p.reason } } }) s)

/-- Rung 6 ends with a code; `extra` are the tray's figures. -/
def trayDone (id : BitVec 16) (code : BitVec 8) (extra : List Word) (s : State) : State :=
  let reason := if code = rOk then s.rec_.tray.reason else none
  let s := { s with rec_ := { s.rec_ with tray := { s.rec_.tray with waits := none, reason := reason } } }
  match rungOf s id with
  | none => s
  | some r =>
    let r := { r with done := if code = rOk then [0] else [], failed := if code = rOk then [] else [0] }
    raiseEvent 0x0030 0 (rungWords s r code ++ extra) r.owner code
      { stageRung (rungWords s r code) s with rec_ := { s.rec_ with rungs := eraseFirst (fun q => q.id == id) s.rec_.rungs } }

def byteAt (bs : List Byte) (i : Nat) : Nat := (bs.getD i 0).toNat

/-- TRAY_STATUS_POLL: the 10 bytes of the Block Read 0x6F; a status that fails its PEC or answers another request is
discarded. -/
def execTrayStatusPoll (status : List Byte) (pecOk : Bool) (s : State) : Host.Outcome State Fault Refusal :=
  .next (match s.rec_.tray.waits with
    | none => s
    | some (id, _) =>
      let seq := (bytesWord ((status.drop 2).take 4)).setWidth 32
      if serving s && pecOk && decide (byteAt status 0 = 1 ∧ seq = s.rec_.tray.seq) then
        let figures := pk [(0, 16, byteAt status 6 + 256 * byteAt status 7), (16, 16, byteAt status 8 + 256 * byteAt status 9)]
        if byteAt status 1 = 1 then trayDone id rOk [figures] s
        else if byteAt status 1 = 2 then trayDone id rDenied [] s else s
      else s)

/-- TRAY_TIMEOUT. -/
def execTrayTimeout (s : State) : Host.Outcome State Fault Refusal :=
  .next (match s.rec_.tray.waits with
    | some (id, due) => if serving s && decide (due ≤ hubGt s) then trayDone id rTimeout [] s else s
    | none => s)

/-! ## REOPEN, STATUS and the rind (R410 to R412, R594 to R598) -/

/-- REOPEN. -/
def execReopen (via : Via) (gen : BitVec 8) (links : BitVec 16) (s : State) : Host.Outcome State Fault Refusal :=
  .next (command via 0x0052 (.reopen via gen links) true
    (fun s => [(denied s via .opPlatVen .sealedLevel, rDenied), (decide (gen ≠ s.gens.chip), rGeneration),
      ((findUnit s fun u => decide (u.rung = 5)).isSome, rBusy)])
    (fun s =>
      let ls := (if links = 0 then 0xFFFF#16 else links) &&& s.ties.linkPresent
      respond via rOk [] { s with rec_ := { s.rec_ with opens := s.rec_.opens ++ [(hubGt s + 1000, ls)] } }) s)

/-- RIND_LINKS_OPEN: at each instant that has come, the links named open together. -/
def execRindLinksOpen (s : State) : Host.Outcome State Fault Refusal :=
  let due := s.rec_.opens.filter fun q => decide (q.1 ≤ hubGt s)
  let ls := due.foldl (fun b q => b ||| q.2) (0 : BitVec 16)
  .next { s with
    rec_ := { s.rec_ with opens := s.rec_.opens.filter fun q => decide (¬ q.1 ≤ hubGt s) }
    rind := { s.rind with
      links := s.rind.links.zipIdx.map fun p => if ls.getLsbD p.2 then { p.1 with closed := false } else p.1 } }

/-- STATUS (Table 13.10). -/
def execResetRungStatus (via : Via) (s : State) : Host.Outcome State Fault Refusal :=
  .next (command via 0x0052 (.resetRungStatus via) true (fun s => [(denied s via .opPlatVen .sealedLevel, rDenied)])
    (fun s =>
      let parts := (List.range 8).map fun p => (8 * p, 8, (partGen s p).toNat)
      let link := fun (n : Nat) =>
        let l := s.rind.links.getD n {}
        pk [(63, 1, b2n (s.ties.linkPresent.getLsbD n && !l.closed)), (62, 1, b2n (s.ties.linkNogen.getLsbD n)),
          (61, 1, b2n (s.ties.linkPresent.getLsbD n)), (24, 24, l.genDrop.toNat), (0, 24, l.closedDrop.toNat)]
      respond via rOk ([pk [(48, 16, s.rec_.last.toNat), (0, 8, s.gens.chip.toNat)], pk parts] ++ (List.range 16).map link) s) s)

/-- The verdict of the rind on a packet (R256, R410, R411, R595, R598): 0 PASS, 1 HOLD, 2 DROP; the second says that it is
dropped by its generations. -/
def rindVerdict (s : State) (n : Nat) (tagged : Bool) (tag : BitVec 20) (reply : Bool) (echo : BitVec 16) (dpart : PartIx)
    (g : GT) : Nat × Bool :=
  let l := s.rind.links.getD n {}
  let stale := reply && !s.ties.linkNogen.getLsbD n && decide (echo ≠ s.gens.chip ++ partGen s dpart.toNat)
  if l.closed then (2, false)
  else if l.held then (1, false)
  else if tagged && (rindCuts s).any (fun x => !tpValid s n || postTag g x.t tag) then (1, false)
  else if stale then (2, true) else (0, false)

/-- RIND_PACKET: a packet presented on link `link`; `g` is the rind's GT. -/
def execRindPacket (link : BitVec 4) (tagged : Bool) (tag : BitVec 20) (reply : Bool) (echo : BitVec 16) (dpart : PartIx)
    (g : GT) (s : State) : Host.Outcome State Fault Refusal :=
  let n := link.toNat
  let tagged := tagged && !s.ties.linkUntagged.getLsbD n
  .next (if s.ties.linkPresent.getLsbD n && serving s then
      let v := rindVerdict s n tagged tag reply echo dpart g
      let closed := (s.rind.links.getD n {}).closed
      let s := modRind n (fun l => { l with
        verdict := BitVec.ofNat 2 v.1
        held := l.held || decide (v.1 = 1)
        lastTag := if tagged && decide (v.1 = 0) then some tag else l.lastTag
        lastG := if tagged && decide (v.1 = 0) then g else l.lastG
        closedDrop := if closed then satInc l.closedDrop else l.closedDrop
        genDrop := if v.2 then satInc l.genDrop else l.genDrop }) s
      countLink n (fun k => { k with
        held := if v.1 = 1 then satInc k.held else k.held
        untagged := if !tagged && !closed then satInc k.untagged else k.untagged }) s
    else s)

/-- RIND_TX_DROP: a departing packet of a closed link. -/
def execRindTxDrop (link : BitVec 4) (s : State) : Host.Outcome State Fault Refusal :=
  let n := link.toNat
  .next (if s.ties.linkPresent.getLsbD n && serving s then
      modRind n (fun l => if l.closed then { l with closedDrop := satInc l.closedDrop } else l) s
    else s)

/-! ## FENCE and UNFENCE (R401 to R403) -/

/-- FENCE. -/
def execFence (via : Via) (a m : UnitAddr) (s : State) : Host.Outcome State Fault Refusal :=
  .next (command via 0x0050 (.fence via a m) true
    (fun s => [(denied s via .opPlatVen .sealedLevel, rDenied), (setBadArg s a m 1, rBadArg), (setBadUnit s a m 1, rBadUnit)])
    (fun s =>
      let cs := coresIn s a m
      let holdsOf := fun (c : Nat) (k : Core → Bool) => ((coreOf s c).map k).getD false
      let refused := cs.filter fun c => holdsOf c fun co => decide (coreReports co = 7)
      let fresh := cs.filter fun c => holdsOf c fun co => decide (coreReports co ≠ 7 ∧ co.st ≠ .fenced)
      let waits := fresh.filter fun c => holdsOf c fun co => decide (co.st ≠ .quiet) && !coreGated co
      let s := fresh.foldl (fun s c => fenceCore 3 c s) s
      if waits = [] then answerFence via refused [] cs.length s
      else { s with rec_ := { s.rec_ with fences := s.rec_.fences ++
        [{ via := via, due := hubGt s + 8000, waiting := waits, refused := refused }] } }) s)

/-- Code of R32 for one core. -/
def unfenceCode (co : Core) : BitVec 8 :=
  if co.st = .stale then rOk else if co.st = .fenced then rFenced else if coreReports co = 0 then rOk else rBusy

/-- Readmit a STALE core to RUN (R403). -/
def unfenceCore (s : State) (c : Nat) : State :=
  match coreOf s c with
  | none => s
  | some co =>
    if co.st = .stale then
      let s := modCore c (fun x => { freshEngines x with st := .active, lent := false }) s
      closeGate c (readmit c (modCore c lowerHolds (noteState c none 6 6 0 0 s)))
    else s

def execUnfence (via : Via) (a m : UnitAddr) (s : State) : Host.Outcome State Fault Refusal :=
  .next (command via 0x0051 (.unfence via a m) true
    (fun s => [(denied s via .opPlatVen .sealedLevel, rDenied), (setBadArg s a m 1, rBadArg), (setBadUnit s a m 1, rBadUnit)])
    (fun s =>
      let rs := (coresIn s a m).map fun c => (c, ((coreOf s c).map unfenceCode).getD rBusy)
      let no := rs.filter fun q => decide (q.2 ≠ rOk)
      let ok := (rs.filter fun q => decide (q.2 = rOk)).map Prod.fst
      let s := ok.foldl unfenceCore { s with autofence := { s.autofence with
        owned := s.autofence.owned.filter fun c => !decide (c ∈ ok) } }
      if no = [] then respond via rOk [] s
      else if no.length = rs.length then
        respond via (if no.any fun q => decide (q.2 = rFenced) then rFenced else rBusy) [] s
      else respond via rPartial (codedCores no) s) s)

/-- FENCE_ACK: `ts_fence_ack` rises. -/
def execFenceAck (core : CoreIx) (dc : Nat) (s : State) : Host.Outcome State Fault Refusal :=
  let c := core.toNat
  .next (tapRow c dc 1 (fun s =>
    match coreOf s c with
    | none => s
    | some co =>
      if co.fence && !co.fenceAck then
        let s := fenceSettled c false (modCore c (fun x => { x with fenceAck := true, fenceDue := none }) s)
        match findUnit s fun u => decide (u.rung = 3 ∧ u.core = c ∧ u.phase = .fence) with
        | some (id, u) => rungSettle id (rung3Reset id u s)
        | none => s
      else s) s)

/-- FENCE_ACK_TIMEOUT: 2 µs have passed since `ts_fence` (R402). A rung 3 escalates where its request allows it, the unit
failing when R40 refuses that (R393); otherwise it goes on to its reset. -/
def execFenceAckTimeout (core : CoreIx) (s : State) : Host.Outcome State Fault Refusal :=
  let c := core.toNat
  .next (
    let now := hubGt s
    let late := ((coreOf s c).map fun co => (co.fenceDue.map fun d => decide (d ≤ now)).getD false).getD false
    let waits := s.rec_.fences.any fun w => decide (c ∈ w.waiting ∧ w.due ≤ now)
    if serving s && (late || waits) then
      let s := fenceSettled c late (modCore c (fun co => { co with fenceDue := if late then none else co.fenceDue }) s)
      match findUnit s fun u => decide (u.rung = 3 ∧ u.core = c ∧ u.phase = .fence ∧ u.due ≤ now) with
      | none => s
      | some (id, u) =>
        let s := modRung id (fun r => { r with noack := true }) s
        match rungOf s id with
        | none => s
        | some r => match escalateUnit r u s with
          | some s => rungSettle id s
          | none =>
            if mayReach r 4 then rungSettle id (modRung id (unitFailed u false) s)
            else rungSettle id (rung3Reset id u s)
    else s)

/-! ## The handshakes at the ports (R113, R114, R387, R396) -/

/-- Lower the holds of the engines concerned, but those that a state, a stop, a step's begun command or the gating of the
core requires (R103, R104, R113). -/
def lowerAbortHolds (co : Core) : Core :=
  let done := { co with abortReq := false, abortHeld := 0, abortQ := co.abortQ.drop 1 }
  { done with
    engs := co.engs.zipIdx.map fun p =>
      if co.abortHeld.getLsbD p.2 then
        { p.1 with hold := holdNeeded done p.2 || co.holdsUp || co.gateWarn || p.1.stepBegun }
      else p.1 }

/-- ABORT_ACK. -/
def execAbortAck (core : CoreIx) (dc : Nat) (s : State) : Host.Outcome State Fault Refusal :=
  let c := core.toNat
  .next (tapRow c dc 1 (fun s =>
    match coreOf s c with
    | none => s
    | some co =>
      if co.abortReq then
        let s := modCore c lowerAbortHolds s
        let s := match (co.abortQ.head?).bind (·.2) with
          | some id => match (rungOf s id).bind fun r => r.units.find? fun u => decide (u.rung = 1 ∧ u.core = c) with
            | some u => finishUnit id u s
            | none => s
          | none => s
        pumpAborts c s
      else s) s)

/-- An engine's reset input is at 0: its command ends ABORTED and what state it showed ends, the shim takes its inputs no
more and lowers the request (R83, R396). -/
def assertEngine (c : Nat) (s : State) (e : Nat) : State :=
  let shown := ((coreOf s c).map fun co => (engOf co e).rep).getD 0
  let s := endCommand c e 2 false s
  let s := if shown = 0 then s else upPush c (.state (BitVec.ofNat 3 e) 0 0 0) s
  modEng c e (fun en => { en with
    rstN := false, rstReq := false, rep := 0, stall := 0, chan := 0, violIdle := false, violBusy := false, counted := false }) s

/-- ENGINE_RESET_ASSERT. -/
def execEngineResetAssert (core : CoreIx) (eng : EngIx) (dc : Nat) (s : State) : Host.Outcome State Fault Refusal :=
  let c := core.toNat
  .next (if engLive s c eng.toNat then tapRow c dc 1 (fun s => assertEngine c s eng.toNat) s else s)

/-- ENGINE_RESET_RELEASE: a rung 2 on the engine takes its last step. -/
def execEngineResetRelease (core : CoreIx) (eng : EngIx) (dc : Nat) (s : State) : Host.Outcome State Fault Refusal :=
  let c := core.toNat
  let e := eng.toNat
  .next (match coreOf s c with
    | none => s
    | some co =>
      if engPresent co e && !(engOf co e).rstN then
        tapRow c dc 1 (fun s =>
          let s := modEng c e (fun en => { en with rstN := true }) s
          match findUnit s fun u => decide (u.rung = 2 ∧ u.core = c ∧ u.eng = e) with
          | some (id, u) => finishUnit id u (leaveEngineReset c e (advEngineGen 2 c e s))
          | none => s) s
      else s)

/-- CORE_RESET_ASSERT: every engine's command ends ABORTED. The core's epoch and its request read 0 from then, with no word of a
boundary (log entry 97). -/
def execCoreResetAssert (core : CoreIx) (dc : Nat) (s : State) : Host.Outcome State Fault Refusal :=
  let c := core.toNat
  .next (match coreOf s c with
    | none => s
    | some co =>
      if co.rstN then
        tapRow c dc 1 (fun s =>
          let s := (enginesOf co).foldl (assertEngine c) s
          modCore c (fun x => { x with rstN := false, rstReq := false, epoch := 0, epochReq := false }) s) s
      else s)

/-- A test's closing reset runs on the core. -/
def closingOn (s : State) (c : Nat) : Bool :=
  match jobOn s c with
  | none => false
  | some j => match j.phase with | .closing _ _ _ => true | _ => false

/-- The last step of rung 3. -/
def reset3Ends (c : Nat) (s : State) : State := enterStale 5 c (scrubTaint c (advCoreGen 3 c s))

/-- CORE_RESET_RELEASE: a rung 3 on the core, or a test's closing reset, takes its last step. -/
def execCoreResetRelease (core : CoreIx) (dc : Nat) (s : State) : Host.Outcome State Fault Refusal :=
  let c := core.toNat
  .next (match coreOf s c with
    | none => s
    | some co =>
      if !co.rstN then
        tapRow c dc 1 (fun s =>
          let s := modCore c (fun x => { x with rstN := true, engs := x.engs.map fun en => { en with rstN := true } }) s
          match findUnit s fun u => decide (u.rung = 3 ∧ u.core = c ∧ u.phase ≠ .fence) with
          | some (id, u) => finishUnit id u (reset3Ends c s)
          | none =>
            if closingOn s c then
              closeTest c (reset3Ends c s)
            else s) s
      else s)

/-- A core leaves RESETTING under rung 4 or 5, or stays QUIET with its generations advanced. -/
def domainLeaves (s : State) (c : Nat) : State :=
  let s := leaveResetting c s
  modCore c (fun co => if co.st = .quiet ∨ coreGated co then { co with rungWhileGated := true } else co) s

/-- PARTITION_RESET_DONE: `th_part_rst_done[p]` rises; the hub lowers the request. -/
def execPartitionResetDone (part : PartIx) (s : State) : Host.Outcome State Fault Refusal :=
  let p := part.toNat
  .next (if serving s && s.rec_.partReq.getLsbD p && !s.rec_.partDone.getLsbD p then
      let s := { s with rec_ := { s.rec_ with
        partDone := setBit s.rec_.partDone p true, partReq := setBit s.rec_.partReq p false } }
      match findUnit s fun u => decide (u.rung = 4 ∧ u.part = p) with
      | some (id, u) => finishUnit id u ((coresOfPart s p).foldl domainLeaves (advPartGen 4 p s))
      | none => s
    else s)

/-- CHIP_RESET_DONE. -/
def execChipResetDone (s : State) : Host.Outcome State Fault Refusal :=
  .next (if serving s && s.rec_.chipReq && !s.rec_.chipDone then
      let s := { s with rec_ := { s.rec_ with chipDone := true, chipReq := false } }
      match findUnit s fun u => decide (u.rung = 5) with
      | some (id, u) => finishUnit id u ((allCores s).foldl domainLeaves (advChipGen 5 s))
      | none => s
    else s)

/-- RESET_DONE_LOWER: a done signal falls; a request that waited for it rises (R387). -/
def execResetDoneLower (part : Option PartIx) (s : State) : Host.Outcome State Fault Refusal :=
  .next (match part with
    | some q =>
      let p := q.toNat
      if s.rec_.partDone.getLsbD p then
        let again := (findUnit s fun u => decide (u.rung = 4 ∧ u.part = p)).isSome
        { s with rec_ := { s.rec_ with
          partDone := setBit s.rec_.partDone p false, partReq := setBit s.rec_.partReq p again } }
      else s
    | none =>
      if s.rec_.chipDone then
        { s with rec_ := { s.rec_ with chipDone := false, chipReq := (findUnit s fun u => decide (u.rung = 5)).isSome } }
      else s)

end Sys2Proof.Machine
end

