-- ==== Sys2Proof/Machine/DumpImage.lean ====
section
/-!
DEFINITION. The dump image (chapter 10) and the regions it lies in (R289 to R292): sections and offsets, section headers with
their checks and digests, hub-owned payloads, placement; and the end of a hang's wait for its dump (R381).
-/
namespace Sys2Proof.Machine

/-! ## Hang reports as words (Table 12.5) -/

def hangWords (s : State) (r : HangReport) : List Word :=
  [pk [(32, 32, r.id.toNat), (24, 8, r.kind), (0, 1, b2n r.truncated), (1, 1, b2n r.resolved), (2, 1, b2n r.inFallback)],
   wn r.declared, wn r.firstSeen,
   pk [(48, 16, (chipOf s).toNat), (32, 16, r.ctx.toNat), (16, 16, r.engine.toNat), (0, 16, r.layer.toNat)],
   pk [(32, 32, r.cycle), (0, 32, r.dependents)], pk [(32, 32, r.entries.length / 3), (16, 16, satN 16 r.contexts)],
   pk [(32, 32, r.mapver.toNat)],
   pk [(60, 4, r.actions.toNat), (56, 4, r.done), (52, 4, r.refused), (32, 16, r.dump.toNat)]]

def modReport (id : BitVec 32) (f : HangReport → HangReport) (s : State) : State :=
  { s with hang := { s.hang with reports := modFirst (fun r => r.id == id) f s.hang.reports } }

/-- ABORT of a standing hang is taken now (R381). -/
def takeAbort (id : BitVec 32) (s : State) : State :=
  match s.hang.standing.find? fun k => k.id == id with
  | none => s
  | some k => match k.abort with
    | none => s
    | some (ctx, _) =>
      let s := { s with hang := { s.hang with
        standing := modFirst (fun k => k.id == id) (fun k => { k with abort := none }) s.hang.standing } }
      abortContext ctx (modReport id (fun r => { r with done := r.done ||| 2 }) s)

/-- The latest kept report that names a core of the list (R295). -/
def hangNaming (s : State) (cs : List Nat) : Option HangReport :=
  s.hang.reports.find? fun r => (r.entries.zipIdx.any fun q => decide (q.2 % 3 = 0) && decide (bits q.1 63 48 / 8 ∈ cs))

/-! ## Sections and offsets (R316, R318, R324) -/

def spanOf (x : Section) : Nat := (128 + x.size + 63) / 64 * 64

def wants (p : DumpParams) (k : Nat) : Bool := p.content.getLsbD k

/-- The sections of a core's spaces with or without DATA (R284). -/
def spaceSections (s : State) (data : Bool) (c : Nat) : List Section :=
  match coreOf s c with
  | none => []
  | some co => (List.range 15).flatMap fun n =>
    if spacePresent co n && spaceData co n == data then
      let x : Section := {
        type := if data then 0x50 else 0x31, phase := if data then 5 else 3, core := c, space := n
        unit := fullAddr s (coreAddr c), size := 8 * spaceSize co n, typeA := wn (spaceSize co n) }
      if spacePerEngine co n then (enginesOf co).map fun e => { x with eng := e, unit := fullAddr s (engAddr c e) }
      else [x]
    else []

/-- Shifts a scan pass captures (R301). -/
def passWidth (n : Nat) : Nat := if n = 0 then 1 else 32768 / n

def scanSections (s : State) (c : Nat) : List Section :=
  match coreOf s c with
  | none => []
  | some co =>
    let n := co.ties.scanChains.toNat
    let l := scanLen co
    if n = 0 then [] else
      [{ type := 0x51, phase := 5, core := c, unit := fullAddr s (coreAddr c), size := (n * l + 7) / 8
         typeA := pk [(32, 16, n), (0, 17, l)], typeB := wn ((l + passWidth n - 1) / passWidth n) }]

def crockSection (s : State) (c : Nat) : Section :=
  { type := 0x20, phase := 2, core := c, unit := fullAddr s (coreAddr c), size := 4096 }
def descSection (s : State) (c : Nat) : Section :=
  { type := 0x30, phase := 3, core := c, space := 15, unit := fullAddr s (coreAddr c), size := 512 }

/-- The sections between the manifest and the trailer, in manifest order. -/
def innerSections (s : State) (p : DumpParams) (cs : List Nat) (hang : Bool) : List Section :=
  (if wants p 0 then
    [{ type := 0x10, phase := 1, size := 32832 }, { type := 0x11, phase := 1, size := 3680 }] ++
    (if p.cutId = 0 then [] else [{ type := 0x12, phase := 1, size := 65792, typeA := p.cutId.setWidth 64 }]) ++
    (if hang then [{ type := 0x13, phase := 1, size := 49216 }] else []) ++ [{ type := 0x14, phase := 1, size := 65600 }]
   else []) ++
  (if wants p 1 then cs.map (crockSection s) else []) ++
  (if wants p 2 then cs.flatMap fun c => descSection s c :: spaceSections s false c else []) ++
  (if wants p 4 then [{ type := 0x40, phase := 4, size := 8388608 }] else []) ++
  (if wants p 3 then cs.flatMap (spaceSections s true) else []) ++
  (if wants p 5 then cs.flatMap (scanSections s) else [])

/-- Offsets in SEQ order. -/
def placeFrom : Nat → List Section → List Section
  | _, [] => []
  | o, x :: xs => { x with offset := o } :: placeFrom (o + spanOf x) xs

def imageSections (s : State) (p : DumpParams) (cs : List Nat) (hang : Bool) : List Section :=
  let inner := innerSections s p cs hang
  placeFrom 0 ([{ type := 0x01, phase := 0, size := 64 }, { type := 0x02, phase := 0, size := 16 * (inner.length + 3) }] ++
    inner ++ [{ type := 0x7F, phase := 6, size := 64 }])

def imageSize (xs : List Section) : Nat := (xs.map spanOf).sum

/-! ## Regions (R289 to R292) -/

def regionOf (s : State) (r : BitVec 4) : Region := s.dumps.regions.getD r.toNat {}
def modRegion (r : BitVec 4) (f : Region → Region) (s : State) : State :=
  { s with dumps := { s.dumps with regions := s.dumps.regions.modify r.toNat f } }

/-- Where an image of `total` bytes goes and where the reserved space then ends; `read` is READ as the host has it. -/
def placeImage (g : Region) (read : Word) (total : Nat) : Option (Nat × Nat) :=
  let up := fun (n : Nat) => (n + 4095) / 4096 * 4096
  let rd := if read.toNat < 4096 then 4096 else read.toNat
  let off := up g.reserved
  let stop := up (off + total)
  let stop0 := up (4096 + total)
  if g.size = 0 then none
  else if rd ≤ g.reserved then
    if off + total ≤ g.size then some (off, stop)
    else if stop0 < rd then some (4096, stop0) else none
  else if stop < rd then some (off, stop) else none

def regionClass (r : BitVec 4) : GovClass := if r = 0 then .crash else .capture

/-- A write to a region through the host memory port. -/
def regionReq (r : BitVec 4) (purpose : Purpose) (addr : Word) (bytes : Nat) (data : List Word) : HmReq :=
  { purpose := purpose, cls := regionClass r, wr := true, phys := decide (r = 0), addr := addr, bytes := bytes, data := data }

/-- Write the hub's words of a region's control block: 0, 2, 3 and 4 (R291). -/
def writeControl (r : BitVec 4) (s : State) : State :=
  let g := regionOf s r
  hmAsk { regionReq r (.dumpPointer r) g.base 40
    [wn g.write, 0, g.skipped, pk [(0, 8, if r = 0 then 0 else 1), (8, 8, 2)], wn g.last] with be := some 0xFFFFFF00FF } s

/-- Images of a region that are still being written, with the GT at which each started and its offset. -/
def openImages (s : State) (r : BitVec 4) : List (GT × Nat) :=
  ((s.dumps.list.filter fun d => d.p.region == r && decide (d.st = .active ∨ d.st = .parked)).map fun d => (d.started, d.offset)) ++
    (s.dumps.streams.filter fun k => k.region == r).map fun k => (k.started, k.offset)

def oldestImage : List (GT × Nat) → Option (GT × Nat)
  | [] => none
  | x :: l => match oldestImage l with
    | none => some x
    | some y => if y.1 < x.1 then some y else some x

/-- Publish WRITE past every image before the oldest one still being written, and LAST (R291, R591). -/
def publishRegion (r : BitVec 4) (s : State) : State :=
  let mine := s.dumps.list.filter fun d => d.p.region == r
  let write := (oldestImage (openImages s r)).map (·.2)
  let s := modRegion r (fun g => { g with
    write := write.getD g.reserved
    last := (((mine.filter fun d => !dumpLive d).head?).map (·.offset)).getD g.last }) s
  if (regionOf s r).size = 0 then s else writeControl r s

/-! ## Payloads of the hub's own sections -/

def dumpOf (s : State) (id : BitVec 16) : Option Dump := s.dumps.list.find? fun d => d.id == id

/-- Table 10.4. -/
def headerPayload (s : State) (d : Dump) : List Word :=
  let origin := if d.origin = 3 && d.stream.isNone then 2 else d.origin
  [pk [(48, 16, 2), (40, 8, 4), (32, 8, 1), (16, 16, d.id.toNat), (0, 16, (chipOf s).toNat)],
   pk [(32, 32, d.p.cutId.toNat), (0, 32, d.p.tag.toNat)], wn d.started, wn d.total,
   pk [(32, 32, d.sections.length), (24, 8, origin), (16, 6, d.p.content.toNat), (12, 4, d.timeState.toNat),
     (8, 4, d.p.region.toNat), (0, 1, b2n d.p.incl)],
   pk [(32, 32, d.churn.toNat), (16, 16, s.fw.major.toNat), (0, 16, s.fw.minor.toNat)], 0, 0]

/-- SPACE as a section header and its manifest entry give it: for CONTROL and DATA only (Tables 10.1, 10.5). -/
def shownSpace (x : Section) : Nat := if x.type = 0x31 ∨ x.type = 0x50 then x.space else 0

/-- Table 10.5. -/
def manifestPayload (d : Dump) : List Word :=
  d.sections.flatMap fun x =>
    [wn x.offset, pk [(32, 32, x.unit.toNat), (24, 8, x.type), (19, 5, shownSpace x), (16, 3, x.phase)]]

def presencePayload (s : State) : List Word :=
  [wn 8192, summaryWord2 s, summaryWord3 s, 0, 0, 0, 0, 0] ++ pairWords ((List.range 8192).map (presenceEntry s))

def timePayload (s : State) : List Word :=
  [wn (hubGt s), wn (timeStateCode s.time.state), 0, 0, 0, 0, 0, 0] ++ s.time.result

/-- Table 11.5 and the log. -/
def errlogPayload (s : State) : List Word :=
  let e := s.errors
  [pk [(32, 32, e.logged.toNat), (0, 32, e.log.length)], pk [(32, 32, e.replaced.toNat), (0, 32, e.storms.toNat)],
   wn e.stormGt, wn (b2n e.storm), 0, 0, 0, 0] ++ e.log.flatMap fun r => [r.w0, r.w1, r.w2, r.w3]

def hasStatus (k : Nat) (x : Section) : Bool := decide (x.status = k ∧ x.type ≠ 0x7F)

/-- The result of a dump that ends now (R296). -/
def dumpCode (d : Dump) : BitVec 8 := if d.sections.any (hasStatus 1) then rPartial else rOk

/-- Table 10.6. -/
def trailerPayload (s : State) (d : Dump) : List Word :=
  let count := fun k => (d.sections.filter (hasStatus k)).length
  let checks := (d.sections.filter fun x => decide (x.type ≠ 0x7F)).map (·.check)
  [pk [(32, 32, count 0), (0, 32, count 1)], pk [(32, 32, count 2), (0, 8, (dumpCode d).toNat)], wn (hubGt s),
   crc64 (d.id.setWidth 64) (bytesOf checks), 0, 0, 0, 0]

/-- The payload of a section of the whole chip, and whether it is TRUNCATED. -/
def hubPayload (s : State) (d : Dump) (x : Section) : List Byte × Bool :=
  match x.type with
  | 0x01 => (bytesOf (headerPayload s d), false)
  | 0x02 => (bytesOf (manifestPayload d), false)
  | 0x10 => (bytesOf (presencePayload s), false)
  | 0x11 => (bytesOf (timePayload s), false)
  | 0x12 => match keptCut s d.p.cutId with
    | none => ([], false)
    | some k => (bytesOf (cutHeader s k ++ k.entries), k.truncated)
  | 0x13 => match d.hang.bind fun id => s.hang.reports.find? fun r => r.id == id with
    | none => ([], false)
    | some r => (bytesOf (hangWords s r ++ r.entries), r.truncated)
  | 0x14 => (bytesOf (errlogPayload s), false)
  | 0x40 => (memBytes 0 s.trace.capacity s.trace.buf, false)
  | _ => (bytesOf (trailerPayload s d), false)

/-! ## Section headers, checks and digests (R317, R319, R327, R328) -/

def seqOf (d : Dump) (i : Nat) : Word := wn (i * 2 ^ 32) ^^^ d.id.setWidth 64

/-- The keyed digest, four words; zero while no redaction key is committed, and once it is destroyed (R528). -/
def digestOf (s : State) (d : Dump) (i : Nat) (x : Section) : List Word :=
  match if s.fuses.redactDestroyed then none else s.fuses.redactKey with
  | none => [0, 0, 0, 0]
  | some key =>
    let pre := [pk [(48, 16, (chipOf s).toNat), (32, 16, d.id.toNat), (0, 32, i)],
      pk [(32, 32, x.unit.toNat), (24, 8, x.gen.toNat), (19, 5, x.space)], wn x.len, wn d.started]
    ((wordsOf (Config.hmacSha256 key (bytesOf pre ++ x.body))) ++ [0, 0, 0, 0]).take 4

/-- Words 2 to 15 of the header of Table 10.1. -/
def headerTail (s : State) (d : Dump) (i : Nat) (x : Section) : List Word :=
  let flags := b2n x.stale + 2 * b2n (decide (0 < x.failed)) + 4 * b2n x.incl + 8 * b2n x.zeroed + 16 * b2n x.truncated
  let tail := if x.status = 2 then digestOf s d i x else [0, 0, 0, 0]
  [pk [(32, 32, i), (24, 8, x.type), (20, 4, x.status), (8, 8, if x.status = 1 then x.cause else 0), (0, 8, flags)],
   wn x.len, wn (spanOf x), pk [(32, 32, x.unit.toNat), (24, 8, x.gen.toNat), (19, 5, shownSpace x)],
   pk [(32, 32, x.failed), (0, 32, x.firstFail)], wn x.stamp, x.typeA, x.typeB] ++ tail ++ [0, 0]

/-- The bytes a section's payload shows in the image. -/
def shownBytes (x : Section) : List Byte := if x.status = 2 then List.replicate x.len 0 else x.body

/-- CHECK: seed OFFSET, SEQ and DUMP_ID; header words 2 to 15 and the payload. -/
def sectCheck (s : State) (d : Dump) (i : Nat) (x : Section) : Word :=
  crc64 (wn x.offset ^^^ seqOf d i) (bytesOf (headerTail s d i x) ++ shownBytes x)

def syncWord : Word := 0x32504D44474C4F54

end Sys2Proof.Machine
end

