-- ==== Sys2Proof/Machine/Dump.lean ====
section
/-!
DEFINITION. The dump engine (chapter 09, "Regions" to "Churn"): starting dumps, phases, intake credits, chunks and headers on
their way to host memory or to the chip that originated a churn, faults, status, cancel, churns.
-/
namespace Sys2Proof.Machine

/-! ## Where a section's bytes go -/

/-- Phases 0 to 2 of a streamed dump go to the chip that originated the churn (R314). -/
def streamsTo (d : Dump) (x : Section) : Option (BitVec 16) := if x.phase ≤ 2 then d.stream else none

/-- Frames of a dump's stream that are not answered. -/
def streamOut (s : State) (id : BitVec 16) : Nat :=
  (s.iz.tracker.filter fun q => match q.2.purpose with | .stream d _ _ => d == id | _ => false).length

/-- A token of zeros, a token of literals (Table 15.13). -/
def zeroToken (n : Nat) : List Word := if n = 0 then [] else [pk [(16, 1, 1), (0, 16, n)]]
def literalToken (ws : List Word) : List Word := if ws = [] then [] else pk [(0, 16, ws.length)] :: ws

/-- Image words as tokens: leading zeros, literals, trailing zeros. -/
def compress (ws : List Word) : List Word :=
  let lead := (ws.takeWhile (· == 0)).length
  let rest := ws.drop lead
  let tail := (rest.reverse.takeWhile (· == 0)).length
  zeroToken lead ++ literalToken (rest.take (rest.length - tail)) ++ zeroToken tail

/-- Words cut into frames of at most 430. -/
def framesOf : Nat → Nat → List Word → List (Nat × List Word)
  | 0, _, _ => []
  | n + 1, off, ws => if ws = [] then [] else (off, ws.take 430) :: framesOf n (off + 8 * (min 430 ws.length)) (ws.drop 430)

/-- Bytes of phases 0 to 2, sent as SIZE in the FIRST frame. -/
def streamSize (d : Dump) : Nat := imageSize (d.sections.filter fun x => decide (x.phase ≤ 2))

/-- Send one frame of the stream (R472). -/
def sendStream (id : BitVec 16) (i : Nat) (header last : Bool) (chip : BitVec 16) (s : State) (f : Nat × List Word) : State :=
  match dumpOf s id with
  | none => s
  | some d =>
    let first := !d.firstSent
    let s := modDump id (fun d => { d with firstSent := true, streamed := true }) s
    let r := openTrack chip (.stream id i header) 4000000 s
    let ws := [pk [(32, 32, d.churn.toNat), (16, 16, id.toNat), (15, 1, b2n first), (14, 1, b2n last)], wn f.1,
      if first then wn (streamSize d) else 0] ++ compress f.2
    sendFrame (mkFrame r.2.2 chip 0x40 r.1 3 ws (8 * ws.length)) r.2.2

/-- Send `bs` to image offset `off`, for a section's payload or its header. -/
def sendImage (id : BitVec 16) (i : Nat) (header : Bool) (off : Nat) (bs : List Byte) (s : State) : State :=
  match dumpOf s id with
  | none => s
  | some d =>
    let x := d.sections.getD i { type := 0, phase := 0, size := 0 }
    match streamsTo d x with
    | some chip =>
      let ws := wordsOf bs
      let fs := framesOf (ws.length / 430 + 1) off ws
      let last := header && d.sections.zipIdx.all fun q => decide (2 < q.1.phase ∨ q.2 = i ∨ q.1.stat = .done)
      fs.foldl (sendStream id i header last chip) (modSect id i (fun x => { x with pend := fs.length }) s)
    | none =>
      let g := regionOf s d.p.region
      let addr := g.base.toNat + d.offset + off
      let ps := splitTransfer addr bs.length
      let s := modSect id i (fun x => { x with pend := ps.length }) s
      ps.foldl (fun s q =>
        hmAsk (regionReq d.p.region (if header then .dumpHeader id i else .dumpData id i q.2) (wn q.1) q.2
          (wordsOf ((bs.drop (q.1 - addr)).take q.2))) s) s

/-- Write the next chunk of a section from what was read of it. -/
def sendChunk (id : BitVec 16) (i : Nat) (s : State) : State :=
  match (dumpOf s id).map fun d => d.sections.getD i { type := 0, phase := 0, size := 0 } with
  | none => s
  | some x =>
    let bs := (x.body.drop x.sent).take 4096
    let bs := if x.status = 2 then bs.map fun _ => 0 else bs
    sendImage id i false (x.offset + 128 + x.sent) bs (modSect id i (fun x => { x with stat := .writing }) s)

/-- Write a section's header, its check computed now (R319). -/
def writeHeaderOf (id : BitVec 16) (i : Nat) (s : State) : State :=
  match dumpOf s id with
  | none => s
  | some d =>
    let x := d.sections.getD i { type := 0, phase := 0, size := 0 }
    let check := sectCheck s d i x
    let s := modSect id i (fun x => { x with stat := .header, check := check }) (hubCheck true check s)
    sendImage id i true x.offset (bytesOf ([syncWord, check] ++ headerTail s d i x)) s

/-! ## The end of a dump (R296, R310 to R312, R315) -/

/-- Table 09.10. -/
def statusWords (s : State) (d : Dump) : List Word :=
  let crash := s.dumps.list.any fun e => decide (e.st = .active ∧ e.p.region = 0) &&
    e.sections.any fun x => decide (x.phase ≤ 5 ∧ x.stat ≠ .done)
  let st := match d.st with
    | .active => if d.p.region ≠ 0 && crash then 2 else 0
    | .parked => 1 | .done => 3 | .cancelled => 4
  let n := fun (p : Section → Bool) => (d.sections.filter p).length
  [pk [(48, 16, d.id.toNat), (40, 8, d.result.toNat), (36, 4, st), (32, 4, d.p.region.toNat), (0, 32, d.p.tag.toNat)],
   wn d.offset, wn d.written, wn d.total,
   pk [(32, 32, n fun x => decide (x.stat = .done ∧ (x.status = 0 ∨ x.status = 2))),
     (0, 32, n fun x => decide (x.status = 1))], d.fault, wn d.started]

/-- A chip's summary of its churn dump reaches this origin (R315). -/
def churnHeard (chip : BitVec 16) (churn : BitVec 32) (code : BitVec 8) (s : State) : State :=
  match s.dumps.churns.find? fun k => k.id == churn with
  | none => s
  | some k =>
    if chip ∈ k.awaited then
      let k' := { k with
        awaited := k.awaited.filter (· ≠ chip), reporting := k.reporting + 1
        notOk := k.notOk + b2n (decide (code ≠ rOk)) }
      if k'.awaited = [] then
        raiseEvent 0x0021 0 [churn.setWidth 64, wn k'.reporting, 0, wn k'.notOk] k.owner (if k'.notOk = 0 then rOk else rPartial)
          { s with dumps := { s.dumps with churns := eraseFirst (fun k => k.id == churn) s.dumps.churns } }
      else { s with dumps := { s.dumps with churns := modFirst (fun k => k.id == churn) (fun _ => k') s.dumps.churns } }
    else s

/-- Send the churn summary of this chip to the churn's origin. -/
def churnReport (churn : BitVec 32) (id : BitVec 16) (code : BitVec 8) (localOnly : Bool) (omitted : Nat) (s : State) : State :=
  let chip : BitVec 16 := (churn >>> 16).setWidth 16
  if chip = chipOf s then churnHeard chip churn code s
  else sendReport churn 1 [pk [(48, 16, id.toNat), (40, 8, code.toNat), (32, 1, b2n localOnly), (0, 32, omitted)]] s

/-- The dump whose status DUMP_STATUS gives: one of the 16 most recent (R311). -/
def statusOf (s : State) (id : BitVec 16) : Option Dump := (s.dumps.list.take 16).find? fun d => d.id == id

/-- The dumps the hub holds: the 16 most recent and those still live. -/
def keepRecent (l : List Dump) : List Dump := l.take 16 ++ (l.drop 16).filter dumpLive

/-- A dump has ended: its state and result, the region's WRITE, the event, the churn summary, the hang that waited. -/
def endDump (id : BitVec 16) (st : DumpState) (code : BitVec 8) (s : State) : State :=
  let s := modDump id (fun d => { d with st := st, result := code }) s
  match dumpOf s id with
  | none => s
  | some d =>
    let s := publishRegion d.p.region s
    let s := { s with dumps := { s.dumps with list := keepRecent s.dumps.list } }
    let s := if basic s then s else raiseEvent 0x0020 0 ((statusWords s d).take 3) d.owner code s
    let s := if d.churn = 0 ∨ basic s = true then s
      else churnReport d.churn id code (d.localOnly) (d.sections.filter (hasStatus 1)).length s
    if decide (st = .done) && !basic s then
      match s.hang.reports.find? fun r => decide (r.kind = 1) && r.dump == id with
      | some r => takeAbort r.id s
      | none => s
    else s

/-! ## Progress through the phases (R295, R296) -/

/-- The phase a dump is in. -/
def phaseOf (d : Dump) : Nat :=
  ((d.sections.filter fun x => decide (x.stat ≠ .done)).map (·.phase)).foldl min 7

def isHubSection (x : Section) : Bool := !(ofCoreSpace x || decide (x.type = 0x20))

/-- TRACE is omitted with cause SESSION while a session runs, and, as the cause that comes nearest, in a dump of another principal
than the one that configured the session (R153, R296; log entry 93). -/
def traceShut (s : State) (d : Dump) : Bool := sessionRuns s || (d.who.isSome && recordsOf s d.who)

/-- Begin a section of the whole chip: its payload is taken now. -/
def beginHubSection (id : BitVec 16) (i : Nat) (s : State) : State :=
  match dumpOf s id with
  | none => s
  | some d =>
    let x := d.sections.getD i { type := 0, phase := 0, size := 0 }
    if x.type = 0x40 ∧ traceShut s d = true then
      writeHeaderOf id i (modSect id i (fun x => { x with stat := .omitting 6, status := 1, cause := 6 }) s)
    else
      let p := hubPayload s d x
      let now := hubGt s
      let cap := s.trace.capacity
      let ended := s.trace.endGt
      let s := modSect id i (fun x => { x with
        body := p.1, len := p.1.length, truncated := p.2, stamp := now, sent := 0
        typeA := if x.type = 0x40 then wn cap else x.typeA, typeB := if x.type = 0x40 then wn ended else x.typeB }) s
      if p.1 = [] then writeHeaderOf id i s else sendChunk id i s

/-- What the hub can do now for one section of the present phase. -/
def pumpSection (id : BitVec 16) (s : State) (q : Section × Nat) : State :=
  match q.1.stat with
  | .omitting _ => writeHeaderOf id q.2 s
  | .due => if isHubSection q.1 then beginHubSection id q.2 s else s
  | _ => s

/-- Move a dump on: sections of its phase, or its end. -/
def pumpDump (id : BitVec 16) (s : State) : State :=
  match dumpOf s id with
  | none => s
  | some d =>
    if d.st ≠ .active then s
    else if d.sections.all fun x => decide (x.stat = .done) then
      match d.ending with
      | some 9 => endDump id .done rDegraded s
      | some _ => endDump id .cancelled (dumpCode d) s
      | none => endDump id .done (dumpCode d) s
    else (d.sections.zipIdx.filter fun q => decide (q.1.phase = phaseOf d)).foldl (pumpSection id) s

/-- Move every active dump on. -/
def pumpDumps (s : State) : State := (s.dumps.list.map (·.id)).foldl (fun s id => pumpDump id s) s

/-- Omit every section of a dump that has not begun, with the cause of its ending; without a trailer for DEGRADED. -/
def endEarly (id : BitVec 16) (cause : Nat) (s : State) : State :=
  modDump id (fun d => { d with
    ending := some cause
    sections := d.sections.map fun x =>
      if x.type = 0x7F then (if cause = 9 then { x with stat := .done, status := 3 } else x)
      else if x.stat = .due then
        { x with stat := .omitting cause, status := 1, cause := cause, body := [], sent := 0, len := 0, failed := 0, firstFail := 0 }
      else x }) s

/-! ## Chunks and headers acknowledged (R299, R305, R319) -/

/-- The state a section is read again from. -/
def restartSect (x : Section) : Section :=
  { x with
    stat := if x.status = 1 then .omitting x.cause else .due
    status := if x.status = 1 then 1 else 0
    body := [], sent := 0, pend := 0, len := 0, failed := 0, firstFail := 0, scanBits := 0, scanCount := 0, incl := false }

/-- Every write of a section's chunk is answered: the credit returns; then the next chunk, or the header. -/
def chunkDone (id : BitVec 16) (i : Nat) (s : State) : State :=
  match dumpOf s id with
  | none => s
  | some d =>
    let x := d.sections.getD i { type := 0, phase := 0, size := 0 }
    let s := if isHubSection x then s else returnCredit x.core s
    let sent := min x.body.length (x.sent + 4096)
    let s := modSect id i (fun x => { x with sent := sent }) s
    if x.len ≤ sent then writeHeaderOf id i s
    else match d.ending with
      | some cause => pumpDump id (modSect id i (fun x => { x with
          stat := .omitting cause, status := 1, cause := cause, body := [], sent := 0, len := 0, failed := 0, firstFail := 0 }) s)
      | none =>
        if isHubSection x then sendChunk id i s
        else if x.incl && !d.incl then modSect id i restartSect s
        else modSect id i (fun x => { x with stat := .due }) s

/-- A section's header is in the image: the crocks of a CROCK section thaw (R286). -/
def headerDone (id : BitVec 16) (i : Nat) (s : State) : State :=
  match dumpOf s id with
  | none => s
  | some d =>
    let x := d.sections.getD i { type := 0, phase := 0, size := 0 }
    let s := modSect id i (fun x => { x with stat := .done, body := [] }) s
    let s := if x.type = 0x20 ∧ x.status = 0 then (List.range 8).foldl (fun s e => thawCrock x.core e s) s else s
    pumpDump id s

/-- One write, or one frame, of a section is answered OK. -/
def sectAnswered (id : BitVec 16) (i : Nat) (header : Bool) (s : State) : State :=
  match dumpOf s id with
  | none => s
  | some d =>
    let x := d.sections.getD i { type := 0, phase := 0, size := 0 }
    if x.pend = 0 then s else
    let s := modSect id i (fun x => { x with pend := x.pend - 1 }) s
    if x.pend = 1 then (if header then headerDone id i s else chunkDone id i s) else s

/-- A dump write is answered OK. -/
def dumpWritten (r : HmReq) (s : State) : State :=
  let go := fun (id : BitVec 16) (i : Nat) (header : Bool) =>
    sectAnswered id i header (modDump id (fun d => { d with written := d.written + r.bytes }) s)
  match r.purpose with
  | .dumpData id i _ => go id i false
  | .dumpHeader id i => go id i true
  | _ => s

def ofDump (id : BitVec 16) (p : Purpose) : Bool :=
  match p with | .dumpData d _ _ => d == id | .dumpHeader d _ => d == id | _ => false

/-- Give up what a dump has in hand: its writes, its credits; partly written sections start again. -/
def dropHands (id : BitVec 16) (s : State) : State :=
  match dumpOf s id with
  | none => s
  | some d =>
    let s := (d.sections.filter fun x => sectBusy x && !isHubSection x).foldl (fun s x => returnCredit x.core s) s
    let s := modDump id (fun d => { d with sections := d.sections.map fun x => if x.stat = .done then x else restartSect x }) s
    hmCancel (ofDump id) s

/-- A dump write met a fault: the dump parks (R305). -/
def dumpFaulted (r : HmReq) (code : BitVec 8) (s : State) : State :=
  let park := fun (id : BitVec 16) =>
    let s := dropHands id s
    let s := modDump id (fun d => { d with st := .parked, fault := r.addr, result := code }) s
    if basic s then s else raiseEvent 0x0130 1 [id.setWidth 64, code.setWidth 64, r.addr] {} code s
  match r.purpose with
  | .dumpData id _ _ => park id
  | .dumpHeader id _ => park id
  | _ => s

/-- Streaming has failed: phases 0 to 2 are written locally after all (R472). -/
def streamFailed (id : BitVec 16) (s : State) : State :=
  match dumpOf s id with
  | none => s
  | some d =>
    if d.stream.isNone then s else
    let s := (d.sections.filter fun x => decide (x.phase ≤ 2) && sectBusy x && !isHubSection x).foldl
      (fun s x => returnCredit x.core s) s
    let s := modDump id (fun d => { d with
      stream := none, localOnly := true
      sections := d.sections.map fun x => if x.phase ≤ 2 then restartSect x else x }) s
    let s := { s with iz := { s.iz with tracker := s.iz.tracker.filter fun q => match q.2.purpose with
      | .stream k _ _ => !(k == id)
      | _ => true } }
    pumpDump id s

/-! ## Credits and core sections (R299, R300, R301) -/

/-- Credits the leaf of a cluster holds. -/
def leafCredits (s : State) (cl : Nat) : Nat :=
  ((s.dumps.list.filter dumpLive).map fun d =>
    (d.sections.filter fun x => sectBusy x && !isHubSection x && decide (clusterOf x.core = cl)).length).sum

/-- The dumps that receive credits now: the crash dump until its phase 5 is complete, else the captures. -/
def creditDumps (s : State) : List Dump :=
  let act := s.dumps.list.reverse.filter fun d => decide (d.st = .active)
  let crash := act.filter fun d => decide (d.p.region = 0)
  if crash.any fun d => decide (phaseOf d ≤ 5) then crash else act

/-- The sections of a partition that a credit may serve, in the order of their dump, their leaf's and their core's turn. -/
def creditTurns (s : State) (p : Nat) : List (BitVec 16 × Nat × Section) :=
  (creditDumps s).flatMap fun d => (d.sections.zipIdx.filter fun q =>
      decide (q.1.stat = .due ∧ q.1.phase = phaseOf d ∧ partOf q.1.core = p) && !isHubSection q.1 &&
      !underTest s q.1.core && decide (leafCredits s (clusterOf q.1.core) < 2) &&
      (decide (q.1.type ≠ 0x51) || ((coreOf s q.1.core).map fun co => co.scan.isNone).getD false) &&
      ((streamsTo d q.1).isNone || decide (streamOut s d.id + 2 ≤ 64))).map fun q => (d.id, q.2, q.1)

/-- Turn of a core's section: leaves and, within a leaf, cores follow the one served last. -/
def turnOf (s : State) (p : Nat) (x : Section) : Nat :=
  let cl := clusterOf x.core
  ((cl + 64 - (s.dumps.nextLeaf.getD p 0) % 64) % 64) * 16 + (x.core + 16 - ((tget cl s.dumps.nextCore).getD 0) % 16) % 16

def firstTurn (s : State) (p : Nat) : List (BitVec 16 × Nat × Section) → Option (BitVec 16 × Nat × Section)
  | [] => none
  | a :: l => match firstTurn s p l with
    | none => some a
    | some b => if turnOf s p b.2.2 < turnOf s p a.2.2 then some b else some a

/-- Why a core's section cannot be read when it is due (Table 09.8). -/
def omitCause (s : State) (x : Section) (co : Core) : Option Nat :=
  if x.type = 0x20 ∧ x.kept = true then none
  else if co.st = .quiet ∨ coreGated co = true then some 7
  else if x.type = 0x20 ∧ co.st = .hardStopped then none
  else if x.type = 0x51 then
    if co.st = .hardStopped ∧ x.core ∈ scanGroup s then none else some 3
  else if co.st = .hardStopped then some 2
  else if gateOpen co then none else some 1

/-- Marks taken when a section's first word is read: generation, STALE, stamp, redaction (R298, R322, R323). -/
def firstRead (s : State) (d : Dump) (co : Core) (x : Section) : Section :=
  let eng := decide (x.type = 0x31 ∨ x.type = 0x50) && spacePerEngine co x.space
  let stale := decide (co.st = .stale)
  let en := engOf co x.eng
  let data := decide (x.type = 0x50) && co.tainted
  { x with
    gen := if eng then (if stale then en.oldGen else en.gen) else (if stale then co.oldGen else co.gen)
    stale := stale, stamp := hubGt s, len := x.size
    status := if data && !d.incl then 2 else 0, incl := data && d.incl }

/-- The crock section of a core: 8 engines of 64 words, and each OVERRUN. -/
def crockRead (d : Dump) (co : Core) (x : Section) : Section :=
  let ens := (List.range 8).map fun e => (engOf co e, engPresent co e)
  let runs := fun (k : Nat) => pk ((List.range 4).map fun j => (16 * j, 16, (engOf co (4 * k + j)).overrun.toNat))
  { x with
    body := bytesOf (ens.flatMap fun q => if q.2 then crockWords d.incl q.1 else List.replicate 64 0)
    zeroed := ens.any fun q => q.2 && crockZeroed d.incl q.1, typeA := runs 0, typeB := runs 1 }

/-- A leaf with a credit fills a chunk from one core. -/
def readChunk (d : Dump) (i : Nat) (x : Section) (co : Core) (s : State) : State :=
  let fresh := decide (x.sent = 0)
  let y := if fresh then firstRead s d co x else x
  if x.type = 0x20 then sendChunk d.id i (modSect d.id i (fun _ => crockRead d co y) s)
  else if x.size = 0 then writeHeaderOf d.id i (returnCredit x.core (modSect d.id i (fun _ => y) s))
  else if x.type = 0x51 then
    let n := co.ties.scanChains.toNat
    let s := modSect d.id i (fun _ => { y with stat := .reading }) s
    downPush x.core .scan (modCore x.core (fun c => { c with scan := some (d.id, i, x.scanCount / (n * passWidth n)) }) s)
  else
    let s := modSect d.id i (fun _ => { y with stat := .reading }) s
    let per := decide (x.type ≠ 0x30) && spacePerEngine co x.space
    let en := engOf co x.eng
    let stale := decide (co.st = .stale)
    queueJob x.core {
      serves := .dump d.id i, space := BitVec.ofNat 4 x.space, eng := if per then BitVec.ofNat 3 x.eng else 0, engSpace := per
      first := x.sent / 8, remaining := min 512 ((y.len - x.sent) / 8), gen := y.gen
      now := if per then en.gen else co.gen, stale := stale } s

/-- DUMP_CREDIT_GRANT: the relay of a partition grants one credit to the next section due, or finds that it cannot be
read and has it written as omitted. -/
def execDumpCreditGrant (part : PartIx) (s : State) : Host.Outcome State Fault Refusal :=
  let p := part.toNat
  .next (if serving s then
      let s := pumpDumps s
      match firstTurn s p (creditTurns s p) with
      | none => s
      | some (id, i, x) =>
        match dumpOf s id, coreOf s x.core with
        | some d, some co =>
          match omitCause s x co with
          | some cause => pumpDump id (omitSection id cause s (x, i))
          | none =>
            if s.dumps.credits.getD p 0 = 0 then s else
            let s := { s with dumps := { s.dumps with
              credits := s.dumps.credits.modify p (· - 1)
              nextLeaf := s.dumps.nextLeaf.set p (clusterOf x.core + 1)
              nextCore := tset (clusterOf x.core) (x.core + 1) s.dumps.nextCore } }
            readChunk d i x co s
        | _, _ => s
    else s)

/-- The words of a chunk have been read from a core (R297); the section may have been omitted meanwhile. -/
def chunkRead (id : BitVec 16) (i : Nat) (j : AccessJob) (s : State) : State :=
  match dumpOf s id with
  | none => s
  | some d =>
    let x := d.sections.getD i { type := 0, phase := 0, size := 0 }
    if x.stat = .reading ∧ d.st = .active ∧ j.first * 8 = x.sent then
      sendChunk id i (modSect id i (fun x => { x with
        body := x.body ++ bytesOf j.got, failed := x.failed + j.failed
        firstFail := if x.failed = 0 then j.firstFail else x.firstFail }) s)
    else s

/-- The first word of a section of a core is read: the section takes its marks. -/
def markFirst (c : Nat) (j : AccessJob) (s : State) : State :=
  match j.serves, coreOf s c with
  | .dump id i, some co =>
    match dumpOf s id with
    | some d => if j.first = 0 ∧ j.got = [] then modSect id i (fun x =>
        if x.stat = .reading then firstRead s d co x else x) s else s
    | none => s
  | _, _ => s

/-- The bits of the last shift of a pass, which the shim drove back on `ts_scan_si` from `ts_scan_so` in the same shift, so that
every chain ends in its state from before the scan (R111). -/
def lastShift (n : Nat) (w : Nat) (bits_ : Nat) : BitVec 32 := BitVec.ofNat 32 ((bits_ >>> (n * (w - 1))) % 2 ^ n)

/-- SCAN_PASS_COMPLETE: `chunk` holds the shifts the pass captured, bit n × (j − p × W) + c for chain c at shift j. The core has
left scan configuration (Table 03.7) and the captured words go up the link. -/
def execScanPassComplete (core : CoreIx) (chunk : List Word) (s : State) : Host.Outcome State Fault Refusal :=
  let c := core.toNat
  .next (match coreOf s c with
    | none => s
    | some co =>
      if co.scan.isNone || co.scanRun.isNone then s else
      let n := co.ties.scanChains.toNat
      let bits_ := (bytesOf chunk).foldr (fun b acc => acc * 256 + b.toNat) 0
      upPush c (.scanData chunk) (modCore c (fun x => { x with
        scanRun := none, scanMode := false, scanSe := false, funcClkEn := decide (x.st ≠ .hardStopped)
        scanSi := lastShift n (passWidth n) bits_ }) s))

/-- The leaf reads what a scan pass captured: the section's next chunk (R301). -/
def scanRead (c : Nat) (chunk : List Word) (s : State) : State :=
  match (coreOf s c).bind fun co => co.scan.map fun q => (co, q) with
  | none => s
  | some (co, id, i, p) =>
    let s := modCore c (fun x => { x with scan := none }) s
    match dumpOf s id with
    | none => s
    | some d =>
      let x := d.sections.getD i { type := 0, phase := 0, size := 0 }
      if x.stat = .reading ∧ d.st = .active then
        let n := co.ties.scanChains.toNat
        let got := n * min (passWidth n) (scanLen co - p * passWidth n)
        let new := (bytesOf chunk).foldr (fun b acc => acc * 256 + b.toNat) 0 % 2 ^ got
        let bits_ := x.scanBits + new <<< x.scanCount
        let count := x.scanCount + got
        let bytes := if n * scanLen co ≤ count then x.size else count / 8
        let body := (List.range bytes).map fun k => BitVec.ofNat 8 (bits_ >>> (8 * k))
        let x := if p = 0 then firstRead s d co x else x
        sendChunk id i (modSect id i (fun _ => { x with scanBits := bits_, scanCount := count, body := body }) s)
      else s

/-! ## DUMP_START (R288 to R294) -/

/-- DUMP_START SETUP. -/
def execDumpSetup (via : Via) (region : BitVec 4) (base size : Word) (declBw : BitVec 16) (share : BitVec 9) (s : State) :
    Host.Outcome State Fault Refusal :=
  let set := decide (base ≠ 0 ∨ size ≠ 0)
  .next (command via 0x0043 (.dumpSetup via region base size declBw share) false
    (fun s =>
      let align := if region = 0 then 2097152 else 4096
      let least := if region = 0 then 67108864 else 65536
      [(denied s via .opPlatVen .sealedLevel, rDenied),
       (decide (8 < region.toNat) || decide (400 < share.toNat) ||
         (set && decide (base.toNat % align ≠ 0 ∨ size.toNat % align ≠ 0 ∨ size.toNat < least)), rBadArg),
       (set && !(openImages s region).isEmpty, rBusy)])
    (fun s =>
      let s := { s with hm := { s.hm with
        declBw := if declBw = 0 then s.hm.declBw else declBw.toNat, share := if share = 0 then s.hm.share else share.toNat } }
      let s := if set then
          writeControl region (modRegion region (fun _ => {
            base := base, size := size.toNat, reserved := 4096, write := 4096 }) s)
        else s
      respond via rOk [] s) s)

/-- No dump can be started now: 4 are active, the crash region has one, or the space is not free (R292, R294). -/
def noDumpRoom (s : State) (r : BitVec 4) (read : Word) (total : Nat) : Bool :=
  let live := s.dumps.list.filter dumpLive
  decide (4 ≤ live.length) || (decide (r = 0) && live.any fun d => d.p.region == 0) ||
    (placeImage (regionOf s r) read total).isNone

/-- Start a dump of the cores `cs` that has been judged: space, sections, its record; the hub's first writes follow. -/
def startDumpOn (cs : List Nat) (p : DumpParams) (origin : Nat) (owner : Owner) (who : Option Principal) (churn : BitVec 32)
    (stream : Option (BitVec 16)) (hang : Option (BitVec 32)) (read : Word) (s : State) : BitVec 16 × State :=
  let id := s.dumps.next
  let hang := match hang with
    | some h => some h
    | none => if wants p 0 then (hangNaming s cs).map (·.id) else none
  let xs := imageSections s p cs hang.isSome
  let total := imageSize xs
  let at_ := (placeImage (regionOf s p.region) read total).getD (4096, 4096)
  let d : Dump := {
    id := id, p := p, origin := origin, owner := owner, who := who, offset := at_.1, total := total, started := hubGt s
    timeState := BitVec.ofNat 4 (timeStateCode s.time.state), incl := p.incl, churn := churn, stream := stream
    hang := hang, sections := xs }
  let s := modRegion p.region (fun g => { g with reserved := at_.2 })
    { readMetered s with dumps := { s.dumps with next := nextSeq id, list := keepRecent (d :: s.dumps.list) } }
  (id, pumpDump id s)

/-- Start a dump of the set its parameters name. -/
def startDump (p : DumpParams) (origin : Nat) (owner : Owner) (who : Option Principal) (churn : BitVec 32)
    (stream : Option (BitVec 16)) (hang : Option (BitVec 32)) (read : Word) (s : State) : BitVec 16 × State :=
  startDumpOn (coresIn s p.addr p.mask) p origin owner who churn stream hang read s

/-- Image bytes a dump of `cs` would reserve. -/
def startTotalOn (s : State) (cs : List Nat) (p : DumpParams) (hang : Bool) : Nat :=
  imageSize (imageSections s p cs (hang || (wants p 0 && (hangNaming s cs).isSome)))

def startTotal (s : State) (p : DumpParams) (hang : Bool) : Nat := startTotalOn s (coresIn s p.addr p.mask) p hang

def startLevel (p : DumpParams) : DebugLevel :=
  if wants p 5 then .invasive else if wants p 2 || wants p 3 || wants p 4 then .observe else .sealedLevel

/-- The checks of START in the order of R14. -/
def startChecks (via : Via) (p : DumpParams) (read : Word) (s : State) : List (Bool × BitVec 8) :=
  let cs := coresIn s p.addr p.mask
  let shut := cs.all fun c => !((coreOf s c).map gateOpen).getD false
  [(denied s via .opPlatVen (startLevel p) || inclDenied s via p.incl 3, rDenied),
   (setBadArg s p.addr p.mask 1 || decide (8 < p.region.toNat ∨ p.content = 0) ||
     (decide (p.cutId ≠ 0) && (keptCut s p.cutId).isNone), rBadArg),
   (setBadUnit s p.addr p.mask 1, rBadUnit), (shut && decide (p.content &&& 0x33 = 0), rBusy),
   (noDumpRoom s p.region read (startTotal s p false), rNoResource)]

/-- START for a request of the host. -/
def hostStart (via : Via) (cmd : BitVec 16) (i : Instr) (p : DumpParams) (read : Word) (s : State) : State :=
  command via cmd i false (startChecks via p read)
    (fun s =>
      let off := ((placeImage (regionOf s p.region) read (startTotal s p false)).map Prod.fst).getD 0
      let id := s.dumps.next
      let owner := ownerOf s via
      let who := whoOf s via
      let s := respond via rPending [id.setWidth 64, wn off] s
      (startDump p 0 owner who 0 none none read s).2) s

/-- DUMP_START START. -/
def execDumpStart (via : Via) (p : DumpParams) (read : Word) (s : State) : Host.Outcome State Fault Refusal :=
  .next (hostStart via 0x0043 (.dumpStart via p 0) p read s)

/-- SCAN_OUT: START with CONTENT of SCAN alone. -/
def execScanOut (via : Via) (p : DumpParams) (read : Word) (s : State) : Host.Outcome State Fault Refusal :=
  .next (hostStart via 0x0042 (.scanOut via p 0) { p with content := 0x20 } read s)

/-- A dump of the cores `cs` the hub starts on its own, to the crash region (R292); where it cannot, SKIPPED advances
and DUMP_SKIPPED is raised. -/
def hubDump (cs : List Nat) (hang : Option (BitVec 32)) (read : Word) (s : State) : Option (BitVec 16) × State :=
  let p : DumpParams := {
    addr := fullAddr s 0, mask := 0xFFFF0000, region := 0, content := 7, incl := false, cutId := 0, tag := 0 }
  if noDumpRoom s 0 read (startTotalOn s cs p hang.isSome) then
    let s := modRegion 0 (fun g => { g with skipped := satInc g.skipped }) s
    let s := if (regionOf s 0).size = 0 then s else writeControl 0 s
    (none, raiseEvent 0x0131 1 [rNoResource.setWidth 64] {} 0 s)
  else
    let r := startDumpOn cs p 1 {} none 0 none hang read s
    (some r.1, r.2)

/-! ## CANCEL, STATUS, FAULT_RETRY (R306, R311, R312) -/

/-- End a parked dump: its remaining sections count as CANCELLED, no trailer (R306). -/
def abandonDump (id : BitVec 16) (s : State) : State :=
  let code := ((dumpOf s id).map (·.result)).getD 0
  let s := modDump id (fun d => { d with
    sections := d.sections.map fun x =>
      if x.stat = .done then x else if x.type = 0x7F then { x with stat := .done, status := 3 }
      else { x with stat := .done, status := 1, cause := if x.status = 1 then x.cause else 8, body := [] } }) s
  endDump id .cancelled code s

def execDumpCancel (via : Via) (id : BitVec 16) (s : State) : Host.Outcome State Fault Refusal :=
  .next (command via 0x0043 (.dumpCancel via id) false
    (fun s => [(denied s via .opPlatVen .sealedLevel, rDenied), (!((dumpOf s id).map dumpLive).getD false, rBadArg)])
    (fun s =>
      let s := respond via rOk [] s
      match dumpOf s id with
      | none => s
      | some d => if d.st = .parked then abandonDump id s else pumpDump id (endEarly id 8 s)) s)

def execDumpStatus (via : Via) (id : BitVec 16) (s : State) : Host.Outcome State Fault Refusal :=
  .next (command via 0x0044 (.dumpStatus via id) false
    (fun s => [(denied s via .opPlatVen .sealedLevel, rDenied), ((statusOf s id).isNone, rBadArg)])
    (fun s => match statusOf s id with
      | none => respond via rBadArg [] s
      | some d => respond via rOk (statusWords s d) s) s)

/-- FAULT_RETRY of a dump, a pail set or the trace sink. -/
def execFaultRetry (via : Via) (target : BitVec 2) (index : BitVec 16) (abandon : Bool) (s : State) :
    Host.Outcome State Fault Refusal :=
  .next (command via 0x0045 (.faultRetry via target index abandon) false
    (fun s =>
      let parked := match target.toNat with
        | 0 => ((dumpOf s index).map fun d => decide (d.st = .parked)).getD false
        | 1 => decide (index.toNat < 4) && (pailSet s (index.setWidth 2)).fault.isSome
        | 2 => s.trace.fault.isSome
        | _ => false
      [(denied s via .opPlatVen .sealedLevel, rDenied), (!parked, rBadArg)])
    (fun s =>
      let s := respond via rOk [] s
      match target.toNat with
      | 0 =>
        if abandon then abandonDump index s
        else pumpDump index (modDump index (fun d => { d with st := .active, result := 0 }) s)
      | 1 => pailRetry (index.setWidth 2) s
      | _ => traceRetry s) s)

/-! ## Churn (R313 to R315) -/

/-- Start this chip's dump of a churn's cut, or say why it cannot: the code its hub reports. A part of the set with no present
core is reported complete with zero counts (R24). -/
def churnDump (cut churn : BitVec 32) (content : BitVec 6) (region : BitVec 4) (stream : Bool) (tag : BitVec 32)
    (owner : Owner) (who : Option Principal) (read : Word) (s : State) : State :=
  match keptCut s cut with
  | none => churnReport churn 0 rBadArg false 0 s
  | some x =>
    let cs := coresIn s x.addr x.mask
    let p : DumpParams := {
      addr := x.addr, mask := x.mask, region := region, content := content, incl := false, cutId := cut, tag := tag }
    let origin : BitVec 16 := (churn >>> 16).setWidth 16
    let shut := cs.all fun c => !((coreOf s c).map gateOpen).getD false
    if cs = [] then churnReport churn 0 rOk false 0 s
    else if shut && decide (content &&& 0x33 = 0) then churnReport churn 0 rBusy false 0 s
    else if noDumpRoom s region read (startTotal s p false) then churnReport churn 0 rNoResource false 0 s
    else
      let away := stream && decide (origin ≠ chipOf s) && routeForeseen s origin 3
      let r := startDump p (if away then 3 else 2) owner who churn (if away then some origin else none) none read s
      if stream && decide (origin ≠ chipOf s) && !away then modDump r.1 (fun d => { d with localOnly := true }) r.2 else r.2

/-- CHURN. -/
def execChurn (via : Via) (cutId : BitVec 32) (content : BitVec 6) (region : BitVec 4) (stream : Bool)
    (tag deadline : BitVec 32) (read : Word) (s : State) : Host.Outcome State Fault Refusal :=
  .next (command via 0x0043 (.churn via cutId content region stream tag deadline 0) false
    (fun s =>
      let x := activeCut s cutId
      let level := if content.getLsbD 5 then DebugLevel.invasive else .observe
      [(stream && levelThree s via, rVersion), (denied s via .opPlatVen level || decide (whoOf s via = some .vendor), rDenied),
       (decide (content = 0 ∨ 8 < region.toNat) || x.isNone || !((x.map fun x => namesOther s x.addr x.mask).getD false),
         rBadArg),
       (!((x.map (cutInForce s)).getD false), rBusy)])
    (fun s => match activeCut s cutId with
      | none => respond via rBusy [] s
      | some x =>
        let id := chipOf s ++ s.dumps.nextChurn
        let owner := ownerOf s via
        let who := whoOf s via
        let here := namesHere s x.addr x.mask
        let awaited := chipsNamed s x.addr x.mask ++ (if here then [chipOf s] else [])
        let dl := if deadline = 0 then 4000000000 else deadline.toNat
        let k : Churn := { id := id, owner := owner, deadline := hubGt s + dl, region := region, awaited := awaited }
        let s := respond via rPending [id.setWidth 64] { s with dumps := { s.dumps with
          nextChurn := nextSeq s.dumps.nextChurn, churns := s.dumps.churns ++ [k] } }
        let s := stopFlood 4 false id 0 x.addr x.mask 0 (pk [(32, 32, cutId.toNat), (0, 32, dl)])
          (pk [(32, 32, tag.toNat), (12, 1, b2n stream), (8, 4, region.toNat), (0, 6, content.toNat)]) s
        if here then churnDump cutId id content region false tag owner who read s else s) s)

/-- CHURN_DEADLINE: chips not heard of are missing. -/
def execChurnDeadline (churnId : BitVec 32) (s : State) : Host.Outcome State Fault Refusal :=
  .next (match s.dumps.churns.find? fun k => k.id == churnId with
    | none => s
    | some k =>
      if k.deadline ≤ hubGt s ∧ basic s = false then
        raiseEvent 0x0021 0 [churnId.setWidth 64, wn k.reporting, wn k.awaited.length, wn k.notOk] k.owner rPartial
          { s with dumps := { s.dumps with churns := eraseFirst (fun k => k.id == churnId) s.dumps.churns } }
      else s)

end Sys2Proof.Machine
end

