-- ==== Sys2Proof/Machine/StateAccess.lean ====
section
/-!
DEFINITION. State access (R106 to R108, R280 to R283): STATE_READ, STATE_WRITE, and the acknowledgement and timeout of one
word at the shim, for those commands and for the dump engine alike.
-/
namespace Sys2Proof.Machine

/-! ## The end of a job -/

/-- Present generation of the smallest domain of a job's unit. -/
def jobDomain (s : State) (c : Nat) (j : AccessJob) : BitVec 8 :=
  if j.engSpace then engGen s c j.eng.toNat else coreGen s c

/-- Count, first failing WADDR and code, where a word failed. -/
def failWords (j : AccessJob) : List Word :=
  if j.failed = 0 then [] else [wn j.failed, wn j.firstFail, j.firstCode.setWidth 64]

/-- Answer of a STATE_READ or STATE_WRITE whose words have all been tried (Table 09.2). -/
def answerAccess (via : Via) (j : AccessJob) (s : State) : State :=
  let data := if j.write then [] else j.got
  if j.stale then respond via rStale (data ++ [j.gen.setWidth 64] ++ failWords j) s
  else if j.failed = 0 then respond via rOk data s
  else if j.failed = j.got.length then respond via j.firstCode [] s
  else respond via rPartial (data ++ failWords j) s

/-- The unit of a command's job has been reset since the request: its generation is no longer the domain's (R39). -/
def outdated (s : State) (c : Nat) (j : AccessJob) : Bool :=
  match j.serves with
  | .dump _ _ => false
  | .nobody => false
  | .command _ => decide (jobDomain s c j ≠ j.now)

/-- A job has tried its last word, or its unit has been reset and the command receives GENERATION (R39). -/
def jobEnds (c : Nat) (j : AccessJob) (s : State) : State :=
  match j.serves with
  | .dump id i => chunkRead id i j s
  | .nobody => s
  | .command via => if outdated s c j then respond via rGeneration [] s else answerAccess via j s

/-- A word of a job is answered with a code of Table 03.2 as a result code. -/
def tookWord (j : AccessJob) (w : Word) (code : BitVec 8) : AccessJob :=
  let ok := decide (code = rOk)
  { j with
    got := j.got ++ [if ok then w else 0], remaining := j.remaining - 1
    failed := j.failed + b2n (!ok)
    firstFail := if j.failed = 0 && !ok then j.first + j.got.length else j.firstFail
    firstCode := if j.failed = 0 && !ok then code else j.firstCode }

/-- Words that cannot be asked for, the gate being closed, fail with BUSY (R106). -/
def failRest : Nat → AccessJob → AccessJob
  | 0, j => j
  | n + 1, j => failRest n (tookWord j 0 rBusy)

def frontJob (s : State) (c : Nat) : Option AccessJob := (coreOf s c).bind fun co => co.jobs.head?

/-- Go on with the jobs of a core, no word being outstanding: the next word is asked for while the gate is open; `n` bounds the
jobs that end. -/
def accessGo : Nat → Nat → State → State
  | 0, _, s => s
  | n + 1, c, s =>
    match frontJob s c with
    | none => s
    | some j =>
      if ((coreOf s c).map (·.saBusy)).getD false then s else
      let j := if accessible s c then j else failRest j.remaining j
      if j.remaining = 0 || outdated s c j then
        accessGo n c (jobEnds c j (modCore c (fun co => { co with jobs := co.jobs.drop 1 }) s))
      else raiseAccess c s

/-- One word of the job in front has been answered. -/
def wordDone (c : Nat) (w : Word) (code : BitVec 8) (s : State) : State :=
  let n := ((coreOf s c).map (·.jobs.length)).getD 0
  accessGo (n + 1) c (modCore c (fun co => { co with
    saBusy := false, jobs := match co.jobs with | [] => [] | j :: js => tookWord j w code :: js }) s)

/-- A reply of a unit that was reset since the request is dropped and counted (R39). -/
def dropReply (c : Nat) (s : State) : State :=
  if ((frontJob s c).map (outdated s c)).getD false then { s with ao := { s.ao with genDrop := s.ao.genDrop + 1 } } else s

/-- `ts_sa_err` as a result code (Table 03.2). -/
def saCode (err : BitVec 2) : BitVec 8 :=
  match err.toNat with | 0 => rOk | 1 => rBadArg | 2 => rMemError | _ => rBusy

/-- The leaf reads a reply. The first word of a dump section's chunk takes the section's marks (R298, R322, R323). -/
def replyRead (c : Nat) (w : Word) (code : BitVec 8) (s : State) : State :=
  match frontJob s c with
  | none => modCore c (fun co => { co with saBusy := false }) s
  | some j => wordDone c w code (dropReply c (markFirst c j s))

/-- The access in progress ends with its reply in the protected class; `gap` cycles on, the next request may stand (Table
03.6, R108). -/
def accessEnds (c : Nat) (w : Word) (code : BitVec 8) (timedOut : Bool) (gap : Nat) (co : Core) (s : State) : State :=
  upPush c (.reply w code co.saGen)
    (modCore c (fun x => { x with saReq := false, saTimedOut := timedOut, saFrom := x.cc + BitVec.ofNat 32 gap }) s)

/-- STATE_ACCESS_ACK: one with no request standing is ignored and counted as a violation; so is one after cycle 1,024, when
the shim has given the request up. -/
def execStateAccessAck (core : CoreIx) (dc : Nat) (rdata : Word) (err : BitVec 2) (s : State) :
    Host.Outcome State Fault Refusal :=
  let c := core.toNat
  .next (tapRow c dc 1 (fun s =>
    match coreOf s c with
    | none => s
    | some co =>
      if !co.saReq then violate c (if co.saTimedOut then 11 else 10) none s
      else if 1024 < (co.cc - co.saSince).toNat then violate c 11 none (accessEnds c 0 rTimeout true 17 co s)
      else accessEnds c rdata (saCode err) false 2 co s) s)

/-- STATE_ACCESS_TIMEOUT: 1,024 core cycles after the request without an acknowledgement; no request stands in the 16 cycles
that follow. -/
def execStateAccessTimeout (core : CoreIx) (dc : Nat) (s : State) : Host.Outcome State Fault Refusal :=
  let c := core.toNat
  .next (tapRow c dc 0 (fun s =>
    match coreOf s c with
    | none => s
    | some co =>
      if co.saReq && decide (1024 ≤ (co.cc - co.saSince).toNat) then accessEnds c 0 rTimeout true 17 co s
      else s) s)

/-! ## STATE_READ and STATE_WRITE (Table 09.1) -/

/-- The core and engine an address names. -/
def addrCore (a : UnitAddr) : Nat := a.toNat % 65536 / 8
def addrEng (a : UnitAddr) : Nat := a.toNat % 8

/-- The space has one instance per engine; space 16 has too. -/
def engineSpace (co : Core) (n : Nat) : Bool := decide (n = 16) || (decide (n < 15) && spacePerEngine co n)

/-- BAD_ARG of a state access: space, address form, range, and for a write a space that is not WRITABLE. -/
def accessBadArg (s : State) (a : UnitAddr) (space waddr count : Nat) (write : Bool) : Bool :=
  decide (16 < space ∨ count = 0 ∨ 256 < count) || decide ((a >>> 16).setWidth 16 ≠ chipOf s) ||
    (match coreOf s (addrCore a) with
     | none => false
     | some co =>
       (!engineSpace co space && decide (addrEng a ≠ 0)) || decide (spaceSize co space < waddr + count) ||
         (write && (decide (15 ≤ space) || !spaceWritable co space)))

def accessBadUnit (s : State) (a : UnitAddr) (space : Nat) : Bool :=
  match coreOf s (addrCore a) with
  | none => true
  | some co => engineSpace co space && !engPresent co (addrEng a)

/-- The generation a request must carry (R39). -/
def accessGen (s : State) (a : UnitAddr) (space : Nat) : BitVec 8 :=
  match coreOf s (addrCore a) with
  | none => 0
  | some co => if engineSpace co space then (engOf co (addrEng a)).gen else co.gen

/-- The checks of a state access in the order of R14. -/
def accessChecks (via : Via) (a : UnitAddr) (space waddr count : Nat) (gen : BitVec 8) (incl write : Bool) (s : State) :
    List (Bool × BitVec 8) :=
  let co := coreOf s (addrCore a)
  let secret := (co.map fun co => co.tainted && decide (space < 15) && spaceData co space).getD false
  let shut := !accessible s (addrCore a) || (co.map coreGated).getD false
  [(denied s via .opPlatVen (if write then .invasive else .observe) || inclDenied s via incl 2 || (secret && !incl), rDenied),
   (accessBadArg s a space waddr count write, rBadArg), (accessBadUnit s a space, rBadUnit),
   (decide (gen ≠ accessGen s a space), rGeneration),
   (shut || (write && dumpHolds s (addrCore a)), rBusy)]

/-- The job of a command. -/
def accessJob (via : Via) (s : State) (a : UnitAddr) (space waddr count : Nat) (data : List Word) (write : Bool) : AccessJob :=
  let noTie : CoreTie := ⟨0, 0, 0, false, 0, 0, false, []⟩
  let co := (coreOf s (addrCore a)).getD { ties := noTie }
  let per := engineSpace co space
  let en := engOf co (addrEng a)
  let stale := decide (co.st = .stale)
  { serves := .command via, write := write, space := BitVec.ofNat 4 space, eng := if per then BitVec.ofNat 3 (addrEng a) else 0
    engSpace := per, first := waddr, remaining := count, wdata := data
    gen := if per then (if stale then en.oldGen else en.gen) else (if stale then co.oldGen else co.gen)
    now := if per then en.gen else co.gen, stale := stale }

/-- STATE_READ. Space 16 is answered by the leaf at once (R287). -/
def execStateRead (via : Via) (a : UnitAddr) (space : BitVec 5) (waddr : BitVec 32) (count : BitVec 9) (gen : BitVec 8)
    (incl : Bool) (s : State) : Host.Outcome State Fault Refusal :=
  .next (command via 0x0040 (.stateRead via a space waddr count gen incl) false (accessChecks via a space.toNat waddr.toNat count.toNat gen incl false)
    (fun s =>
      let c := addrCore a
      let j := accessJob via s a space.toNat waddr.toNat count.toNat [] false
      if space = 16 then
        let en := ((coreOf s c).map fun co => engOf co (addrEng a)).getD {}
        answerAccess via { j with got := ((crockWords incl en).drop waddr.toNat).take count.toNat, remaining := 0 } s
      else queueJob c j s) s)

/-- STATE_WRITE. -/
def execStateWrite (via : Via) (a : UnitAddr) (space : BitVec 5) (waddr : BitVec 32) (count : BitVec 9) (gen : BitVec 8)
    (incl : Bool) (data : List Word) (s : State) : Host.Outcome State Fault Refusal :=
  .next (command via 0x0041 (.stateWrite via a space waddr count gen incl data) false (accessChecks via a space.toNat waddr.toNat count.toNat gen incl true)
    (fun s => queueJob (addrCore a) (accessJob via s a space.toNat waddr.toNat count.toNat data true) s) s)

end Sys2Proof.Machine
end

