-- ==== Sys2Proof/Machine/Hangs.lean ====
section
/-!
DEFINITION. Hang detection (chapter 12): wait edges, the channel map, the sweep, declared hangs and their actions, the
progress monitors and FALLBACK; and the fences the hub makes of its own (R406), which hangs share with autofence.
-/
namespace Sys2Proof.Machine

/-! ## Fences of the hub's own (R406, R407) -/

def ownFences (s : State) (p : Nat → Bool) : Nat := (s.autofence.owned.filter p).length

def ownWindow (s : State) : Nat := hubGt s / 4000000000

/-- Fences of the hub's own made in the present window. -/
def madeInWindow (s : State) : Nat := if s.autofence.window = ownWindow s then s.autofence.inWindow else 0

/-- The limit that forbids the hub to fence a core on its own: 1 CHIP_MAX, 2 PART_MAX, 3 RATE, 4 STATE (R407). -/
def ownLimit (s : State) (c : Nat) : Option Nat :=
  if ((coreOf s c).map fun co => decide (coreReports co = 7)).getD true then some 4
  else if s.autofence.chipMax < ownFences s (fun _ => true) + 1 then some 1
  else if s.autofence.partMax < ownFences s (fun d => decide (partOf d = partOf c)) + 1 then some 2
  else if s.autofence.rate ≤ madeInWindow s then some 3
  else none

/-- Fence a core on the hub's own initiative. -/
def ownFence (c : Nat) (s : State) : State :=
  let n := madeInWindow s + 1
  let w := ownWindow s
  let owned := s.autofence.owned.filter (· ≠ c) ++ [c]
  fenceCore 4 c { s with autofence := { s.autofence with window := w, inWindow := n, owned := owned } }

def isFenced (s : State) (c : Nat) : Bool := ((coreOf s c).map fun co => decide (co.st = .fenced)).getD false

/-! ## Wait edges at the leaf (R357 to R359) -/

/-- The stall an edge reports: STALLED with CHAN_EMPTY or CHAN_FULL, and a command in flight. -/
def chanStall (en : Engine) : Bool := decide (en.lRep = 2 ∧ (en.lStall = 2 ∨ en.lStall = 3))

/-- A core whose leaf raises edges (R359). -/
def edgesAllowed (co : Core) : Bool := decide (co.st = .active) && !co.clockStopped

/-- WAIT_EDGE_RAISE: the stall has lasted BLOCK_GT without a break. -/
def execWaitEdgeRaise (core : CoreIx) (eng : EngIx) (cyc : Nat) (s : State) : Host.Outcome State Fault Refusal :=
  let c := core.toNat
  let e := eng.toNat
  .next (match coreOf s c with
    | none => s
    | some co =>
      let en := engOf co e
      let now := leafGt s (clusterOf c) cyc
      if edgesAllowed co = true ∧ en.st ≠ .resetting ∧ chanStall en = true ∧ en.edge = none ∧ leafValid s (clusterOf c) = true ∧
          max en.lSince en.blockFrom + s.hang.blockGt ≤ now then
        let w : WaitEdge := {
          chan := en.lChan, full := decide (en.lStall = 3), ctx := ((en.lCur.map (·.ctx)).getD 0xFFFF)
          layer := ((en.lCur.map (·.layer)).getD 0), gen := engGen s c e, since := en.lSince, serial := en.serial + 1 }
        let s := modEng c e (fun x => { x with edge := some w, serial := w.serial }) s
        { s with hang := { s.hang with flight := s.hang.flight ++ [.edge c e w] } }
      else s)

/-! ## Reports (R371, R373, R375) -/

/-- Keep the 8 most recent reports of each kind. -/
def keepReport (r : HangReport) (s : State) : State :=
  let same := (s.hang.reports.filter fun q => q.kind = r.kind).take 7
  let keep := s.hang.reports.filter fun q => q.kind ≠ r.kind || same.any fun x => x.id == q.id
  { s with hang := { s.hang with reports := r :: keep } }

/-- A HANG_ID, which advances at each declaration (R371, R613). -/
def nextHangId (s : State) : BitVec 32 := chipOf s ++ s.hang.next

def countDeclared (s : State) : State :=
  { s with hang := { s.hang with next := nextSeq s.hang.next, declared := satInc s.hang.declared } }

/-- The report's word that an event carries (Table 16.12). -/
def reportEvent (code : Nat) (r : HangReport) (s : State) : State := raiseEvent code 1 (hangWords s r) {} 0 s

/-! ## The end of a hang (R372) -/

def knotNames (k : Knot) (n : Nat) : Bool := decide (n ∈ k.listed)

/-- Stop naming the engines of a hang that has ended; gates stay open only where something else opens them. -/
def unname (ns : List Nat) (s : State) : State :=
  let free := ns.filter fun n => !(s.hang.standing.any fun k => knotNames k n)
  let s := free.foldl (fun s n => modEng (n / 8) (n % 8) (fun en => { en with named := false }) s) s
  ((free.map (· / 8)).eraseDups).foldl (fun s c => closeGate c s) s

/-- A standing hang ends: RESOLVED, the event, an action still to be taken is refused. -/
def resolveKnot (s : State) (k : Knot) : State :=
  let s := { s with hang := { s.hang with standing := eraseFirst (fun q => q.id == k.id) s.hang.standing } }
  let s := modReport k.id (fun r => { r with
    resolved := true, refused := if k.abort.isSome then r.refused ||| 2 else r.refused }) s
  unname k.listed (raiseEvent 0x0111 1 [k.id.setWidth 64] {} 0 s)

/-- The edge of an engine has been withdrawn: hangs whose cycle holds it end. -/
def edgeWithdrawn (n : Nat) (s : State) : State :=
  (s.hang.standing.filter fun k => decide (n ∈ k.cycle)).foldl resolveKnot s

/-- The next end of a context resolves its NO_PROGRESS report (R377). -/
def contextEnded (ctx : Nat) (s : State) : State :=
  match (tget ctx s.ctxs).bind (·.report) with
  | none => s
  | some id =>
    let s := { s with ctxs := tmod ctx (fun x => { x with report := none }) s.ctxs }
    raiseEvent 0x0111 1 [id.setWidth 64] {} 0 (modReport id (fun r => { r with resolved := true }) s)

/-! ## The walker's edges (R360, R378) -/

/-- Edges held when the walker is full. -/
def edgeLimit : Nat := 32768

/-- An edge finds the walker full: FALLBACK at once. Basic service keeps no report and raises no event (R384). -/
def enterFallback (s : State) : State :=
  if s.hang.fallback then s else
  let held := s.hang.edges.length
  let s := { s with hang := { s.hang with
    fallback := true, overflows := satInc s.hang.overflows, cands := [], resend := none } }
  if basic s then s else
  let r : HangReport := {
    id := nextHangId s, kind := 3, declared := hubGt s, firstSeen := hubGt s, cycle := held, mapver := s.hang.mapver
    actions := s.hang.actions, inFallback := true }
  reportEvent 0x0113 r (stageHang (hangWords s r) (keepReport r (countDeclared s)))

/-- The walker takes an edge while it has room. -/
def takeEdge (n : Nat) (e : WaitEdge) (s : State) : State :=
  if (tget n s.hang.edges).isSome || decide (s.hang.edges.length < edgeLimit) then
    { s with hang := { s.hang with edges := tset n e s.hang.edges } }
  else enterFallback s

def countStale (s : State) : State := { s with hang := { s.hang with staleEdge := satInc s.hang.staleEdge } }

/-- WAIT_EDGE_RECEIVE: the oldest edge or withdrawal on its way reaches the walker. -/
def execWaitEdgeReceive (s : State) : Host.Outcome State Fault Refusal :=
  .next (match s.hang.flight with
    | [] => s
    | m :: l =>
      if serving s then
        let s := { s with hang := { s.hang with flight := l } }
        match m with
        | .edge c e w => if w.gen ≠ engGen s c e then countStale s else takeEdge (c * 8 + e) w s
        | .withdraw c e gen serial =>
          if gen ≠ engGen s c e then countStale s
          else
            let n := c * 8 + e
            match tget n s.hang.edges with
            | none => edgeWithdrawn n s
            | some w =>
              if w.serial = serial then edgeWithdrawn n { s with hang := { s.hang with edges := tdel n s.hang.edges } } else s
      else s)

/-! ## Live edges (R362, R363) -/

def mapEntry (s : State) (ch : BitVec 18) : Word := (tget ch.toNat s.hang.map).getD 0

def engPresentAt (s : State) (n : Nat) : Bool := ((coreOf s (n / 8)).map fun co => engPresent co (n % 8)).getD false

/-- The target of a live edge, or why it is not live: 0 UNMAPPED, 1 EXTERNAL, 2 MISMATCH. -/
def edgeTarget (s : State) (n : Nat) (e : WaitEdge) : Nat ⊕ Nat :=
  let w := mapEntry s e.chan
  let prod := bits w 31 16
  let cons := bits w 15 0
  let target := if e.full then cons else prod
  if bit w 63 = false ∨ e.chan.toNat ∈ s.hang.mapBad then .inr 0
  else if (if e.full then bit w 61 else bit w 62) then .inr 1
  else if (if e.full then prod else cons) ≠ n ∨ engPresentAt s target = false then .inr 2
  else .inl target

/-- Live edges as (engine, target), ascending. -/
def liveEdges (s : State) : Tab Nat :=
  s.hang.edges.filterMap fun q => match edgeTarget s q.1 q.2 with
    | .inl t => some (q.1, t)
    | .inr _ => none

def notLive (s : State) (cause : Nat) : Nat :=
  (s.hang.edges.filter fun q => edgeTarget s q.1 q.2 == .inr cause).length

/-! ## The sweep (R368) -/

/-- The walker's colours and candidates: engines visited, the candidate of an engine, the cycles in the order found. -/
structure Sweep where
  black : List Nat := []
  knot : Tab Nat := []
  cycles : List (List Nat) := []
deriving DecidableEq, Repr

/-- The chain of live, unvisited edges from an engine, and where it stops; `n` bounds its length. -/
def chainFrom (live : Tab Nat) (black : List Nat) : Nat → List Nat → Nat → List Nat × Nat
  | 0, path, u => (path, u)
  | n + 1, path, u =>
    if u ∈ black ∨ u ∈ path then (path, u) else
    match tget u live with
    | none => (path, u)
    | some t => chainFrom live black n (path ++ [u]) t

def markAll (ns : List Nat) (k : Nat) (t : Tab Nat) : Tab Nat :=
  ns.foldl (fun t n => if (tget n t).isSome then t else tset n k t) t

/-- One engine of the outer loop. -/
def sweepFrom (live : Tab Nat) (w : Sweep) (v : Nat) : Sweep :=
  if v ∈ w.black then w else
  let r := chainFrom live w.black (live.length + 1) [] v
  let path := r.1
  let u := r.2
  let w' := { w with black := w.black ++ path }
  if (tget u live).isSome && decide (u ∈ path) then
    let k := w.cycles.length
    { w' with cycles := w.cycles ++ [path.dropWhile (· ≠ u)], knot := markAll path k w.knot }
  else match tget u w.knot with
    | some k => { w' with knot := markAll path k w.knot }
    | none => w'

/-- The cycles of the live edges, each in the order of target(), and the candidate of every engine that reaches one. -/
def runSweep (live : Tab Nat) (held : List Nat) : Sweep := held.foldl (sweepFrom live) {}

def minOf (l : List Nat) : Nat := l.foldl min 65536

def insertAsc {α : Type} (key : α → Nat) (x : α) : List α → List α
  | [] => [x]
  | y :: l => if key x < key y then x :: y :: l else y :: insertAsc key x l

def sortAsc {α : Type} (key : α → Nat) (l : List α) : List α := l.foldl (fun acc x => insertAsc key x acc) []

/-- A candidate: its cycle in the order of target(), its dependents ascending. -/
structure Cand where
  cycle : List Nat
  deps : List Nat
deriving DecidableEq, Repr

def candsOf (w : Sweep) : List Cand :=
  sortAsc (fun c => minOf c.cycle) (w.cycles.zipIdx.map fun q => {
    cycle := q.1, deps := (w.knot.filter fun k => decide (k.2 = q.2 ∧ ¬ k.1 ∈ q.1)).map Prod.fst })

def serialOf (s : State) (n : Nat) : BitVec 16 := ((tget n s.hang.edges).map (·.serial)).getD 0

/-- Cycle members with their serials in ascending address. -/
def candKey (s : State) (c : Cand) : List (Nat × BitVec 16) := (sortAsc id c.cycle).map fun n => (n, serialOf s n)

/-! ## Declaring a hang (R369 to R371, R374, R380, R381) -/

def edgeAt (s : State) (n : Nat) : WaitEdge :=
  (tget n s.hang.edges).getD { chan := 0, full := false, ctx := 0, layer := 0, gen := 0, since := 0, serial := 0 }

/-- R370. -/
def guiltyOf (s : State) (cycle : List Nat) : Nat :=
  (sortAsc id cycle).foldl (fun g n => if (edgeAt s n).since < (edgeAt s g).since then n else g) (minOf cycle)

/-- The cycle from the guilty engine on. -/
def rotateTo (g : Nat) (l : List Nat) : List Nat := l.dropWhile (· ≠ g) ++ l.takeWhile (· ≠ g)

/-- Table 12.6. -/
def reportEntry (s : State) (role : Nat) (guilty : Bool) (n : Nat) : List Word :=
  let e := edgeAt s n
  [pk [(48, 16, n), (32, 16, e.ctx.toNat), (24, 8, e.gen.toNat), (22, 2, role), (21, 1, b2n e.full), (20, 1, b2n guilty),
     (0, 18, e.chan.toNat)], wn e.since,
   pk [(48, 16, e.layer.toNat), (32, 16, bits (mapEntry s e.chan) 47 32)]]

/-- FENCE: the cores of the cycle in ascending order, as far as R406 allows; whether one was fenced, and one refused. -/
def fenceCycle (cs : List Nat) (s : State) : State × Bool × Bool :=
  cs.foldl (fun r c =>
    if isFenced r.1 c then r
    else match ownLimit r.1 c with
      | some _ => (r.1, r.2.1, true)
      | none => (ownFence c r.1, true, r.2.2)) (s, false, false)

/-- FENCE is DONE when any core was fenced, and REFUSED when any was not (R407). -/
def actFence (id : BitVec 32) (cycle : List Nat) (s : State) : State :=
  if s.hang.actions.getLsbD 2 then
    let r := fenceCycle ((sortAsc (fun c => c) (cycle.map (· / 8))).eraseDups) s
    modReport id (fun x => { x with
      done := x.done ||| 4 * b2n r.2.1, refused := x.refused ||| 4 * b2n r.2.2 }) r.1
  else s

def actDump (id : BitVec 32) (cs : List Nat) (read : Word) (s : State) : State :=
  if s.hang.actions.getLsbD 0 then
    let r := hubDump cs (some id) read s
    modReport id (fun x => match r.1 with
      | some d => { x with done := x.done ||| 1, dump := d }
      | none => { x with refused := x.refused ||| 1 }) r.2
  else s

/-- ABORT: at once, or when the dump is done, at the latest ACT_WAIT after the declaration. -/
def actAbort (id : BitVec 32) (ctx : BitVec 16) (s : State) : State :=
  if s.hang.actions.getLsbD 1 then
    let due := hubGt s + s.hang.actWait
    let s := { s with hang := { s.hang with
      standing := modFirst (fun k => k.id == id) (fun k => { k with abort := some (ctx, due) }) s.hang.standing } }
    if s.hang.actions.getLsbD 0 then s else takeAbort id s
  else s

/-- Declare a hang for a candidate first found at `first`, at the sweep of `g`. -/
def declareKnot (g : GT) (read : Word) (s : State) (q : Cand × GT) : State :=
  let cycle := q.1.cycle
  let guilty := guiltyOf s cycle
  let ge := edgeAt s guilty
  let members := rotateTo guilty cycle ++ q.1.deps
  let entries := (rotateTo guilty cycle).map (fun n => reportEntry s 0 (n = guilty) n) ++ q.1.deps.map (reportEntry s 1 false)
  let listed := members.take 2048
  let id := nextHangId s
  let r : HangReport := {
    id := id, kind := 1, declared := g, firstSeen := q.2, ctx := ge.ctx, engine := BitVec.ofNat 16 guilty, layer := ge.layer
    cycle := cycle.length, dependents := q.1.deps.length
    contexts := (members.map fun n => (edgeAt s n).ctx).eraseDups.length
    mapver := s.hang.mapver, actions := s.hang.actions, truncated := decide (2048 < members.length)
    entries := (entries.take 2048).flatMap fun x => x }
  let s := keepReport r (countDeclared s)
  let s := { s with hang := { s.hang with standing := s.hang.standing ++ [{ id := id, cycle := cycle, listed := listed }] } }
  let s := listed.foldl (fun s n => freezeCrock (n / 8) (n % 8) (modEng (n / 8) (n % 8) (fun en => { en with named := true }) s)) s
  let s := stageCrock (guilty / 8) (guilty % 8) 1 id (stageHang (hangWords s r) (reportEvent 0x0110 r s))
  actAbort id ge.ctx (actDump id ((sortAsc (fun c => c) (listed.map (· / 8))).eraseDups) read (actFence id cycle s))

/-- A candidate stands as a declared hang already. -/
def standsAlready (s : State) (c : Cand) : Bool :=
  s.hang.standing.any fun k => decide (sortAsc id k.cycle = sortAsc id c.cycle)

/-- The walker's part of a sweep at instant `g`. -/
def knotSweep (g : GT) (read : Word) (s : State) : State :=
  let live := liveEdges s
  let cs := candsOf (runSweep live (s.hang.edges.map Prod.fst))
  let same := decide (s.hang.candMapver = s.hang.mapver)
  let firstOf := fun (c : Cand) =>
    if same then (s.hang.cands.find? fun p => decide (p.1 = candKey s c)).map Prod.snd else none
  let fresh := s.hang
  let s := { s with hang := { s.hang with
    live := live.length, sweeps := satInc s.hang.sweeps
    unmapped := satInc s.hang.unmapped (notLive s 0), external := satInc s.hang.external (notLive s 1)
    mismatch := satInc s.hang.mismatch (notLive s 2) } }
  if fresh.load.isSome then { s with hang := { s.hang with cands := [] } } else
  let due := (cs.filterMap fun c => (firstOf c).map fun t => (c, t)).filter fun q => !standsAlready s q.1
  let s := { s with hang := { s.hang with
    cands := cs.map fun c => (candKey s c, (firstOf c).getD g), candMapver := s.hang.mapver } }
  (due.take 16).foldl (declareKnot g read) s

/-! ## Progress monitors (R376, R377, R384) -/

/-- The window in force: 250 in FALLBACK when declarations are off (R378). -/
def progWindow (s : State) : Nat := if s.hang.progSweeps = 1 ∧ s.hang.fallback = true then 250 else s.hang.progSweeps

/-- A context's progress word at a sweep instant. -/
def progStep (g : GT) (x : Ctx) : Ctx :=
  let n := if x.ended then 0 else if x.accrued then satInc x.sweeps else x.sweeps
  { x with sweeps := n, accrued := false, ended := false, firstSweep := if n = 1 ∧ x.sweeps ≠ 1 then g else x.firstSweep }

/-- Declare NO_PROGRESS for a context; basic service keeps no report. -/
def declareStall (g : GT) (s : State) (ctx : Nat) : State :=
  let first := ((tget ctx s.ctxs).map (·.firstSweep)).getD g
  let r : HangReport := {
    id := nextHangId s, kind := 2, declared := g, firstSeen := first, ctx := BitVec.ofNat 16 ctx, mapver := s.hang.mapver
    actions := s.hang.actions, inFallback := s.hang.fallback }
  let s := countDeclared { s with ctxs := tmod ctx (fun x => { x with report := some r.id }) s.ctxs }
  reportEvent 0x0112 r (if basic s then s else stageHang (hangWords s r) (keepReport r s))

def progressSweep (g : GT) (s : State) : State :=
  let s := { s with ctxs := tmap (fun _ x => if x.defined then progStep g x else x) s.ctxs }
  let w := progWindow s
  let late := s.ctxs.filter fun q => q.2.defined && decide (2 ≤ w ∧ q.2.sweeps.toNat = w) && q.2.report.isNone
  (late.map Prod.fst).foldl (declareStall g) s

/-- KNOT_SWEEP: a multiple of PERIOD has been reached since the last sweep instant. `read` is the READ word of the crash
region as the host has it, for a DUMP action. -/
def execKnotSweep (read : Word) (s : State) : Host.Outcome State Fault Refusal :=
  let g := hubGt s / s.hang.period * s.hang.period
  .next (if serving s = true ∧ s.hang.lastSweep < g then
    let s := progressSweep g { s with hang := { s.hang with lastSweep := g } }
    if basic s then { s with hang := { s.hang with cands := [] } }
    else if s.hang.fallback then
      if s.hang.resend.isNone && decide (s.hang.edges.length ≤ 24576) then
        { s with hang := { s.hang with resend := some (allClusters s) } } else s
    else if s.hang.knots then knotSweep g read s else { s with hang := { s.hang with cands := [] } }
  else s)

/-- FALLBACK_RESEND_DONE: a leaf has sent every edge that still stands; after the last one FALLBACK ends (R379). -/
def execFallbackResendDone (cluster : ClusterIx) (s : State) : Host.Outcome State Fault Refusal :=
  let cl := cluster.toNat
  .next (match s.hang.resend with
    | none => s
    | some cls =>
      if cl ∈ cls ∧ basic s = false then
        let mine := s.cores.filter fun q => decide (clusterOf q.1 = cl)
        let s := mine.foldl (fun s q => q.2.engs.zipIdx.foldl (fun s x => match x.1.edge with
          | none => s
          | some w => takeEdge (q.1 * 8 + x.2) w s) s) s
        let left := cls.filter (· ≠ cl)
        if left = [] then
          raiseEvent 0x0114 1 [wn (hubGt s)] {} 0 { s with hang := { s.hang with fallback := false, resend := none, cands := [] } }
        else { s with hang := { s.hang with resend := some left } }
      else s)

/-- HANG_ABORT_TIMEOUT: ACT_WAIT has passed after the declaration (R381). -/
def execHangAbortTimeout (hangId : BitVec 32) (s : State) : Host.Outcome State Fault Refusal :=
  .next (match (s.hang.standing.find? fun k => k.id == hangId).bind (·.abort) with
    | none => s
    | some (_, due) => if due ≤ hubGt s ∧ basic s = false then takeAbort hangId s else s)

/-! ## CHANMAP_LOAD (R364 to R366) -/

/-- The listed fields of an entry (R361, R9). -/
def mapMask : Word := 0xE000FFFFFFFFFFFF

def writeMap (ch : Nat) (w : Word) (s : State) : State :=
  let v := w &&& mapMask
  { s with hang := { s.hang with
    map := if v = 0 then tdel ch s.hang.map else tset ch v s.hang.map, mapBad := s.hang.mapBad.filter (· ≠ ch) } }

def writeMapFrom (first : Nat) (ws : List Word) (s : State) : State :=
  ws.zipIdx.foldl (fun s q => writeMap (first + q.2) q.1 s) s

def bumpMapver (s : State) : State := { s with hang := { s.hang with mapver := s.hang.mapver + 1 } }

def mapRangeBad (first : BitVec 18) (count : BitVec 19) : Bool :=
  decide (count = 0 ∨ 262144 < first.toNat + count.toNat)

/-- Ask for the next entries of a LOAD from host memory: up to the end of a page. -/
def loadPiece (s : State) : State :=
  match s.hang.load with
  | none => s
  | some l =>
    let n := min (8 * l.left - l.rest.length) (4096 - l.addr % 4096)
    hmAsk { purpose := .chanmap l.via l.next, cls := .capture, wr := false, addr := wn l.addr, bytes := n } s

/-- A LOAD ends: MAPVER advances and the command is answered. -/
def endLoad (code : BitVec 8) (ws : List Word) (s : State) : State :=
  match s.hang.load with
  | none => s
  | some l =>
    let s := bumpMapver { s with hang := { s.hang with load := none } }
    respond l.via code (if code = rOk then [s.hang.mapver.setWidth 64] else ws) s

/-- The bytes of one read have arrived. -/
def loadArrived (bs : List Byte) (s : State) : State :=
  match s.hang.load with
  | none => s
  | some l =>
    let all := l.rest ++ bs
    let k := all.length / 8
    let s := writeMapFrom l.next (wordsOf (all.take (8 * k))) s
    let s := { s with hang := { s.hang with
      load := some { l with next := l.next + k, left := l.left - k, addr := l.addr + bs.length, rest := all.drop (8 * k) } } }
    if l.left ≤ k then endLoad rOk [] s else loadPiece s

/-- CHANMAP_LOAD LOAD. -/
def execChanmapLoad (via : Via) (inline : Bool) (addr : Word) (first : BitVec 18) (count : BitVec 19) (data : List Word)
    (s : State) : Host.Outcome State Fault Refusal :=
  .next (command via 0x0026 (.chanmapLoad via inline addr first count data) false
    (fun s => [(denied s via .opPlat .sealedLevel, rDenied),
      (mapRangeBad first count || (inline && decide (448 < count.toNat ∨ data.length ≠ count.toNat)), rBadArg),
      (s.hang.load.isSome, rBusy)])
    (fun s =>
      if inline then
        let s := bumpMapver (writeMapFrom first.toNat data s)
        respond via rOk [s.hang.mapver.setWidth 64] s
      else loadPiece { s with hang := { s.hang with
        load := some { via := via, next := first.toNat, left := count.toNat, addr := addr.toNat } } }) s)

/-- CHANMAP_LOAD CLEAR. -/
def execChanmapClear (via : Via) (first : BitVec 18) (count : BitVec 19) (s : State) : Host.Outcome State Fault Refusal :=
  .next (command via 0x0026 (.chanmapClear via first count) false
    (fun s => [(denied s via .opPlat .sealedLevel, rDenied), (mapRangeBad first count, rBadArg)])
    (fun s =>
      let hit := fun (k : Nat) => decide (first.toNat ≤ k ∧ k < first.toNat + count.toNat)
      let clear := fun (w : Word) => w &&& 0x7FFFFFFFFFFFFFFF
      let s := bumpMapver { s with hang := { s.hang with
        map := (s.hang.map.map fun q => if hit q.1 then (q.1, clear q.2) else q).filter fun q => q.2 ≠ 0
        mapBad := s.hang.mapBad.filter fun k => !hit k } }
      respond via rOk [s.hang.mapver.setWidth 64] s) s)

/-- A value of CONFIG given as zero is left out; otherwise it must lie in its range. -/
def outOfRange (v lo hi : Nat) : Bool := decide (v ≠ 0 ∧ (v < lo ∨ hi < v))
def keepZero (v old : Nat) : Nat := if v = 0 then old else v

/-- CHANMAP_LOAD CONFIG. -/
def execChanmapConfig (via : Via) (knots : BitVec 2) (blockGt period : BitVec 32) (progSweeps : BitVec 16)
    (actions : BitVec 3) (actWait : BitVec 32) (s : State) : Host.Outcome State Fault Refusal :=
  .next (command via 0x0026 (.chanmapConfig via knots blockGt period progSweeps actions actWait) false
    (fun s => [(denied s via .opPlat .sealedLevel, rDenied),
      (decide (knots = 3) || outOfRange blockGt.toNat 4000 40000000 || outOfRange period.toNat 1000000 400000000 ||
        outOfRange actWait.toNat 4000000 4000000000 || (actions.getLsbD 1 && actions.getLsbD 2) ||
        (actions.getLsbD 0 && decide ((regionOf s 0).size = 0)), rBadArg)])
    (fun s => respond via rOk [] { s with hang := { s.hang with
      knots := if knots = 0 then s.hang.knots else decide (knots = 2)
      blockGt := keepZero blockGt.toNat s.hang.blockGt, period := keepZero period.toNat s.hang.period
      progSweeps := keepZero progSweeps.toNat s.hang.progSweeps, actions := actions
      actWait := keepZero actWait.toNat s.hang.actWait } }) s)

/-- CHANMAP_LOAD REPORT: the header and up to 146 entries from FIRST. -/
def execChanmapReport (via : Via) (hangId : BitVec 32) (first : BitVec 16) (s : State) : Host.Outcome State Fault Refusal :=
  .next (command via 0x0026 (.chanmapReport via hangId first) false
    (fun s =>
      let r := s.hang.reports.find? fun r => r.id == hangId
      [(denied s via .opPlat .sealedLevel, rDenied),
       (match r with
        | none => true
        | some r => decide (first ≠ 0 ∧ r.entries.length / 3 ≤ first.toNat), rBadArg)])
    (fun s => match s.hang.reports.find? fun r => r.id == hangId with
      | none => respond via rBadArg [] s
      | some r => respond via rOk (hangWords s r ++ (r.entries.drop (3 * first.toNat)).take 438) s) s)

/-- Table 12.4. -/
def walkerWords (s : State) : List Word :=
  let h := s.hang
  [pk [(32, 32, h.mapver.toNat), (16, 16, satN 16 h.live), (0, 16, satN 16 h.edges.length)],
   pk [(32, 32, h.sweeps.toNat), (0, 32, h.declared.toNat)],
   pk [(48, 16, h.unmapped.toNat), (32, 16, h.external.toNat), (16, 16, h.mismatch.toNat), (0, 16, h.staleEdge.toNat)],
   pk [(63, 1, b2n h.fallback), (62, 1, b2n h.load.isSome), (0, 32, h.overflows.toNat)]]

/-- CHANMAP_LOAD STATUS. -/
def execChanmapStatus (via : Via) (s : State) : Host.Outcome State Fault Refusal :=
  .next (command via 0x0026 (.chanmapStatus via) false (fun s => [(denied s via .opPlat .sealedLevel, rDenied)])
    (fun s => respond via rOk (walkerWords s) s) s)

end Sys2Proof.Machine
end

