-- ==== Sys2Proof/Machine/Autofence.lean ====
section
/-!
DEFINITION. AUTOFENCE_POLICY and what the hub does on a trigger (R405 to R407); the move of records into the intake log (R612).
-/
namespace Sys2Proof.Machine

/-- The window count of a slot restarts on every core. -/
def restartSlot (i : Nat) (s : State) : State :=
  { s with cores := tmap (fun _ co => { co with slotCounts := co.slotCounts.set i {} }) s.cores }

/-- AUTOFENCE_POLICY SLOT. -/
def execAutofenceSlot (via : Via) (p : SlotParams) (s : State) : Host.Outcome State Fault Refusal :=
  .next (command via 0x0053 (.autofenceSlot via p) false
    (fun s => [(denied s via .opPlatVen .sealedLevel, rDenied),
      (p.enable && (setBadArg s p.addr p.mask 1 ||
        decide (p.threshold = 0 ∨ p.window.toNat < 4000 ∨ 4000000000 < p.window.toNat ∨ p.action = 3)), rBadArg),
      (p.enable && setBadUnit s p.addr p.mask 1, rBadUnit)])
    (fun s => respond via rOk [] (restartSlot p.slot.toNat { s with autofence := { s.autofence with
      slots := s.autofence.slots.set p.slot.toNat (if p.enable then some p else none) } })) s)

/-- AUTOFENCE_POLICY LIMITS. -/
def execAutofenceLimits (via : Via) (chipMax : BitVec 14) (partMax : BitVec 11) (rate : BitVec 16) (s : State) :
    Host.Outcome State Fault Refusal :=
  .next (command via 0x0053 (.autofenceLimits via chipMax partMax rate) false
    (fun s => [(denied s via .opPlatVen .sealedLevel, rDenied), (decide (8192 < chipMax.toNat ∨ 1024 < partMax.toNat), rBadArg)])
    (fun s => respond via rOk [] { s with autofence := { s.autofence with
      chipMax := chipMax.toNat, partMax := partMax.toNat, rate := rate.toNat } }) s)

/-- The limits, the counts of R406 for the chip and each partition, then fires, fences and refusals of each slot. -/
def autofenceWords (s : State) : List Word :=
  let a := s.autofence
  [wn a.chipMax, wn a.partMax, wn a.rate, wn (ownFences s fun _ => true)] ++
    (List.range 8).map (fun p => wn (ownFences s fun c => decide (partOf c = p))) ++
    (List.range 4).flatMap fun i =>
      [wn (a.fires.getD i 0).toNat, wn (a.fences.getD i 0).toNat, wn (a.refusals.getD i 0).toNat]

/-- AUTOFENCE_POLICY STATUS. -/
def execAutofenceStatus (via : Via) (s : State) : Host.Outcome State Fault Refusal :=
  .next (command via 0x0053 (.autofenceStatus via) false (fun s => [(denied s via .opPlatVen .sealedLevel, rDenied)])
    (fun s => respond via rOk (autofenceWords s) s) s)

/-- What a logged TRIGGER record of slot `i` for core `c` makes the hub do (R407). -/
def triggered (i c : Nat) (p : SlotParams) (read : Word) (s : State) : State :=
  if p.action = 0 ∨ isFenced s c then s else
  let core := wn (8 * c)
  match ownLimit s c with
  | some k =>
    raiseEvent 0x0121 1 [core, wn i, wn k] {} 0 { s with autofence := { s.autofence with
      refusals := s.autofence.refusals.modify i satInc } }
  | none =>
    let s := ownFence c { s with autofence := { s.autofence with fences := s.autofence.fences.modify i satInc } }
    let s := raiseEvent 0x0120 1 [core, wn i] {} 0 s
    if p.action = 2 then (hubDump [c] none read s).2 else s

/-- INTAKE_LOG_MOVE: the oldest record of the queue is logged. `read` is the READ word of the crash region as the host has
it, for a FENCE_DUMP. -/
def execIntakeLogMove (read : Word) (s : State) : Host.Outcome State Fault Refusal :=
  .next (match s.errors.queue with
    | [] => s
    | r :: l =>
      if serving s then
        let s := logRecord r { s with errors := { s.errors with queue := l } }
        if bits r.w1 63 60 = 10 then
          let i := bits r.w2 63 56
          let s := { s with autofence := { s.autofence with fires := s.autofence.fires.modify i satInc } }
          match s.autofence.slots.getD i none with
          | none => s
          | some p => if basic s then s else triggered i (bits r.w1 47 32 / 8) p read s
        else s
      else s)

end Sys2Proof.Machine
end

