-- ==== Sys2Proof/Machine/Check.lean ====
section
/-!
DEFINITION. The check-value units (R330 to R335), CHECK_FEED (R336, R337) and the governor's window (R302).
-/
namespace Sys2Proof.Machine

/-! ## Unit 1 (R331 to R335) -/

/-- A feed of bytes into a running value. -/
def feedRun (c64 : Bool) (run : Word) (bs : List Byte) : Word :=
  if c64 then crc64 run bs else (bs.foldl crc32Byte (run.setWidth 32)).setWidth 64

def applyFeed (run : Word) : CkFeed → Word
  | .run v => v
  | .bytes c64 bs => feedRun c64 run bs

/-- The host gives the unit back once its queued feeds are applied. -/
def settleOwner (k : Check) : Check := if !k.host && k.queue.isEmpty then { k with owner := false } else k

/-- Apply the oldest queued feed. -/
def drainOne (k : Check) : Check :=
  match k.queue with
  | [] => settleOwner k
  | f :: l => settleOwner { k with run := applyFeed k.run f, queue := l }

/-- Apply every queued feed. -/
def drainAll (k : Check) : Check := settleOwner { k with run := k.queue.foldl applyFeed k.run, queue := [] }

/-- A feed or RUN write of the host: ignored and counted while OWNER is 0, dropped with OVERRUN when the queue is full. -/
def hostFeed (f : CkFeed) (s : State) : State :=
  let k := s.check
  { s with check :=
    if !k.owner then { k with ignored := satInc k.ignored }
    else if 16 ≤ k.queue.length then { k with overrun := true }
    else { k with queue := k.queue ++ [f] } }

def execCkRun (wdata : Word) (wstrb : BitVec 8) (s : State) : Host.Outcome State Fault Refusal :=
  .next (hrWrite wstrb (hostFeed (.run wdata)) s)

/-- The low `n` bytes of a write, bits [7:0] first. -/
def feedBytes (n : Nat) (w : Word) (s : State) : State := hostFeed (.bytes s.check.crc64 ((wordBytes w).take n)) s

def execCkFeedB (wdata : Word) (wstrb : BitVec 8) (s : State) : Host.Outcome State Fault Refusal :=
  .next (hrWrite wstrb (feedBytes 1 wdata) s)
def execCkFeedH (wdata : Word) (wstrb : BitVec 8) (s : State) : Host.Outcome State Fault Refusal :=
  .next (hrWrite wstrb (feedBytes 2 wdata) s)
def execCkFeedW (wdata : Word) (wstrb : BitVec 8) (s : State) : Host.Outcome State Fault Refusal :=
  .next (hrWrite wstrb (feedBytes 4 wdata) s)

/-- A write of CK_CTRL, ALGO and HOST. -/
def writeCkCtrl (wdata : Word) (s : State) : State :=
  { s with check := settleOwner { s.check with crc64 := bit wdata 1, host := bit wdata 0 } }

def execCkCtrlHost (wdata : Word) (wstrb : BitVec 8) (s : State) : Host.Outcome State Fault Refusal :=
  .next (hrWrite wstrb (writeCkCtrl wdata) s)

/-- CK_HOST_GRANT: no scan runs on unit 1, so OWNER is set while HOST asks for it. -/
def execCkHostGrant (s : State) : Host.Outcome State Fault Refusal :=
  .next (if serving s && s.check.host then { s with check := { s.check with owner := true } } else s)

/-- Table 10.9, `CK_STATUS`. -/
def ckStatus (k : Check) : Word :=
  pk [(32, 32, k.ignored.toNat), (9, 1, b2n k.overrun), (8, 1, b2n k.owner), (0, 5, k.queue.length)]

/-- CK_STATUS_READ clears IGNORED. -/
def execCkStatusRead (s : State) : Host.Outcome State Fault Refusal :=
  .next (if serving s then hrDone (ckStatus s.check) { s with check := { s.check with ignored := 0 } } else s)

/-- A write of CK_STATUS, whose bit 9 is W1C. -/
def clearOverrun (wdata : Word) (s : State) : State :=
  if bit wdata 9 then { s with check := { s.check with overrun := false } } else s

def execCkOverrunClear (wdata : Word) (wstrb : BitVec 8) (s : State) : Host.Outcome State Fault Refusal :=
  .next (hrWrite wstrb (clearOverrun wdata) s)

/-- RUN as read: in CRC-32C mode [63:32] reads zero (R330). -/
def ckRunRead (k : Check) : Word := if k.crc64 then k.run else (k.run.setWidth 32).setWidth 64

/-- RESULT of a running value. -/
def ckFinal (c64 : Bool) (run : Word) : Word := if c64 then run else (run.setWidth 32 ^^^ 0xFFFFFFFF#32).setWidth 64

/-- CK_RESULT_READ: a read of CK_RUN, or of CK_RESULT, after every feed queued before it. -/
def execCkResultRead (result : Bool) (s : State) : Host.Outcome State Fault Refusal :=
  .next (if serving s then
    let k := drainAll s.check
    hrDone (if result then ckFinal k.crc64 k.run else ckRunRead k) { s with check := k }
  else s)

/-! ## CHECK_FEED (R336, R337) -/

def feedSeed (c64 : Bool) (seed : Word) : Word :=
  if c64 then seed else (seed.setWidth 32 ^^^ 0xFFFFFFFF#32).setWidth 64

/-- A span the parameters may name. -/
def spanBad (s : State) (source : BitVec 2) (addr : Word) (len : Nat) (data : List Byte) : Bool :=
  let g := regionOf s 0
  let stop := addr.toNat + len
  decide (len = 0) ||
    (match source.toNat with
     | 0 => decide (2 ^ 64 < stop)
     | 1 => decide (g.size = 0 ∨ addr.toNat < g.base.toNat ∨ g.base.toNat + g.size < stop)
     | 2 => decide (s.trace.capacity < stop)
     | _ => decide (3584 < len ∨ data.length ≠ len))

/-- Read the next piece of a span in host memory. -/
def feedPiece (f : FeedRun) (s : State) : State :=
  let n := min f.left (4096 - f.addr % 4096)
  hmAsk { purpose := .checkFeed f.via f.piece, cls := .capture, wr := false, phys := f.phys, addr := wn f.addr, bytes := n } s

/-- The value and RUN that a CHECK_FEED returns. -/
def feedWords (c64 : Bool) (run : Word) : List Word := [ckFinal c64 run, run]

/-- A CHECK_FEED has fed its whole span: the unit that made it keeps its RUN (R330). -/
def feedOver (via : Via) (c64 : Bool) (run : Word) (s : State) : State :=
  respond via rOk (feedWords c64 run) (hubCheck c64 run s)

/-- CHECK_FEED. A Tenant may use SOURCE 3 only. -/
def execCheckFeed (via : Via) (c64 : Bool) (source : BitVec 2) (addr : Word) (length : BitVec 32) (seed : Word)
    (data : List Byte) (s : State) : Host.Outcome State Fault Refusal :=
  .next (command via 0x0046 (.checkFeed via c64 source addr length seed data) false
    (fun s => [(denied s via (if source = 3 then .everyone else .opPlatVen) .sealedLevel ||
        (decide (source = 2) && recordsOf s (whoOf s via)), rDenied),
      (spanBad s source addr length.toNat data, rBadArg), (decide (source = 2) && sessionRuns s, rBusy)])
    (fun s =>
      let run := feedSeed c64 seed
      match source.toNat with
      | 2 => feedOver via c64 (feedRun c64 run (memBytes addr.toNat length.toNat s.trace.buf)) s
      | 3 => feedOver via c64 (feedRun c64 run data) s
      | _ =>
        let f : FeedRun := {
          via := via, crc64 := c64, phys := decide (source = 1), run := run, addr := addr.toNat, left := length.toNat }
        feedPiece f { s with check := { s.check with feeds := s.check.feeds ++ [f] } }) s)

def feedOf (s : State) (via : Via) (piece : Nat) : Option FeedRun :=
  s.check.feeds.find? fun f => f.via == via && f.piece == piece

def dropFeed (via : Via) (s : State) : State :=
  { s with check := { s.check with feeds := s.check.feeds.filter fun f => !(f.via == via) } }

/-- The bytes of one read of a CHECK_FEED have arrived. -/
def feedArrived (via : Via) (piece : Nat) (bs : List Byte) (s : State) : State :=
  match feedOf s via piece with
  | none => s
  | some f =>
    let g := { f with
      run := feedRun f.crc64 f.run bs, addr := f.addr + bs.length, left := f.left - bs.length, piece := f.piece + 1 }
    if g.left = 0 then feedOver via f.crc64 g.run (dropFeed via s)
    else feedPiece g { s with check := { s.check with feeds := s.check.feeds.map fun x => if x.via == via then g else x } }

/-- A read of a CHECK_FEED met a fault. -/
def feedFaulted (via : Via) (piece : Nat) (code : BitVec 8) (addr : Word) (s : State) : State :=
  match feedOf s via piece with
  | none => s
  | some _ => respond via code (if code = rFaultXlate then [addr] else []) (dropFeed via s)

/-! ## The governor's window (R302) -/

/-- GOVERNOR_WINDOW: a new window of 4,000 GT begins. -/
def execGovernorWindow (s : State) : Host.Outcome State Fault Refusal :=
  let w := hubGt s / 4000
  .next (if s.hm.window < w then
    pumpHm (s.hm.waiting.length + 1) { s with hm := { s.hm with window := w, used := 0, dumped := 0 } } else s)

end Sys2Proof.Machine
end

