-- ==== Sys2Proof/Machine/Ending.lean ====
section
/-!
DEFINITION. The end of a trace session and TRACE_CONFIG (R152, R176); what ends when the chip debug level falls, a domain is removed or an INCL grant is no longer held
(R516, R526, R531).
-/
namespace Sys2Proof.Machine

/-! ## The end of a trace session (R176) and TRACE_CONFIG -/

/-- The session starts, is replaced or ends at the hub's GT: every leaf takes that in its merge order. -/
def tellLeaves (p : Option TraceParams) (s : State) : State :=
  (s.leaves.map Prod.fst).foldl (fun s cl => leafMerge cl (addEvent cl (hubGt s) (.session p) s)) s

/-- End the session: the leaves write what is stamped before now and stop, and the hub goes on to the end (R176). `via` is the
TRACE_CONFIG that waits for it. -/
def endSession_ (via : Option Via) (s : State) : State :=
  if !s.trace.enabled then s else
  let s := selectData (hubSession s) none s
  traceFinish (tellLeaves none { s with trace := { s.trace with
    enabled := false, stopping := true, ending := via, endGt := hubGt s } })

/-- CNT_CONFIG. -/
def execCntConfig (via : Via) (a m : UnitAddr) (full : Bool) (s : State) : Host.Outcome State Fault Refusal :=
  .next (cntConfigWith truncateTrace refreshCrossed via a m full s)

/-- TRACE_CONFIG (R152, R153, R155, R176). A session that has ended and is still being written is BUSY for a new one; ending
what has ended is OK at once (log entry 93). -/
def execTraceConfig (via : Via) (p : TraceParams) (s : State) : Host.Outcome State Fault Refusal :=
  .next (command via 0x0022 (.traceConfig via p) false
    (fun s =>
      let other := ((hubSession s).map fun q => decide (q.sink ≠ p.sink) ||
        (decide (p.sink = 2) && decide (q.ringBase ≠ p.ringBase))).getD false
      [(denied s via .opPlatVen .observe || (p.enable && inclDenied s via p.incl 0), rDenied),
       (p.enable && traceRangeBad s p, rBadArg),
       (p.enable && setBadUnit s p.addr p.mask 0, rBadUnit),
       (p.enable && (other || s.trace.stopping), rBusy)])
    (fun s =>
      if !p.enable then
        if s.trace.enabled then endSession_ (some via) s else respond via rOk [] s
      else if s.trace.enabled then
        let q := { p with ringLog2 := ((s.trace.cfg.map (·.ringLog2)).getD p.ringLog2) }
        respond via rOk [] (tellLeaves (some q) (selectData (hubSession s) (some q) { s with trace := { s.trace with
          cfg := some q, owner := whoOf s via, mailbox := !isNarrow via } }))
      else respond via rOk [] (tellLeaves (some p) (selectData none (some p) (startSession via p s)))) s)

def isOpPlat (who : Option Principal) : Bool := decide (who = some .operator ∨ who = some .platform)

/-- The trace session ends when it satisfies a test. -/
def endTraceIf (p : State → Bool) (s : State) : State := if s.trace.enabled && p s then endSession_ none s else s

/-- A grant of principal `who` is no longer held: the session and the captures accepted under it end (R531). -/
def endForGrant (who : Principal) (s : State) : State :=
  dumpsLoseIncl who (cancelCaptures (fun c => c.p.incl && decide (c.who = some who))
    (endTraceIf (fun s => inclIn (hubSession s) && decide (s.trace.owner = some who)) s))

/-- The chip debug level has fallen to `l` (R516): facilities started through mailboxes that it does not allow end. -/
def endForLevel (l : DebugLevel) (s : State) : State :=
  let s := endForGrant .platform (endForGrant .operator s)
  if l = .sealedLevel then
    let s := endTraceIf (fun s => s.trace.mailbox) s
    let s := disableSets (fun p _ mailbox => mailbox && (decide (p.kind = 1) || p.cmd)) s
    cancelCaptures (fun c => c.mailbox && isOpPlat c.who) s
  else s

/-- A domain is removed: its pail sets stop and its captures are cancelled (R526). -/
def endForDomain (dom : BitVec 8) (s : State) : State :=
  cancelCaptures (fun c => decide (c.who = some (.tenant dom)))
    (disableSets (fun _ d _ => decide (d = dom ∧ dom ≠ 0)) s)

end Sys2Proof.Machine
end

