-- ==== Sys2Proof/Machine/Port.lean ====
section
/-!
DEFINITION. What the core presents at its tap port (chapter 03): commands, engine states, program and data streams, steering
units, the epoch, slots, stores, errors, the clock's stretch, gating and waking.
-/
namespace Sys2Proof.Machine

/-! ## Shared by the rows -/

/-- A row of a present engine that is not in reset (R83); `n` events are discarded after QUIET (R117). -/
def engRow (c e dc n : Nat) (act : Core → Engine → State → State) (s : State) : State :=
  if engLive s c e then
    tapRow c dc n (fun s => match coreOf s c with | none => s | some co => act co (engOf co e) s) s
  else s

/-- A row that names an engine in a field (`ts_slot_eng`, `ts_so_eng`, `ts_err_eng`), ignored while that engine is in reset
(R83, R95); an engine number that no engine has carries no command. -/
def namedRow (c e dc n : Nat) (act : Core → Engine → State → State) (s : State) : State :=
  if ((coreOf s c).map fun co => (engOf co e).rstN).getD false then
    tapRow c dc n (fun s => match coreOf s c with | none => s | some co => act co (engOf co e) s) s
  else s

/-- A row of a present core. -/
def coreRow (c dc n : Nat) (act : Core → State → State) (s : State) : State :=
  tapRow c dc n (fun s => match coreOf s c with | none => s | some co => act co s) s

/-- The core is FENCED and has acknowledged: it may make no progress (R112). -/
def fencedAcked (co : Core) : Bool := decide (co.st = .fenced) && co.fence && co.fenceAck

/-- Row 13 of Table 03.4. -/
def judgeFenced (c : Nat) (e : Option Nat) (co : Core) (s : State) : State :=
  if fencedAcked co then violate c 13 e s else s

/-- Tags of a command that begins now: the marks of its context are read at the begin (R26, R155). -/
def tagsNow (s : State) (ctx layer op : BitVec 16) (seq : BitVec 32) : Tags :=
  { ctx := ctx, layer := layer, op := op, seq := seq, secure := ctxSecure s ctx.toNat, priv := ctxPriv s ctx.toNat }

/-- Stall reason and channel are valid only while the engine shows them (Table 03.1). -/
def shownStall (st : BitVec 2) (stall : BitVec 4) : BitVec 4 := if st = 2 then stall else 0
def shownChan (st : BitVec 2) (stall : BitVec 4) (chan : BitVec 18) : BitVec 18 :=
  if st = 2 ∧ (stall = 2 ∨ stall = 3) then chan else 0

/-- A step's release of this core still runs (R104, R105). -/
def stepRuns (s : State) (c : Nat) : Bool :=
  match cutOf s c with
  | none => false
  | some x => match x.step with
    | some r => r.engs.any (fun q => decide (q.1 = c)) || decide (c ∈ r.fires)
    | none => x.timed && !cutInForce s x

/-- The shim ends a step at an epoch boundary: its holds rise and it reports (R105). -/
def epochStops (c : Nat) (s : State) : State := if stepRuns s c then epochReport c s else s

/-! ## Commands (R88, R89, R96, R101, R104, R129) -/

/-- The reserved end status is a port violation without an outcome of its own: the status recorded is a free value. -/
def takeStatus (c e : Nat) (st : BitVec 2) (s : State) : BitVec 2 × State :=
  if st = 3 then (Config.endStatus s.free, violate c 4 (some e) { s with free := s.free + 1 }) else (st, s)

/-- The command in flight ends, or there is none to end (row 2). -/
def portEnd (c e : Nat) (st : BitVec 2) (ownCycle : Bool) (co : Core) (en : Engine) (s : State) : State :=
  let s := judgeFenced c (some e) co s
  if en.cur.isNone then violate c 2 (some e) s
  else
    let x := takeStatus c e st s
    if ownCycle then endOwnCycle c e x.1 x.2 else endCommand c e x.1 false x.2

/-- A SOFT_STOPPING engine whose command has ended is STOPPED (R101). -/
def softStopped (c e : Nat) (s : State) : State :=
  match (coreOf s c).map fun co => engOf co e with
  | none => s
  | some en =>
    if en.st = .softStopping ∧ en.cur = none then
      let t := ((cutOf s c).map (·.t)).getD 0
      upPush c (.engStopped (BitVec.ofNat 3 e))
        (noteState c (some e) 0 1 2 t (modEng c e (fun x => { x with st := .stopped }) s))
    else s

/-- TS_CMD_BEGIN; `endSt` is the status of an end in the same cycle. -/
def execTsCmdBegin (core : CoreIx) (eng : EngIx) (dc : Nat) (ctx layer op : BitVec 16) (seq : BitVec 32) (st : BitVec 2)
    (stall : BitVec 4) (chan : BitVec 18) (endSt : Option (BitVec 2)) (s : State) : Host.Outcome State Fault Refusal :=
  let c := core.toNat
  let e := eng.toNat
  .next (engRow c e dc (1 + b2n endSt.isSome) (fun co en s =>
    let s := match endSt with
      | some x => portEnd c e x false co en s
      | none => if en.cur.isSome then endCommand c e 1 true (violate c 1 (some e) s) else s
    let s := if en.hold then violate c 3 (some e) s else s
    let stall := shownStall st stall
    let chan := shownChan st stall chan
    let s := beginCommand c e (tagsNow s ctx layer op seq) st stall chan s
    let s := if en.rep = st ∧ en.stall = stall ∧ en.chan = chan then s else upPush c (.state eng st stall chan) s
    let s := if en.released && !en.hold then
        upPush c (.stepDone (some eng) 0) (modEng c e (fun x => { x with hold := true, stepBegun := true }) s)
      else s
    judgeRuns c e s) s)

/-- TS_CMD_END: the cycle belongs to the command that ends (R88). -/
def execTsCmdEnd (core : CoreIx) (eng : EngIx) (dc : Nat) (st : BitVec 2) (s : State) : Host.Outcome State Fault Refusal :=
  let c := core.toNat
  let e := eng.toNat
  .next (engRow c e dc 1 (fun co en s => judgeRuns c e (softStopped c e (portEnd c e st true co en s))) s)

/-- ENGINE_STATE_CHANGE. -/
def execEngineStateChange (core : CoreIx) (eng : EngIx) (dc : Nat) (st : BitVec 2) (stall : BitVec 4) (chan : BitVec 18)
    (s : State) : Host.Outcome State Fault Refusal :=
  let c := core.toNat
  let e := eng.toNat
  .next (engRow c e dc 1 (fun _ en s =>
    let stall := shownStall st stall
    let chan := shownChan st stall chan
    let s := modEng c e (fun x => { x with rep := st, stall := stall, chan := chan }) s
    let s := if en.rep = st ∧ en.stall = stall ∧ en.chan = chan then s else upPush c (.state eng st stall chan) s
    judgeRuns c e s) s)

/-! ## Program and data streams (R91, R183, R187) -/

/-- A comparator of kind `k` of the newest leaf block watches core `c` (and engine `e`, where given). -/
def comparatorOn (s : State) (c k : Nat) (e : Option Nat) : Bool :=
  let b := newestBlock s (clusterOf c)
  (List.range 16).any fun i => decide (cmpKind b i = k) && watchCore (cmpWord b i 0) c &&
    (e.all fun n => watchEng (cmpWord b i 0) n)

/-- PROGRAM_RETIRE: forwarded while program trace or a PROG comparator wants it. -/
def execProgramRetire (core : CoreIx) (eng : EngIx) (dc : Nat) (ret : BitVec 2) (br : Bool) (tgt : BitVec 24) (s : State) :
    Host.Outcome State Fault Refusal :=
  let c := core.toNat
  let e := eng.toNat
  .next (engRow c e dc 1 (fun co en s =>
    if ret = 0 then s else
    let s := judgeFenced c (some e) co s
    let wanted := sessionNames s (hubSession s) c e && kindIn (hubSession s) 1
    if wanted || comparatorOn s c 1 (some e) then upPush c (.prog eng (cycleTags en) ret br tgt) s else s) s)

/-- DATA_ACCESS: an access of the engine on `ts_da_sel`, forwarded while data trace or a DATA comparator wants it. -/
def execDataAccess (core : CoreIx) (dc : Nat) (wr : Bool) (size : BitVec 2) (addr : BitVec 32) (data : Word) (s : State) :
    Host.Outcome State Fault Refusal :=
  let c := core.toNat
  let e := ((coreOf s c).map fun co => co.daSel).getD 0
  .next (engRow c e.toNat dc 1 (fun _ en s =>
    let wanted := hubTracedCore s c && kindIn (hubSession s) 2
    if wanted || comparatorOn s c 2 none then upPush c (.data e (cycleTags en) wr size addr data) s else s) s)

/-! ## Steering and the epoch (R92, R96, R104, R105) -/

def steerLive (co : Core) (u : BitVec 2) : Bool := co.ties.steerPresent.getLsbD u.toNat

/-- The levels a steering unit shows. -/
def showSteer (u : BitVec 2) (tok dat : Bool) (old : BitVec 6) (co : Core) : Core :=
  { co with tok := setBit co.tok u.toNat tok, dat := setBit co.dat u.toNat dat, old := co.old.set u.toNat old }

/-- The shim records each rising edge of either level as an arrival (R92). -/
def arrive (u : BitVec 2) (tok dat : Bool) (co : Core) : Core :=
  { co with
    tokArrivals := if tok && !co.tok.getLsbD u.toNat then co.tokArrivals.modify u.toNat (· + 1) else co.tokArrivals
    datArrivals := if dat && !co.dat.getLsbD u.toNat then co.datArrivals.modify u.toNat (· + 1) else co.datArrivals }

/-- STEERING_ARRIVAL: a level rises; the operands are the levels from this cycle on. The arrival is recorded in the shim (log
entry 19). -/
def execSteeringArrival (core : CoreIx) (dc : Nat) (unit : BitVec 2) (tok dat : Bool) (old : BitVec 6) (s : State) :
    Host.Outcome State Fault Refusal :=
  .next (coreRow core.toNat dc 1 (fun co s =>
    if steerLive co unit then modCore core.toNat (fun x => showSteer unit tok dat old (arrive unit tok dat x)) s else s) s)

/-- A firing as the shim records it, with its half-present flag; the next pair shows from the next cycle on, after levels
that the firing has taken, so that a level shown then has risen anew. -/
def fire (u : BitVec 2) (half tok dat : Bool) (old : BitVec 6) (co : Core) : Core :=
  let gone := { co with tok := setBit co.tok u.toNat false, dat := setBit co.dat u.toNat false }
  { showSteer u tok dat old (arrive u tok dat gone) with
    firings := co.firings.modify u.toNat (· + 1), halfFired := setBit co.halfFired u.toNat half }

/-- STEERING_FIRE: the operands are the next pair. A released unit is held again and reported done. The leaf is told of a
firing while a stop is armed (R99), of one while held and of a half-present one (R96). -/
def execSteeringFire (core : CoreIx) (dc : Nat) (unit : BitVec 2) (tok dat : Bool) (old : BitVec 6) (s : State) :
    Host.Outcome State Fault Refusal :=
  let c := core.toNat
  let u := unit.toNat
  .next (coreRow c dc 1 (fun co s =>
    if !steerLive co unit then s else
    let held := co.stHold.getLsbD u
    let half := !(co.tok.getLsbD u && co.dat.getLsbD u)
    let s := judgeFenced c none co s
    let s := if held || half || co.arm.isSome then upPush c (.fired unit held half) s else s
    let s := if held then violate c 6 none s else s
    let s := if half then violate c 7 none s else s
    let s := modCore c (fire unit half tok dat old) s
    if co.stReleased.getLsbD u && !held then
      let fired := setBit co.stFired u true
      upPush c (.stepDone none fired) (modCore c (fun x => { x with
        stHold := setBit x.stHold u true, stReleased := setBit x.stReleased u false, stFired := fired }) s)
    else s) s)

/-- EPOCH_CHANGE; a change while the epoch is held is a violation and ends a step that runs (row 8). -/
def execEpochChange (core : CoreIx) (dc : Nat) (epoch : BitVec 8) (s : State) : Host.Outcome State Fault Refusal :=
  let c := core.toNat
  .next (coreRow c dc 1 (fun co s =>
    if co.epoch = epoch then s else
    let s := if co.epochHold then violate c 8 none s else s
    let s := upPush c (.epoch co.epoch epoch co.epochHold co.tok co.dat (oldTokens co))
      (modCore c (fun x => { x with epoch := epoch, epochReq := false }) s)
    if co.epochHold then epochStops c s else s) s)

/-- EPOCH_REQUEST: `ts_epoch_req` rises. -/
def execEpochRequest (core : CoreIx) (dc : Nat) (s : State) : Host.Outcome State Fault Refusal :=
  let c := core.toNat
  .next (coreRow c dc 1 (fun _ s => epochStops c (modCore c (fun x => { x with epochReq := true }) s)) s)

/-! ## Slots, stores and errors (R93 to R95, R123, R340, R344) -/

/-- SLOT_OPERATION: DRAIN or PEEK of an empty slot is READ_EMPTY, FILL of a full slot OVERWRITE_FULL; every other operation
is sent in the thinned class (Table 03.8). -/
def execSlotOperation (core : CoreIx) (dc : Nat) (op : BitVec 2) (full : Bool) (slot : BitVec 20) (eng : EngIx)
    (peerCtx : BitVec 16) (peerV : Bool) (s : State) : Host.Outcome State Fault Refusal :=
  let c := core.toNat
  let e := eng.toNat
  .next (namedRow c e dc 1 (fun co en s =>
    let s := judgeFenced c (some e) co s
    if decide (op = 1 ∨ op = 2) && !full then upPush c (.slotMark eng (cycleTags en) false slot peerCtx peerV) s
    else if decide (op = 0) && full then upPush c (.slotMark eng (cycleTags en) true slot peerCtx peerV) s
    else upPush c (.slotOp eng (cycleTags en) op full slot) s) s)

/-- A beat's elements span more than two blocks of an MX format (row 9). -/
def spansBlocks (p : SkimParams) (cnt : Nat) (idx : BitVec 32) : Bool :=
  let fits := min cnt (elemsPerBeat p.elfmt)
  isMx p.elfmt && decide (2 ≤ (idx.toNat + fits - 1) / 32 - idx.toNat / 32)

/-- STORE_BEAT; each element beyond those that fit is a violation (R213). -/
def execStoreBeat (core : CoreIx) (dc : Nat) (eng : EngIx) (cnt : BitVec 7) (idx : BitVec 32) (data : BitVec 256)
    (scale : BitVec 16) (s : State) : Host.Outcome State Fault Refusal :=
  let c := core.toNat
  let e := eng.toNat
  .next (namedRow c e dc 1 (fun co en s =>
    if !co.soEn then violate c 10 (some e) s
    else match capOf s (clusterOf c) with
      | none => s
      | some x =>
        let s := if spansBlocks x.p cnt.toNat idx then violate c 9 (some e) s else s
        let s := violateN c 12 (some e) (cnt.toNat - elemsPerBeat x.p.elfmt) s
        let r := beatElems x.p c eng (cycleTags en) cnt.toNat idx data scale
        upPushAll c r.1 (modCore c (fun y => { y with dropElems := y.dropElems + r.2 }) s)) s)

/-- CORE_ERROR_REPORT. -/
def execCoreErrorReport (core : CoreIx) (dc : Nat) (cls : BitVec 2) (n : BitVec 4) (eng : EngIx) (code : BitVec 16)
    (addr : BitVec 32) (s : State) : Host.Outcome State Fault Refusal :=
  let c := core.toNat
  .next (namedRow c eng.toNat dc n.toNat (fun _ en s =>
    if n = 0 then s else upPush c (.error eng (cycleTags en) cls n code addr) (countError c cls n.toNat s)) s)

/-! ## Clock and power notices (R99, R115 to R118, R388) -/

/-- STRETCH_CHANGE: with a stop armed the shim acts at once: the holds of a soft stop, the freeze of a hard one. The first
such change goes to the leaf in a word of its own, for its stamp (log entry 78). -/
def execStretchChange (core : CoreIx) (dc : Nat) (active : Bool) (s : State) : Host.Outcome State Fault Refusal :=
  let c := core.toNat
  .next (coreRow c dc 1 (fun co s =>
    if co.stretch = active then s else
    let s := modCore c (fun x => { x with stretch := active }) s
    match co.arm with
    | none => s
    | some (_, hard, id) =>
      let s := if co.armStretch then s else upPush c .stretchChange (modCore c (fun x => { x with armStretch := true }) s)
      if !coreInService co then s
      else if hard && decide (c ∈ scanGroup s) then stopCore c hard false (cutT s id) none s
      else modCore c (fun x => { raiseHolds x with holdsUp := true }) s) s)

/-- Engines with a command in flight. -/
def inflightMask (co : Core) : BitVec 8 :=
  (List.range 8).foldl (fun b e => setBit b e (engPresent co e && (engOf co e).cur.isSome)) 0

/-- The core may pass to QUIET: it is in RUN or STOPPED (Table 01.6). -/
def mayQuiet (co : Core) : Bool :=
  decide (co.st = .active) && (enginesOf co).all fun e => decide ((engOf co e).st = .run ∨ (engOf co e).st = .stopped)

/-- The final values a QUIET word carries besides CORE_BUSY: the error counters, and of each present engine the full set and
the command-scoped counters (R116). -/
def finalValues (co : Core) : List (BitVec 48) :=
  co.errs ++ (enginesOf co).flatMap fun e => (engOf co e).full ++ [(engOf co e).cmdBusy, (engOf co e).cmdStall]

/-- The cycles until the QUIET word is written, at most 8, which the rows have yet to count: what waits enters the queue. -/
def linkDrains (n c : Nat) (s : State) : State :=
  modCore c (fun co => let k := min n (upWaiting co); upRun k { co with upAhead := co.upAhead + k }) s

/-- QUIET takes effect on the hub's side: edges and captures, the test, the lent mark, the access gate. -/
def enterQuiet (c : Nat) (s : State) : State :=
  let s := abortTest (((coreOf s c).map fun co => decide (co.st = .fenced)).getD false) c (withdrawCore c (skimGap c false s))
  let s := modCore c (fun co =>
    let aged := { co with
      oldGen := co.gen, engs := co.engs.map fun en => { en with oldGen := en.gen } }
    let co := if decide (co.st = .fenced ∨ co.st = .stale) then co else aged
    { endAccess co with lent := false, rungWhileGated := false, st := if mayQuiet co then .quiet else co.st }) s
  let n := ((coreOf s c).map (·.jobs.length)).getD 0
  closeGate c (accessGo (n + 1) c s)

/-- GATE_WARN: the notice rises: every hold is raised and the notice word written. Where the power controller `waits`, or
gates no earlier than 8 cycles later, the QUIET word follows with every final value. -/
def execGateWarn (core : CoreIx) (dc : Nat) (waits : Bool) (s : State) : Host.Outcome State Fault Refusal :=
  let c := core.toNat
  .next (coreRow c dc 1 (fun co s =>
    if co.gateWarn then s else
    let infl := inflightMask co
    let s := upPush c (.gateNotice infl) (modCore c (fun x => { raiseHolds x with gateWarn := true }) s)
    if waits then
      enterQuiet c (linkDrains 1 c (upPush c (.quiet infl co.coreBusy co.cc false (finalValues co))
        (modCore c (fun x => { x with gateOk := true, quietDone := true }) (linkDrains 7 c s))))
    else s) s)

/-- The shim's flops at their reset values, with what the leaf rewrites kept: generations, counter enables, selections. -/
def resetShim (co : Core) : Core :=
  { zeroCounters co with
    cc := 0, violations := 0, tok := 0, dat := 0, old := List.replicate 4 0, stReleased := 0, stNamed := 0, stFired := 0
    epoch := 0, epochReq := false, abortReq := false, abortCtx := 0, abortQ := [], abortHeld := 0
    fence := false, fenceAck := false, fenceDue := none, rstReq := false, rstN := true
    saReq := false, saWr := false, saSpace := 0, saEng := 0, saAddr := 0, saWdata := 0, saTimedOut := false, saSince := 0
    saGen := 0, saNext := none, saFrom := 0, saBusy := false
    tokArrivals := List.replicate 4 0, datArrivals := List.replicate 4 0, firings := List.replicate 4 0, halfFired := 0
    funcClkEn := true, scanMode := false, scanSe := false, scanSi := 0, scanRun := none, arm := none, runAt := none, armStretch := false
    holdsUp := false, sampleArms := [], upCtl := [], upBuf := [], upThin := [], upAhead := 0, dropCmds := 0, dropProg := List.replicate 8 0
    dropData := 0, dropSlots := 0, dropEmpty := 0, dropOver := 0, dropErrs := List.replicate 4 0, dropElems := 0
    downQ := [], downWait := [], downRead := false, errNow := List.replicate 4 0, map := {}
    obW := BitVec.ofNat 7 co.upQ.length, obR := 0, cmW := 0, cmR := 0, sinceWord := 0, discarded := 0
    engs := (zeroCounters co).engs.map fun en => { en with
      st := .run, incomplete := false, owed := false, oldCmd := false, cur := none, last := none, beginCC := none, counted := false, fresh := 2
      rep := 0, stall := 0, chan := 0, violIdle := false, violBusy := false, crossed := 0
      rstReq := false, rstN := true, released := false, stepBegun := false } }

/-- Every gating mark is lowered and a fenced core is fenced again (R399). -/
def wakeMarks (co : Core) : Core :=
  { co with
    gateWarn := false, gateOk := false, quietDone := false, discarded := 0, rungWhileGated := false
    fence := co.fence || decide (co.st = .fenced), pailDisc := 0xF }

/-- The state a woken core takes with its state retained: RUN, or STOPPED under a cut in force that names it (R35). -/
def wakeRetained (c : Nat) (s : State) : State :=
  match coreOf s c with
  | none => s
  | some co =>
    if co.st = .quiet then
      let s := modCore c (fun x => { x with
        st := .active, engs := x.engs.map fun en => { en with st := .run, released := false, stepBegun := false } }) s
      match stopsOnReturn s c with
      | some x => enterStopped c x 4 s
      | none => modCore c lowerHolds s
    else if co.st = .active then modCore c (fun x => if x.holdsUp then x else lowerHolds x) s
    else s

/-- The state of a core woken without its state: STALE, unless it is FENCED or still RESETTING (R118, R388, R399). -/
def wakeLost (c : Nat) (s : State) : State :=
  match coreOf s c with
  | none => s
  | some co =>
    let s := if co.rungWhileGated then s else advCoreGen 3 c s
    let s := modCore c (fun x => holdEngines (resetShim x)) s
    let s := modCore c (fun x => { x with
      stHold := x.ties.steerPresent, epochHold := true
      st := if decide (co.st = .fenced ∨ co.st = .resetting) then co.st else .stale }) s
    let n := ((coreOf s c).map (·.jobs.length)).getD 0
    accessGo (n + 1) c s

/-- CORE_WAKE: `ret` is `ts_pw_ret`. The WAKE word carries the events discarded before it also where nothing was retained (R117,
R118; log entry 97). -/
def execCoreWake (core : CoreIx) (ret : Bool) (s : State) : Host.Outcome State Fault Refusal :=
  let c := core.toNat
  .next (match coreOf s c with
    | none => s
    | some co =>
      if serving s && !railOff s c then
        let gone := co.discarded
        let s := if ret then wakeRetained c (modCore c (fun x => { x with gateWarn := false }) s) else wakeLost c s
        let s := modCore c wakeMarks s
        let cc := ((coreOf s c).map (·.cc)).getD 0
        upPush c (.wake ret gone cc none) s
      else s)

/-- KEEP_ALIVE: the fourth core cycle after the last word (R119); none into a queue that takes thinned words no more, whose
leaf is not kept waiting (log entry 84). -/
def execKeepAlive (core : CoreIx) (dc : Nat) (s : State) : Host.Outcome State Fault Refusal :=
  let c := core.toNat
  .next (coreRow c dc 0 (fun co s =>
    if 4 ≤ co.sinceWord ∧ co.upQ.length < 48 then
      modCore c (fun x => upPut { cc := x.cc, kind := .keepAlive } x) s
    else s) s)

end Sys2Proof.Machine
end

