-- ==== Sys2Proof/Machine/Link.lean ====
section
/-!
DEFINITION. The leaf's end of the observation link (chapters 02, 03): reading and stamping a word, what the leaf does with each
kind, drop counts, a core whose clock is stopped; the accounts that reach the hub's context table.
-/
namespace Sys2Proof.Machine

/-! ## Stamping (R49, R50) -/

/-- The stamp of a word read `cyc` observation cycles after the leaf's last beat: the crossing latency is taken off. -/
def linkStamp (s : State) (cl cyc : Nat) : GT :=
  let inc := ((tget cl s.leaves).map (·.interp.inc)).getD 0
  gtWrap (leafGt s cl cyc + 2 ^ 64 - inc * s.time.xlat.toNat / 65536)

/-- The stamp of a word captured in core cycle `cc`, and the words read from the link in that observation cycle. The leaf reads
two in a cycle, so a third is read in the next; a BEGIN captured in the core cycle of its engine's END takes the END's
stamp (R160; log entry 83). -/
def wordStamp (s : State) (cl cyc : Nat) (co : Core) (w : UpWord) : GT × Nat :=
  let k := if linkStamp s cl cyc = co.readAt then co.reads else 0
  let sameCycle := match w.kind with
    | .begin e _ _ => decide (co.lastFin = some e ∧ co.map.lastCC = w.cc)
    | _ => false
  (if sameCycle then co.lastStamp else gtMax co.lastStamp (linkStamp s cl (cyc + k / 2)), k + 1)

/-- The running map takes a reading (R97). -/
def mapTake (cc : BitVec 32) (g : GT) (m : LinkMap) : LinkMap :=
  if m.n = 0 then { n := 1, oldCC := cc, oldStamp := g, midCC := cc, midStamp := g, lastCC := cc, lastStamp := g }
  else if cc = m.lastCC then m
  else if 4096 ≤ (cc - m.midCC).toNat then
    { n := m.n + 1, oldCC := m.midCC, oldStamp := m.midStamp, midCC := cc, midStamp := g, lastCC := cc, lastStamp := g }
  else { m with n := m.n + 1, lastCC := cc, lastStamp := g }

/-! ## Engine states and stalls (R285, R358) -/

/-- The leaf reads an engine's new state: an edge whose stall has changed is withdrawn, a logged stall that ends is noted. -/
def readState (c e : Nat) (st : BitVec 2) (stall : BitVec 4) (chan : BitVec 18) (g : GT) (s : State) : State :=
  match (coreOf s c).map fun co => engOf co e with
  | none => s
  | some en =>
    let sameReason := decide (en.lRep = st ∧ en.lStall = stall)
    let same := sameReason && decide (en.lChan = chan)
    let s := if same then s else withdrawEdge c e s
    let s := if en.stallLogged && !sameReason then
        modEng c e (fun x => { x with stallLogged := false }) (crockPut c e 4 en.lCur (st.toNat * 2 ^ 34) g s)
      else s
    modEng c e (fun x => { x with
      lRep := st, lStall := stall, lChan := chan
      lSince := if same then x.lSince else g, lReason := if sameReason then x.lReason else g }) s

/-- CROCK_STALL_ENTRY: a stall of one reason has lasted 256 GT; the entry is stamped at its start. -/
def execCrockStallEntry (core : CoreIx) (eng : EngIx) (cyc : Nat) (s : State) : Host.Outcome State Fault Refusal :=
  let c := core.toNat
  let e := eng.toNat
  .next (match (coreOf s c).map fun co => engOf co e with
    | none => s
    | some en =>
      if decide (en.lRep = 2) && !en.stallLogged && leafValid s (clusterOf c) &&
          decide (en.lReason + 256 ≤ leafGt s (clusterOf c) cyc) then
        modEng c e (fun x => { x with stallLogged := true })
          (crockPut c e 3 en.lCur (en.lStall.toNat * 2 ^ 32 + en.lChan.toNat) en.lReason s)
      else s)

/-! ## What each word does at the leaf -/

/-- Discontinuity marks of a wake (Table 02.4). -/
def markDisc (co : Core) : Core :=
  { co with disc := true, engs := co.engs.map fun en => { en with disc := true } }

/-- The leaf's view of the engines of a core woken without its state. -/
def forgetEngines (co : Core) : Core :=
  { co with engs := co.engs.map fun en => { en with lCur := none, lRep := 0, lStall := 0, lChan := 0, stallLogged := false } }

/-- The events a link has removed from what comparator word `w` of kind `k` watches: of a PROG comparator the program words of
its engines, of a DATA comparator the data accesses (R187). -/
def missedBy (w : Word) (k c : Nat) (progs : List Nat) (datas : Nat) : Nat :=
  if !watchCore w c then 0
  else if k = 1 then ((progs.zipIdx.filter fun p => watchEng w p.2).map Prod.fst).sum
  else if k = 2 then datas else 0

/-- Counts of a drop word: LOST records, errors without a record, slot operations that no guard could match, the comparators'
MISSED counts, skim drops (R167, R187, R189, R212, R346). -/
def readDrops (c cmds : Nat) (progs : List Nat) (datas empties overs : Nat) (errs : List Nat) (elems : Nat) (first g : GT)
    (s : State) : State :=
  let cl := clusterOf c
  let s := linkLost c first g cmds progs.sum datas s
  let s := (errs.zipIdx).foldl (fun s p =>
    if p.1 = 0 then s else countPolicies c g false p.2 p.1 (leafDropped cl (c % 16) p.2 p.1 g s)) s
  let s := modTrig cl (fun t => { t with
    readEmpty := satInc t.readEmpty empties, overFull := satInc t.overFull overs
    missed := t.missed.zipIdx.map fun p =>
      satInc p.1 (missedBy (cmpWord t.block p.2 0) (cmpKind t.block p.2) c progs datas) }) s
  if elems = 0 then s else skimDrop cl elems g s

/-- The `n` port violations of one word (R96, Table 11.1): the record of one has N at 1 (Table 11.3), and the others are counted
with it. -/
def readViolation (c row : Nat) (e : Option EngIx) (t : Option Tags) (n : Nat) (g : GT) (s : State) : State :=
  let cl := clusterOf c
  let cls := if row = 11 then 3 else 2
  let unit := match e with | some k => engAddr c k.toNat | none => coreAddr c
  let gen := match e with | some k => engGen s c k.toNat | none => coreGen s c
  let r := errRec g 1 cls 1 t unit gen row 0 0
  let s := leafReport cl r 1 (some (c % 16)) s
  countPolicies c g true cls n (if n ≤ 1 then s else leafReport cl r (n - 1) (some (c % 16)) s)

/-- A core's error record. -/
def readError (c : Nat) (e : EngIx) (t : Option Tags) (cls : BitVec 2) (n : BitVec 4) (code : BitVec 16) (addr : BitVec 32)
    (g : GT) (s : State) : State :=
  let s := crockPut c e.toNat 5 t (cls.toNat * 2 ^ 34 + n.toNat * 2 ^ 30 + code.toNat) g s
  countPolicies c g false cls.toNat n.toNat
    (leafReport (clusterOf c) (errRec g 0 cls.toNat n.toNat t (engAddr c e.toNat) (engGen s c e.toNat) code.toNat addr.toNat
      (coreDetail t)) n.toNat (some (c % 16)) s)

def sendAccount (ctx : BitVec 16) (cycles : Nat) (ended : Option (BitVec 2)) (s : State) : State :=
  { s with accounts := s.accounts ++ [{ ctx := ctx, cycles := cycles, ended := ended }] }

/-- What the leaf does at once with a word stamped `g`; `first` is the stamp of the word before it. -/
def readKind (c : Nat) (k : UpKind) (first g : GT) (s : State) : State :=
  match k with
  | .keepAlive => s
  | .begin e t held =>
    let d := t.layer.toNat * 2 ^ 20 + t.op.toNat * 16 + b2n held * 8
    lateBegin c e.toNat held g (modEng c e.toNat (fun x => { x with lCur := some t }) (crockPut c e.toNat 1 (some t) d g s))
  | .fin e t st im busy stall n =>
    let code := if im then 3 else st.toNat
    let s := crockPut c e.toNat 2 (some t) (code * 2 ^ 34 + sat32 (busy.toNat + stall.toNat)) g s
    let s := sendAccount t.ctx n (some (if im then 1 else st)) (modEng c e.toNat (fun x => { x with lCur := none }) s)
    stepReadEnd c e.toNat t (endedLate c e.toNat t s)
  | .account _ ctx n => sendAccount ctx n none s
  | .state e st stall chan => readState c e.toNat st stall chan g s
  | .error e t cls n code addr => readError c e t cls n code addr g s
  | .slotMark e t ov slot _ _ => crockPut c e.toNat 7 t (b2n ov * 2 ^ 35 + slot.toNat) g s
  | .elem e key bits scale =>
    queueElem (clusterOf c) { core := c, eng := e, key := key, bits := bits, scale := scale, stamp := g } s
  | .stopped soft late tok dat old epoch stretch hard at_ => readStopped c soft late tok dat old epoch stretch hard (at_.getD g) s
  | .reply w code _ => replyRead c w code s
  | .scanData ws => scanRead c ws s
  | .fired u held _ => lateSteering c u.toNat held g s
  | .engStopped e => readEngStopped c e.toNat s
  | .stepDone none _ => stepReadFired c s
  | .epochBoundary ep _ _ _ => epochEnd c ep s
  | .stateChange e cause old new _ => stateCrock c (e.map (·.toNat)) cause.toNat old.toNat new.toNat g s
  | .stretchChange => modCore c (fun co => { co with stretchAt := g }) s
  | .gateNotice infl => modCore c (fun co => { co with gateNotice := some infl }) s
  | .quiet _ _ _ _ _ => crockCore c 8 0 g (modCore c (fun co => { co with gateNotice := none, quietStamp := some g }) s)
  | .wake ret _ _ _ =>
    let s := crockCore c 9 (b2n ret) g (modCore c (fun co => { markDisc co with gateNotice := none, quietStamp := none }) s)
    restartBlock c (if ret then s else modCore c forgetEngines s)
  | .violation row e t n => readViolation c row e t n g s
  | .drops cmds progs datas _ empties overs errs elems => readDrops c cmds progs datas empties overs errs elems first g s
  | _ => s

/-- The word as the leaf merges it: a WAKE takes the stamp of the QUIET before it, a late engine's stop the CAUSE of a late
one (R252). -/
def mergedKind (s : State) (c : Nat) (co : Core) : UpKind → UpKind
  | .wake ret n cc _ => .wake ret n cc co.quietStamp
  | .stateChange (some e) 0 old new t =>
    let late := ((cutOf s c).map fun x => decide ((c, e.toNat) ∈ x.lates)).getD false
    .stateChange (some e) (if late then 8 else 0) old new t
  | k => k

/-- OBS_LINK_WORD_READ: the oldest word of a core's upward queue. -/
def execObsLinkWordRead (core : CoreIx) (cyc : Nat) (s : State) : Host.Outcome State Fault Refusal :=
  let c := core.toNat
  let cl := clusterOf c
  .next (match coreOf s c with
    | none => s
    | some co => match upTake co with
      | none => s
      | some (w, rest) =>
        if leafValid s cl && serving s then
          let r := wordStamp s cl cyc co w
          let g := r.1
          let k := mergedKind s c co w.kind
          let s := modCore c (fun _ => { rest with
            lastStamp := g, clockStopped := false, reads := r.2, readAt := linkStamp s cl cyc
            lastFin := match w.kind with | .fin e _ _ _ _ _ _ => some e | _ => none
            map := mapTake w.cc g (if co.clockStopped then {} else rest.map) }) s
          let s := if co.clockStopped then restartBlock c s else s
          leafMerge cl (addEvent cl g (.word c k) (readKind c k co.lastStamp g s))
        else s)

/-- The link has been silent for 32 observation cycles, `cyc` cycles after the leaf's last beat (R74). -/
def linkSilent (s : State) (cl cyc : Nat) (co : Core) : Bool :=
  let inc := ((tget cl s.leaves).map (·.interp.inc)).getD 0
  co.upQ.isEmpty && decide (0 < inc) && !gtBelow (linkStamp s cl cyc) (gtWrap (co.lastStamp + 32 * inc / 65536))

/-- The engines of which the leaf holds a BEGIN and no END. -/
def leafInflight (co : Core) : BitVec 8 :=
  (List.range 8).foldl (fun b e => setBit b e (engPresent co e && (engOf co e).lCur.isSome)) 0

/-- INFLIGHT of a QUIET that the leaf synthesises: that of the about-to-gate notice, or, of a core whose partition has been
gated with none, what the leaf itself holds (R75, R563; log entry 88). -/
def synthInflight (s : State) (c : Nat) (co : Core) : Option (BitVec 8) :=
  if co.gateNotice.isSome then co.gateNotice else if railOff s c then some (leafInflight co) else none

/-- CLOCK_STOP_DETECT: 32 observation cycles without a beat and no QUIET. After an about-to-gate notice, or with the
partition's rail off, the leaf synthesises QUIET with the stamp of the last word (R75, R178, R563); else it takes the core's
clock as stopped. -/
def execClockStopDetect (core : CoreIx) (cyc : Nat) (s : State) : Host.Outcome State Fault Refusal :=
  let c := core.toNat
  let cl := clusterOf c
  .next (match coreOf s c with
    | none => s
    | some co =>
      if !linkSilent s cl cyc co || co.clockStopped || co.quietStamp.isSome || !serving s then s
      else match synthInflight s c co with
        | none =>
          leafMerge cl (withdrawCore c (skimGap c false (modCore c (fun x => { x with clockStopped := true }) s)))
        | some infl =>
          let g := co.lastStamp
          let k := UpKind.quiet infl 0 0 true []
          let s := enterQuiet c (modCore c (fun x => { x with quietDone := true, pailLoss := 0xF }) s)
          leafMerge cl (addEvent cl g (.word c k) (readKind c k g g s)))

/-! ## The beat of global time (R46, R49) -/

/-- What the beat brings on: leaves whose interpolator is valid again stamp what has waited, and cuts whose T has come. -/
def beatBrings (s : State) : State := noteCloses (cutsDue ((s.leaves.map Prod.fst).foldl (fun s cl => ownDue cl s) s))

/-- TIME_BEAT (R46). The operands count each instance's own clock cycles since the last beat. -/
def execTimeBeat (obs : List Nat) (hub : Nat) (tp : List Nat) (s : State) : Host.Outcome State Fault Refusal :=
  .next (if aoPowered s then
    let t := timeToBeat s.time
    let s1 := beatAll (gtWrap ((t.acc.toNat >>> 32) + t.delay.toNat)) obs hub tp { s with time := t }
    beatBrings { s1 with time := slewBeat s1.time }
  else s)

/-! ## Accounts at the hub (R28, R133, R376, R377) -/

/-- Count an end in a context table entry. -/
def countEnd (st : BitVec 2) (x : Ctx) : Ctx :=
  let x := { x with ended := true }
  match st.toNat with
  | 0 => { x with done := x.done + 1 }
  | 1 => { x with error := satInc x.error }
  | 2 => { x with aborted := satInc x.aborted }
  | _ => x

/-- ACCOUNT_WORD: the oldest account on its way reaches the hub. -/
def execAccountWord (s : State) : Host.Outcome State Fault Refusal :=
  .next (match s.accounts with
    | [] => s
    | a :: l =>
      if serving s = false then s else
      let s := { s with accounts := l }
      let i := a.ctx.toNat
      if ctxDefined s i then
        let s := { s with ctxs := tmod i (fun x =>
          let x := { x with busy := x.busy + wn a.cycles, accrued := true }
          match a.ended with | none => x | some st => countEnd st x) s.ctxs }
        if a.ended.isSome then contextEnded i s else s
      else if a.ended.isSome then { s with ao := { s.ao with unattrib := s.ao.unattrib + 1 } }
      else s)

end Sys2Proof.Machine
end

