-- ==== Sys2Proof/Machine/Taking.lean ====
section
/-!
DEFINITION. Taking a command: a mailbox that is TAKEN, a request of the narrow port or of another chip. What is refused
before the order of R14 is answered now; a command that is left waits for its own row (R484 to R488, R506).
-/
namespace Sys2Proof.Machine

/-- The codes a path accepts: the catalogue, and at the narrow port the two of Table 18.5. -/
def knownCommand (via : Via) (cmd : BitVec 16) : Bool :=
  decide (cmd.toNat ∈ [0x0001, 0x0002, 0x0003, 0x0010, 0x0011, 0x0020, 0x0021, 0x0022, 0x0023, 0x0024, 0x0025, 0x0026,
    0x0030, 0x0031, 0x0032, 0x0040, 0x0041, 0x0042, 0x0043, 0x0044, 0x0045, 0x0046, 0x0050, 0x0051, 0x0052, 0x0053,
    0x0054, 0x0055, 0x0060, 0x0061, 0x0062, 0x0063, 0x0070, 0x0071, 0x0072]) ||
  (isNarrow via && decide (cmd = 0x0F00 ∨ cmd = 0x0F01))

/-- The commands that basic service serves, in full or in part (Table 16.9, R553). -/
def servedCommand (cmd : BitVec 16) : Bool :=
  decide (cmd.toNat ∈ [0x0001, 0x0002, 0x0003, 0x0021, 0x0050, 0x0051, 0x0052, 0x0F00, 0x0F01])

/-- The right a command asks for whatever its parameters (Table 17.5). -/
def rightOf (cmd : BitVec 16) : Right :=
  if cmd.toNat ∈ [0x0021, 0x0024, 0x0025, 0x0046, 0x0052] then .everyone
  else if cmd.toNat ∈ [0x0003, 0x0010, 0x0011, 0x0026, 0x0060, 0x0061, 0x0062, 0x0063, 0x0070, 0x0071, 0x0072] then .opPlat
  else .opPlatVen

/-- The least debug level it asks for whatever its parameters (Table 17.6). -/
def leastOf (cmd : BitVec 16) : DebugLevel :=
  if cmd.toNat ∈ [0x0031, 0x0041, 0x0042] then .invasive
  else if cmd.toNat ∈ [0x0020, 0x0022, 0x0023, 0x0024, 0x0025, 0x0030, 0x0040] then .observe
  else .sealedLevel

/-- VERSION of a command that the mailbox's level lacks whatever its parameters (R491). -/
def levelLacks (s : State) (via : Via) (cmd : BitVec 16) : Bool :=
  levelThree s via && decide (cmd.toNat ∈ [0x0054, 0x0055, 0x0061, 0x0062])

/-- The answer to malformed parameters of which no command can be read: what R14 puts before BAD_ARG comes first. -/
def malformedCode (s : State) (via : Via) (cmd : BitVec 16) : BitVec 8 :=
  if levelLacks s via cmd then rVersion
  else if cmd = 1 then (if s.fuses.lifecycle = .returned ∧ (whoOf s via).isNone then rDenied else rBadArg)
  else if denied s via (rightOf cmd) (leastOf cmd) then rDenied else rBadArg

/-- Take a command with its principal, its level and its parameter words. `check` says that CHECK or LEN is bad, and which
(R487): what R487 itself refuses comes before DEGRADED, and in the order of R14 VERSION before it. A malformed command that
can be read waits for its row, which judges it (log entry 70). -/
def takeRequest (via : Via) (cmd seq : BitVec 16) (notify : Bool) (who : Option Principal) (level : DebugLevel)
    (ws : List Word) (check : Option Bool) (s : State) : State :=
  let strict := if check.isSome then none else requestOf via cmd ws
  let i := strict.or (requestRead true via cmd ws)
  let bad := if strict.isSome then none else some (check.getD false)
  let s := { s with mb := { s.mb with taken := s.mb.taken ++ [{
    via := via, cmd := cmd, seq := seq, notify := notify, who := who, debug := level, instr := i, bad := bad }] } }
  if !knownCommand via cmd then respond via rVersion [] s
  else match preCode via (servedCommand cmd) (decide (cmd = 1)) s with
    | some c =>
      if c = rDegraded ∧ check.isSome = true then respondWith via rBadArg (check.getD false) [] s else respond via c [] s
    | none =>
      if i.isSome then s
      else
        let c := malformedCode s via cmd
        respondWith via c (decide (c = rBadArg) && check.getD false) [] s

end Sys2Proof.Machine
end

