-- ==== Sys2Proof/Machine/Protection.lean ====
section
/-!
DEFINITION. Two-party changes, lifecycle, fuses and INCL grants (chapter 17).
-/
namespace Sys2Proof.Machine

/-! ## Sessions and nonces -/

/-- The state in which a narrow-port session starts (R532). -/
def freshSession (lc : Lifecycle) (n : Narrow) : Narrow :=
  if lc = .manufacture then { n with level := .invasive, who := some .platform, until_ := none }
  else { n with level := .sealedLevel, who := none, until_ := none }

/-- A session ends: every waiting frame is discarded and open requests complete without responses (R532, R550). -/
def endSession (s : State) : State :=
  let n := freshSession s.fuses.lifecycle s.narrow
  { s with narrow := { n with
    outQ := [], offered := none, repeatNext := false
    open_ := (n.open_.filter fun o => !o.answered).map fun o => { o with dead := true } } }

/-- The most a session may hold (R533). -/
def sessionCap (s : State) (who : Option Principal) : DebugLevel :=
  if s.fuses.lifecycle = .returned then
    match who with | some .vendor => .invasive | _ => .sealedLevel
  else s.protect.debug

/-- A session above its cap drops to it (R516, R533). -/
def dropSession (s : State) : State :=
  { s with narrow := { s.narrow with level := minLevel s.narrow.level (sessionCap s s.narrow.who) } }

def nonceLife : GT := 40000000000

/-- Nonces still valid at the hub's GT (R519). -/
def liveNonces (s : State) : List (BitVec 128 × GT) :=
  s.protect.nonces.filter fun n => decide (hubGt s < n.2 + nonceLife)

/-- Draw a nonce of the deterministic random bit generator (log entry 4). -/
def drawNonce (s : State) : BitVec 128 × State := (Config.freeNonce s.free, { s with free := s.free + 1 })

/-- PROTECT_PROPOSE with OP NONCE (R519, R524). -/
def execProtectNonce (via : Via) (s : State) : Host.Outcome State Fault Refusal :=
  .next (command via 0x0070 (.protectNonce via) false
    (fun s => [(denied s via .opPlat .sealedLevel || decide (s.fuses.lifecycle = .returned), rDenied)])
    (fun s =>
      let d := drawNonce s
      let kept := let l := liveNonces s; if l.length < 4 then l else l.drop (l.length - 3)
      respond via rOk [d.1.setWidth 64, (d.1 >>> 64).setWidth 64, wn (hubGt s)]
        { d.2 with protect := { d.2.protect with nonces := kept ++ [(d.1, hubGt s)] } }) s)

/-! ## Descriptors and signatures (R520, R521) -/

def tagPropose : List Byte := [0x50, 0x52, 0x4F, 0x50, 0x4F, 0x53, 0x45]
def tagConfirm : List Byte := [0x43, 0x4F, 0x4E, 0x46, 0x49, 0x52, 0x4D]

/-- The fused key hash of a principal; the Operator's is its highest committed slot unless revoked (Table 17.3). -/
def keyHashOf (f : Fuses) : Principal → Option (List Byte)
  | .operator => if f.opRevoked then none else f.opKeys.getLast?
  | .platform => f.platformKey
  | .vendor => f.vendorKey
  | .tenant _ => none

/-- R521 under a given key hash. -/
def signedUnder (hash : Option (List Byte)) (key sig msg : List Byte) : Bool :=
  match hash with
  | none => false
  | some h => decide (Config.sha384 key = h) && Config.ecdsaVerify key sig (Config.sha384 msg)

def descWord (d : List Word) (i : Nat) : Word := d.getD i 0
def argWord (d : List Word) (i : Nat) : Word := d.getD (4 + i) 0
def descKind (d : List Word) : Nat := bits (descWord d 0) 55 48
def descNonce (d : List Word) : BitVec 128 := descWord d 2 ++ descWord d 1

/-- The SHA-384 of ARG0 to ARG5. -/
def argHash (d : List Word) : List Byte := bytesOf ((List.range 6).map (argWord d))

/-- Bits of ARG `i` that a kind's arguments use (Table 17.10). -/
def argMask (kind i : Nat) : Word :=
  if kind = 1 ∨ kind = 2 then (if i = 0 then 0xFF else 0)
  else if kind = 3 then (if i = 0 then 0xFFFF0F else 0)
  else if kind = 4 then (if i = 0 then 0x3 else 0)
  else if kind = 5 then (if i = 0 then 0x1FF0FFF else if i = 1 then 0xFFFFFFFFFFFFFFFF else 0)
  else if kind = 6 then (if i = 0 then 0xFF else 0)
  else if kind = 7 ∨ kind = 9 then (if i < 6 then 0xFFFFFFFFFFFFFFFF else 0)
  else if kind = 8 then (if i = 0 then 0xFFFF else 0)
  else if kind = 10 then (if i = 0 then 0x3 else 0)
  else 0

/-- R520: 16 words, DVER 1, a known kind and no reserved bit set. -/
def descWellFormed (d : List Word) : Bool :=
  decide (d.length = 16) && decide (bits (descWord d 0) 63 56 = 1) && decide (1 ≤ descKind d ∧ descKind d ≤ 10) &&
  decide (bits (descWord d 0) 31 16 = 0) && decide (descWord d 3 = 0) &&
  (List.range 12).all fun i => decide (argWord d i &&& ~~~argMask (descKind d) i = 0)

def svnFloor (f : Fuses) : BitVec 16 := (f.svn.getLast?).getD 0

/-- Preconditions of a lifecycle step (Table 17.11). -/
def lifecycleReady (f : Fuses) : Bool :=
  match f.lifecycle with
  | .manufacture => f.platformKey.isSome && f.vendorKey.isSome && f.fwKey.isSome
  | .provision => !f.opKeys.isEmpty && f.redactKey.isSome
  | .deployed => true
  | .returned => false

/-- Table 17.10: why a change is refused, if it is. `confirming` adds what only the confirmation can judge; `rkey` is the
Platform's extra field of REDACT_KEY where it is known. -/
def changeRefused (s : State) (d : List Word) (confirming : Bool) (rkey : Option (List Byte)) : Option (BitVec 8) :=
  let k := descKind d
  let a := argWord d 0
  let f := s.fuses
  let dom := fieldB 8 a 0
  let openState := decide (f.lifecycle = .provision ∨ f.lifecycle = .deployed)
  if k = 10 then
    if bits a 1 0 = lifecycleCode f.lifecycle + 1 ∧ lifecycleReady f = true then none else some rBadArg
  else if k = 9 then
    if f.lifecycle ≠ .provision ∨ f.redactKey.isSome then some rBadArg
    else match rkey with
      | none => if confirming then some rBadArg else none
      | some r => if r.length = 32 ∧ Config.sha384 r = argHash d then none else some rBadArg
  else if !openState then some rBadArg
  else if k = 1 then (if dom = 0 ∨ dom ∈ s.protect.domains then some rBadArg else none)
  else if k = 2 then (if dom ∈ s.protect.domains then none else some rBadArg)
  else if k = 3 then
    let m := bits a 3 0
    let c := bits a 15 8
    let bd := fieldB 8 a 16
    if m = 0 ∨ m = 15 ∨ ¬ (c = 0 ∨ c = 1 ∨ c = 3) ∨ (c = 3 ∧ ¬ bd ∈ s.protect.domains) then some rBadArg else none
  else if k = 4 then (if bits a 1 0 = 3 then some rBadArg else none)
  else if k = 5 then
    let na := (argWord d 1).toNat
    if ¬ (bits a 7 0 = 1 ∨ bits a 7 0 = 2) ∨ na ≤ hubGt s ∨ (confirming = true ∧ hubGt s + 2 ^ 44 < na)
    then some rBadArg else none
  else if k = 6 then (if bits a 7 0 = 1 ∨ bits a 7 0 = 2 then none else some rBadArg)
  else if k = 7 then (if 4 ≤ f.opUsed then some rNoResource else none)
  else if k = 8 then
    if (fieldB 16 a 0) < svnFloor f then some rBadArg else if 16 ≤ f.svnUsed then some rNoResource else none
  else some rBadArg

/-! ## PROPOSE (R522, R525, R527) -/

/-- The issuer is a party that may propose the kind (R525, Table 17.11). -/
def mayPropose (s : State) (via : Via) (who : Principal) (d : List Word) : Bool :=
  if descKind d = 7 then (if s.fuses.opKeys.isEmpty then decide (who = .platform) else decide (who = .operator))
  else if descKind d = 10 ∧ s.fuses.lifecycle = .manufacture then
    decide (who = .platform) && decide (via = .mailbox 15)
  else true

/-- The signatures of a proposal: the proposer's, and for OPERATOR_KEY with a committed key the new key's in the extra
field, laid out as R521 (R525). -/
def proposalSigned (s : State) (who : Principal) (d : List Word) (key sig extra : List Byte) : Bool :=
  let msg := bytesOf d ++ tagPropose
  signedUnder (keyHashOf s.fuses who) key sig msg &&
    (if descKind d = 7 ∧ s.fuses.opKeys ≠ [] then
      signedUnder (some (argHash d)) (extra.take 96) (extra.drop 96) msg else true)

/-- The checks of a proposal in the order of R522, and what it leaves: the nonce is consumed by every proposal that
reaches the nonce check. `lifecycle` says which command issued it. -/
def propose (via : Via) (lifecycle : Bool) (d : List Word) (key sig extra : List Byte) (s : State) : State :=
  match whoOf s via with
  | none => respond via rDenied [] s
  | some who =>
    if !holds .opPlat (some who) || decide (s.fuses.lifecycle = .returned) ||
        decide (bits (descWord d 0) 47 40 ≠ (principalCode who).toNat) || !mayPropose s via who d ||
        !proposalSigned s who d key sig extra then respond via rDenied [] s
    else
      let live := liveNonces s
      let ok := live.any fun n => n.1 == descNonce d
      let s1 := { s with protect := { s.protect with nonces := live.filter fun n => !(n.1 == descNonce d) } }
      if !ok then respond via rDenied [] s1
      else
        let rkey := if who = .platform ∧ descKind d = 9 then some extra else none
        let refused := changeRefused s1 d false rkey
        if !descWellFormed d || decide (bits (descWord d 0) 15 0 ≠ (chipOf s1).toNat) ||
            decide (bits (descWord d 0) 39 32 ≠ lifecycleCode s1.fuses.lifecycle) ||
            decide (decide (descKind d = 10) ≠ lifecycle) || decide (refused = some rBadArg) then respond via rBadArg [] s1
        else if s1.protect.proposal.isSome then respond via rBusy [] s1
        else match refused with
          | some c => respond via c [] s1
          | none =>
            let id := s1.protect.nextProposal
            let p : Proposal := {
              id := id, kind := BitVec.ofNat 8 (descKind d), proposer := principalCode who
              desc := d, extra := extra, expires := hubGt s1 + nonceLife }
            respond via rSecondParty [id.setWidth 64, wn p.expires]
              { s1 with protect := { s1.protect with proposal := some p, nextProposal := nextSeq id } }

def execProtectPropose (via : Via) (d : List Word) (key sig extra : List Byte) (s : State) :
    Host.Outcome State Fault Refusal :=
  .next (command via 0x0070 (.protectPropose via d key sig extra) false (fun _ => []) (propose via false d key sig extra) s)

def execLifecycleAdvance (via : Via) (d : List Word) (key sig : List Byte) (s : State) :
    Host.Outcome State Fault Refusal :=
  .next (command via 0x0072 (.lifecycleAdvance via d key sig) false (fun _ => []) (propose via true d key sig []) s)

/-! ## Applying a change -/

/-- A change that lowers the chip debug level ends at once what the new level does not allow (R516). -/
def setDebug (l : DebugLevel) (s : State) : State :=
  let lowered := decide (levelRank l < levelRank s.protect.debug)
  let s1 := { s with protect := { s.protect with debug := l } }
  dropSession (if lowered then endForLevel l s1 else s1)

/-- R526: a domain is removed. Commands TAKEN on its mailboxes complete with DENIED. -/
def removeDomain (dom : BitVec 8) (s : State) : State :=
  let s := retireCtxs ((s.ctxs.filter fun p => p.2.defined && decide (fieldB 8 p.2.attr 0 = dom)).map Prod.fst) s
  let s := endForDomain dom s
  let gone := (List.range 16).filter fun m => decide (s.protect.bindings.getD m none = some (.tenant dom))
  let s := { s with protect := { s.protect with
    domains := s.protect.domains.filter (· ≠ dom)
    bindings := s.protect.bindings.map fun b => if b = some (.tenant dom) then none else b } }
  gone.foldl (fun s m =>
    let v := Via.mailbox (BitVec.ofNat 4 m)
    if (takenOf s v).isSome then respond v rDenied [] s else s) s

/-- Insert a domain in ascending order. -/
def addDomain (dom : BitVec 8) : List (BitVec 8) → List (BitVec 8)
  | [] => [dom]
  | a :: l => if dom < a then dom :: a :: l else a :: addDomain dom l

def setGrant (code : Nat) (g : Option InclGrant) (s : State) : State :=
  if code = 1 then { s with protect := { s.protect with inclOp := g } }
  else { s with protect := { s.protect with inclPl := g } }

/-- A grant ends: what had been accepted under it ends too (R531). -/
def endGrant (code : Nat) (s : State) : State :=
  endForGrant (if code = 1 then .operator else .platform) (setGrant code none s)

/-- The fused item a change writes, if it is one (R511). -/
def fusedItem (d : List Word) (rkey : List Byte) : Option FuseItem :=
  if descKind d = 7 then some (.opKey (argHash d))
  else if descKind d = 8 then some (.svn (fieldB 16 (argWord d 0) 0))
  else if descKind d = 9 then some (.redact rkey)
  else if descKind d = 10 then
    some (.lifecycle (match bits (argWord d 0) 1 0 with | 1 => .provision | 2 => .deployed | _ => .returned))
  else none

/-- Program the value of a fused item: a slot is used from then on, whether or not it is committed (R511). -/
def programFuse (item : FuseItem) (via : Via) (s : State) : State :=
  let s := match item with
    | .opKey _ => { s with fuses := { s.fuses with opUsed := s.fuses.opUsed + 1 } }
    | .svn _ => { s with fuses := { s.fuses with svnUsed := s.fuses.svnUsed + 1 } }
    | _ => s
  { s with fuseWrites := s.fuseWrites ++ [{ item := item, via := via }] }

/-- A change of the protection table takes effect. -/
def applyChange (d : List Word) (s : State) : State :=
  let k := descKind d
  let a := argWord d 0
  if k = 1 then { s with protect := { s.protect with domains := addDomain (fieldB 8 a 0) s.protect.domains } }
  else if k = 2 then removeDomain (fieldB 8 a 0) s
  else if k = 3 then
    let b := if bits a 15 8 = 0 then none else principalOf (fieldB 8 a 8) (fieldB 8 a 16)
    { s with protect := { s.protect with bindings := s.protect.bindings.set (bits a 3 0) b } }
  else if k = 4 then setDebug (levelOfNat (bits a 1 0)) s
  else if k = 5 then
    setGrant (bits a 7 0)
      (some { scope := fieldB 4 a 8, domain := fieldB 8 a 16, all := bit a 24, notAfter := argWord d 1 }) s
  else if k = 6 then endGrant (bits a 7 0) s
  else s

/-! ## CONFIRM (R523, R525) -/

/-- A refused confirmation counts; the third discards the proposal (R523). -/
def refuseConfirm (via : Via) (p : Proposal) (s : State) : State :=
  respond via rDenied [] { s with protect := { s.protect with
    proposal := if 3 ≤ p.denials + 1 then none else some { p with denials := p.denials + 1 } } }

/-- The confirmer is another party with a good signature, or stands at the narrow port for the step out of MANUFACTURE
(R523, R525). -/
def confirmAllowed (s : State) (via : Via) (who : Principal) (p : Proposal) (key sig : List Byte) : Bool :=
  let msg := bytesOf p.desc ++ tagConfirm
  if p.kind = 10 ∧ s.fuses.lifecycle = .manufacture then (match via with | .narrow _ => true | _ => false)
  else holds .opPlat (some who) && decide (principalCode who ≠ p.proposer) &&
    (if p.kind = 7 ∧ s.fuses.opKeys = [] then signedUnder (some (argHash p.desc)) key sig msg
     else signedUnder (keyHashOf s.fuses who) key sig msg)

def confirm (via : Via) (id : BitVec 16) (key sig extra : List Byte) (s : State) : State :=
  match whoOf s via with
  | none => respond via rDenied [] s
  | some who =>
    if !holds .opPlat (some who) || decide (s.fuses.lifecycle = .returned) then
      match s.protect.proposal with
      | some p => if p.id = id ∧ hubGt s < p.expires then refuseConfirm via p s else respond via rDenied [] s
      | none => respond via rDenied [] s
    else match s.protect.proposal with
      | none => respond via rBadArg [] s
      | some p =>
        let gone := { s with protect := { s.protect with proposal := none } }
        if p.id ≠ id then respond via rBadArg [] s
        else if p.expires ≤ hubGt s then respond via rTimeout [] gone
        else if !confirmAllowed s via who p key sig then refuseConfirm via p s
        else
          let rkey := if p.proposer = 2 then p.extra else extra
          match changeRefused s p.desc true (some rkey) with
          | some c => respond via c [] gone
          | none =>
            match fusedItem p.desc rkey with
            | some item => programFuse item via gone
            | none => respond via rOk [] (applyChange p.desc gone)

def execProtectConfirm (via : Via) (id : BitVec 16) (key sig extra : List Byte) (s : State) :
    Host.Outcome State Fault Refusal :=
  .next (command via 0x0071 (.protectConfirm via id key sig extra) false (fun _ => []) (confirm via id key sig extra) s)

/-! ## Fuses (R511, R527, R528, R549) -/

/-- R528: the commit of RETURN. -/
def commitReturn (s : State) : State :=
  let s := s.protect.domains.foldl (fun s dom => removeDomain dom s) s
  let s := { s with
    fuses := { s.fuses with redactDestroyed := true, opUsed := 4, opRevoked := true }
    protect := { s.protect with
      bindings := [some .operator] ++ List.replicate 14 none ++ [some .platform] } }
  setDebug .sealedLevel (endGrant 2 (endGrant 1 s))

/-- The effects of a lifecycle step at its commit (Table 17.11); every open proposal is discarded (R524). -/
def commitLifecycle (next : Lifecycle) (s : State) : State :=
  let s := { s with fuses := { s.fuses with lifecycle := next }, protect := { s.protect with proposal := none } }
  let s := match next with
    | .provision => setDebug .observe s
    | .deployed => setDebug .sealedLevel (endGrant 2 (endGrant 1 s))
    | .returned => commitReturn s
    | .manufacture => s
  endSession s

/-- The commit bit of a fused item is blown. Where another write of the same item committed first, that one stands, and the
lifecycle moves by one step only (R527; log entry 73). -/
def commitFuse (item : FuseItem) (s : State) : State :=
  match item with
  | .platformKey h => { s with fuses := { s.fuses with platformKey := s.fuses.platformKey.or (some h) } }
  | .vendorKey h => { s with fuses := { s.fuses with vendorKey := s.fuses.vendorKey.or (some h) } }
  | .fwKey h => { s with fuses := { s.fuses with fwKey := s.fuses.fwKey.or (some h) } }
  | .opKey h => { s with fuses := { s.fuses with opKeys := s.fuses.opKeys ++ [h] } }
  | .svn v => { s with fuses := { s.fuses with svn := s.fuses.svn ++ [v] } }
  | .redact k => { s with fuses := { s.fuses with redactKey := s.fuses.redactKey.or (some k) } }
  | .lifecycle l => if lifecycleCode l = lifecycleCode s.fuses.lifecycle + 1 then commitLifecycle l s else s

/-- FUSE_COMMIT: the oldest fused write's commit bit is blown and its command returns (R511, R523). -/
def execFuseCommit (s : State) : Host.Outcome State Fault Refusal :=
  .next (match s.fuseWrites with
    | [] => s
    | w :: l =>
      let s1 := commitFuse w.item { s with fuseWrites := l }
      if (takenOf s1 w.via).isSome then respond w.via rOk [] s1 else s1)

/-- FUSE_WRITE (Table 18.5): a narrow-port command only; a mailbox does not know it. -/
def execFuseWrite (via : Via) (item : BitVec 2) (hash : List Byte) (s : State) : Host.Outcome State Fault Refusal :=
  .next (command via 0x0F01 (.fuseWrite via item hash) true
    (fun s => [
      (!isNarrow via, rVersion),
      (decide (s.fuses.lifecycle ≠ .manufacture) || (whoOf s via).isNone, rDenied),
      (decide (item = 0) || decide (hash.length ≠ 48) ||
        (if item = 1 then s.fuses.platformKey.isSome else if item = 2 then s.fuses.vendorKey.isSome
         else s.fuses.fwKey.isSome), rBadArg)])
    (programFuse (if item = 1 then .platformKey hash else if item = 2 then .vendorKey hash else .fwKey hash) via) s)

/-- INCL_GRANT_EXPIRY: a grant has reached NOT_AFTER (R531, R43). -/
def execInclGrantExpiry (platform : Bool) (s : State) : Host.Outcome State Fault Refusal :=
  .next (match grantOf s (some (if platform then .platform else .operator)) with
    | none => s
    | some g => if g.notAfter.toNat ≤ hubGt s then endGrant (if platform then 2 else 1) s else s)

end Sys2Proof.Machine
end

