-- ==== Sys2Proof/Machine/NarrowPort.lean ====
section
/-!
DEFINITION. The narrow port: TAP data registers, challenge and response, Dwepokin passes, relay to other chips
(chapters 17, 18).
-/
namespace Sys2Proof.Machine

/-- LAST_GASP or RETAINED: IDCODE and BYPASS only (R538). -/
def limited (s : State) : Bool := decide (s.power = .lastGasp ∨ s.power = .retained)

/-- The lockout of R535 is in force. -/
def locked (s : State) : Bool :=
  match s.protect.lockedUntil with
  | none => false
  | some t => decide (hubGt s < t)

/-- A session whose lifetime is over has ended, whether or not SESSION_EXPIRY has run (R535, R43). -/
def expireSession (s : State) : State :=
  match s.narrow.until_ with
  | none => s
  | some t => if t ≤ hubGt s then endSession s else s

/-- TAP_RESET: `th_trst_n` is asserted: the pass is discarded, the session ends, IDCODE is selected (R539, R541, R554). -/
def execTapReset (s : State) : Host.Outcome State Fault Refusal :=
  .next (if s.power = .off then s else
    let s := endSession s
    { s with narrow := { s.narrow with ir := 0x01 } })

/-- TEST_LOGIC_RESET by `th_tms` selects IDCODE and ends no session (R539, R541). -/
def execTestLogicReset (s : State) : Host.Outcome State Fault Refusal :=
  .next (if s.power = .off then s else { s with narrow := { s.narrow with ir := 0x01 } })

/-- CAPTURE_IR (R539). -/
def execCaptureIr (s : State) : Host.Outcome State Fault Refusal :=
  .next (if s.power = .off then s else
    let s := expireSession s
    let v := 1 + b2n (!s.narrow.outQ.isEmpty) <<< 2 + b2n (decide (s.narrow.level ≠ .sealedLevel)) <<< 3 +
      b2n (basic s) <<< 4 + b2n (limited s) <<< 5 + b2n (locked s) <<< 6
    { s with narrow := { s.narrow with irCapture := BitVec.ofNat 8 v } })

/-- Capture-DR of IDCODE (R540). -/
def execIdcode (s : State) : Host.Outcome State Fault Refusal :=
  .next (if s.power = .off then s else
    { s with narrow := { s.narrow with
      ir := 0x01, drCapture := [pk [(28, 4, 1), (12, 16, 0x7404), (1, 11, s.ties.tapMfr.toNat), (0, 1, 1)]] } })

/-- A capture that LIMITED power turns into BYPASS (R538). -/
def bypass (ir : BitVec 8) (s : State) : State := { s with narrow := { s.narrow with ir := ir, drCapture := [0] } }

/-- The challenge's 8 words (Table 17.12). -/
def challengeWords (s : State) (nonce : BitVec 128) : List Word :=
  [pk [(56, 8, 1), (48, 8, lifecycleCode s.fuses.lifecycle), (40, 8, levelRank s.narrow.level),
       (32, 8, levelRank s.protect.debug), (0, 16, (chipOf s).toNat)],
   nonce.setWidth 64, (nonce >>> 64).setWidth 64, wn (hubGt s), wn s.protect.fails.toNat, 0, 0, 0]

/-- Capture-DR of CHALLENGE: a new challenge; during a lockout its NONCE is zero (R534, R542, R543). -/
def execChallenge (s : State) : Host.Outcome State Fault Refusal :=
  .next (if s.power = .off then s else if limited s then bypass 0x10 s else
    let s := expireSession s
    if locked s then
      let w := challengeWords s 0
      { s with narrow := { s.narrow with ir := 0x10, drCapture := w, challenge := none } }
    else
      let d := drawNonce s
      let w := challengeWords s d.1
      { d.2 with narrow := { d.2.narrow with ir := 0x10, drCapture := w, challenge := some (w, hubGt s + nonceLife) } })

/-- R535: the session the response asks for, when every condition holds. -/
def responseGrants (s : State) (hdr : List Word) (key sig : List Byte) : Option (DebugLevel × Principal × GT) :=
  match s.narrow.challenge, principalOf (fieldB 8 (hdr.getD 0 0) 40) 0 with
  | some (chal, till), some who =>
    let w0 := hdr.getD 0 0
    let lv := bits w0 33 32
    let life := (hdr.getD 3 0).toNat
    let returned := decide (s.fuses.lifecycle = .returned)
    let role := match who with
      | .operator => !returned | .platform => true | .vendor => returned | .tenant _ => false
    let msg := bytesOf chal ++ bytesOf (hdr.take 8)
    if bits w0 63 56 = 1 ∧ hubGt s < till ∧ hdr.getD 1 0 = chal.getD 1 0 ∧ hdr.getD 2 0 = chal.getD 2 0 ∧
        bits w0 15 0 = (chipOf s).toNat ∧ role = true ∧ signedUnder (keyHashOf s.fuses who) key sig msg = true ∧
        lv ≤ levelRank (sessionCap s (some who)) ∧ (life = 0 ∨ (4000000000 ≤ life ∧ life ≤ 2 ^ 44)) then
      some (levelOfNat lv, who, hubGt s + (if life = 0 then 14400000000000 else life))
    else none
  | _, _ => none

/-- RESPONSE: its Capture-DR loads the result of the last response, and its Update-DR submits this one (R535, R542, R543,
Table 18.2). The nonce is consumed whatever the result. -/
def execResponse (bs : List Byte) (s : State) : Host.Outcome State Fault Refusal :=
  .next (if s.power = .off then s else if limited s then bypass 0x11 s else
    let s := expireSession s
    let n := { s.narrow with ir := 0x11, drCapture := s.narrow.respResult.setWidth 64 :: List.replicate 31 0 }
    if locked s then { s with narrow := { n with respResult := rBusy } }
    else
      let hdr := wordsOf (bs.take 64)
      let granted := responseGrants s hdr ((bs.drop 64).take 96) ((bs.drop 160).take 96)
      let n := { n with challenge := none }
      match granted with
      | some (l, w, t) =>
        { s with
          narrow := { n with level := l, who := some w, until_ := some t, respResult := rOk }
          protect := { s.protect with fails := 0 } }
      | none =>
        let f := satInc s.protect.fails
        { s with
          narrow := { n with respResult := rDenied }
          protect := { s.protect with
            fails := f, lockedUntil := if 8 ≤ f then some (hubGt s + nonceLife) else s.protect.lockedUntil } })

/-- LOCKOUT_EXPIRY (R535, R43). -/
def execLockoutExpiry (s : State) : Host.Outcome State Fault Refusal :=
  .next (match s.protect.lockedUntil with
    | none => s
    | some t => if t ≤ hubGt s then { s with protect := { s.protect with lockedUntil := none } } else s)

/-- SESSION_EXPIRY (R532, R535, R43). -/
def execSessionExpiry (s : State) : Host.Outcome State Fault Refusal :=
  .next (expireSession s)

/-- Capture-DR of DSTATUS (Table 18.3); the capture clears FULL, EVDROP and DISCARDED. -/
def execDstatus (s : State) : Host.Outcome State Fault Refusal :=
  .next (if s.power = .off then s else if limited s then bypass 0x21 s else
    let s := expireSession s
    let n := s.narrow
    let w := pk [(48, 16, (chipOf s).toNat), (40, 8, ((n.who.map principalCode).getD 0).toNat),
      (38, 2, levelRank n.level), (37, 1, b2n (locked s)), (36, 1, b2n (basic s)), (33, 3, n.open_.length),
      (32, 1, b2n n.full), (24, 8, n.respResult.toNat), (16, 8, s.protect.fails.toNat),
      (9, 7, (n.outQ.filter (·.event)).length), (8, 1, b2n n.evdrop), (0, 8, n.discarded.toNat)]
    { s with narrow := { n with ir := 0x21, drCapture := [w], full := false, evdrop := false, discarded := 0 } })

/-- Capture-DR of DWEP: the last released frame after a REPEAT, else the oldest frame waiting, else zeros (R546). -/
def execDwepCapture (s : State) : Host.Outcome State Fault Refusal :=
  .next (if s.power = .off then s else if limited s then bypass 0x20 s else
    let s := expireSession s
    let f := if s.narrow.repeatNext then s.narrow.lastReleased else s.narrow.outQ.head?
    { s with narrow := { s.narrow with ir := 0x20, offered := f, drCapture := (f.map (·.words)).getD [] } })

/-- Update-DR of DWEP, the outgoing side: a frame shifted out whole is released, which closes the request it answers
(R546, R547). -/
def releaseOffered (whole : Bool) (n : Narrow) : Narrow :=
  match n.offered with
  | none => { n with repeatNext := false }
  | some f =>
    if !whole then { n with offered := none }
    else if n.repeatNext then { n with offered := none, repeatNext := false, lastReleased := some f }
    else { n with
      offered := none, lastReleased := some f
      outQ := eraseFirst (fun g => g == f) n.outQ
      open_ := match f.closes with
        | none => n.open_
        | some k => eraseFirst (fun o => o.key == k && o.answered) n.open_ }

/-- A response frame that the port makes itself: `closes` is the open request it answers, none for one not taken. -/
def portAnswer (closes : Option (BitVec 16)) (seq cmd chip : BitVec 16) (code : BitVec 8) (badCheck : Bool) (s : State) :
    State :=
  let w1 := responseWord s code badCheck 0 cmd
  let w0 := pk [(60, 4, 1), (56, 4, 2), (32, 16, chip.toNat), (0, 16, seq.toNat)]
  let body := [w0, w1]
  let f : OutFrame := {
    event := false, closes := closes
    words := body ++ [(crc32c (BitVec.ofNat 32 (0xC0000000 + seq.toNat)) (bytesOf body)).setWidth 64] }
  { s with narrow := { s.narrow with outQ := s.narrow.outQ ++ [f] } }

/-- Answer an open request without running it. -/
def answerOpen (key chip : BitVec 16) (code : BitVec 8) (s : State) : State :=
  match openReq key s with
  | none => s
  | some o =>
    if o.dead then { s with narrow := { s.narrow with open_ := eraseFirst (fun q => q == o) s.narrow.open_ } }
    else portAnswer (some key) o.seq o.cmd chip code false { s with narrow := { s.narrow with
      open_ := modFirst (fun q => q == o) (fun q => { q with answered := true }) s.narrow.open_ } }

/-- Relay a request to another chip (R551). -/
def relayRequest (key dst : BitVec 16) (frame : List Word) (s : State) : State :=
  if !coordSet s || !inTorus s dst then answerOpen key (chipOf s) rBadArg s
  else if !routeForeseen s dst 1 then answerOpen key (chipOf s) rVersion s
  else if trackerFull s then answerOpen key (chipOf s) rNoResource s
  else
    let t := openTrack dst (.narrow key) 40000000 s
    let s1 := t.2.2
    let payload := pk [(0, 2, levelRank s.narrow.level)] :: frame
    let f := mkFrame s1 dst 0x50 t.1 1 payload (8 * payload.length)
    let f := { f with hdr := { f.hdr with principal := ((s.narrow.who.map principalCode).getD 0) } }
    sendFrame f { s1 with narrow := { s1.narrow with
      open_ := modFirst (fun o => o.key == key && !o.answered)
        (fun o => { o with remote := some (dst, t.2.1, hubGt s + 40000000) }) s1.narrow.open_ } }

/-- The number under which a taken request is held: its SEQ, or the lowest number free where an open request has it. -/
def freeKey (seq : BitVec 16) (s : State) : BitVec 16 :=
  let used := s.narrow.open_.map (·.key)
  if seq ∈ used then
    (((List.range (used.length + 1)).map (BitVec.ofNat 16)).find? fun k => !used.contains k).getD seq
  else seq

/-- Judge a complete pass (R546 to R548). A SEALED session refuses every frame, a REPEAT too (R532). -/
def judgePass (ws : List Word) (s : State) : State :=
  let w0 := ws.getD 0 0
  let n := bits w0 31 16
  let seq := fieldB 16 w0 0
  let cmd := fieldB 16 (ws.getD 1 0) 48
  if bits w0 63 60 = 0 then s
  else if bits w0 59 56 = 15 then
    if s.narrow.level = .sealedLevel then portAnswer none seq cmd (chipOf s) rDenied false s
    else { s with narrow := { s.narrow with repeatNext := true } }
  else if bits w0 63 60 ≠ 1 ∨ ws.length < 3 + n / 8 ∨ bits w0 59 56 ≠ 1 ∨ n % 8 ≠ 0 ∨ 3520 < n then
    { s with narrow := { s.narrow with discarded := satInc s.narrow.discarded } }
  else
    let body := ws.take (2 + n / 8)
    let check := crc32c (BitVec.ofNat 32 (0x40000000 + seq.toNat)) (bytesOf body)
    if check ≠ fieldB 32 (ws.getD (2 + n / 8) 0) 0 then portAnswer none seq cmd (chipOf s) rBadArg true s
    else if s.narrow.level = .sealedLevel then portAnswer none seq cmd (chipOf s) rDenied false s
    else if 4 ≤ s.narrow.open_.length then { s with narrow := { s.narrow with full := true } }
    else
      let key := freeKey seq s
      let s1 := { s with narrow := { s.narrow with open_ := s.narrow.open_ ++ [{ seq := seq, key := key, cmd := cmd }] } }
      let dst := fieldB 16 w0 32
      if bit w0 55 && decide (dst ≠ chipOf s) then relayRequest key dst (ws.take (3 + n / 8)) s1
      else takeRequest (.narrow key) cmd seq false s.narrow.who s.narrow.level (body.drop 2) none s1

/-- DWEP_UPDATE: `shifted` are the whole words shifted in, `whole` says that every bit of the offered frame was shifted
out (R546). -/
def execDwepUpdate (shifted : List Word) (whole : Bool) (s : State) : Host.Outcome State Fault Refusal :=
  .next (if s.power = .off ∨ limited s = true then s else
    let s := expireSession s
    judgePass shifted { s with narrow := releaseOffered whole s.narrow })

/-- A response to an entry has arrived by its deadline and waits to be taken (R463). -/
def responseWaits (s : State) (ix : Nat) (e : TrackEntry) : Bool :=
  s.iz.local_.any fun x => x.frame.hdr.resp && x.frame.hdr.tag == tagOf ix e.use && decide (x.arrive ≤ e.deadline)

/-- NARROW_REMOTE_TIMEOUT: a relayed request is answered TIMEOUT with CHIP equal to DST (R551, R43), unless a response came by
then (Table 18.6). -/
def execNarrowRemoteTimeout (seq : BitVec 16) (s : State) : Host.Outcome State Fault Refusal :=
  .next (match s.narrow.open_.find? fun o => o.seq == seq && o.remote.isSome && !o.answered with
    | none => s
    | some o => match o.remote with
      | none => s
      | some (dst, ix, t) =>
        let waits := match tget ix s.iz.tracker with | some e => responseWaits s ix e | none => false
        if t ≤ hubGt s ∧ waits = false then answerOpen o.key dst rTimeout (closeTrack ix s) else s)

end Sys2Proof.Machine
end

