-- ==== Sys2Proof/Machine/Power.lean ====
section
/-!
DEFINITION. Power states, observation reset and its release, the last-gasp sequence, the critical crash record and the tray's
Block commands (chapters 19, 20; R83, R17).
-/
namespace Sys2Proof.Machine

/-! ## Observation reset and its release (R83, R85, R17, R565) -/

/-- The core numbers rise strictly, so no position is tied off twice. -/
def risingFrom (lo : Nat) : List CoreTie → Bool
  | [] => true
  | t :: ts => decide (lo ≤ t.core.toNat) && risingFrom (t.core.toNat + 1) ts

/-- One core's tie-offs stay within Table 01.1, Table 03.1 and Table 09.3: at most 32 chains, a descriptor of 64 words. -/
def coreTieOk (t : CoreTie) : Bool := decide (t.scanChains.toNat ≤ 32) && decide (t.descriptor.length = 64)

/-- The tie-offs describe a configuration of R15. -/
def tieOffsOk (t : TieOffs) : Bool :=
  risingFrom 0 t.cores && t.cores.all coreTieOk && decide (t.izMode.length = 6)

/-- A core as observation reset leaves it, its counters set to zero (R127, R139); with its defect tie-off it begins FENCED, `ts_fence` and the holds of its engines
raised, and no acknowledgement is waited for (R17, R103). -/
def freshCore (t : CoreTie) : Core :=
  let co := zeroCounters { ties := t }
  if t.defect then holdEngines { co with st := .fenced, fence := true } else co

/-- One leaf for every cluster with a present core. The hub starts in basic service, in which every leaf is in storm mode
(R356, R505). -/
def freshLeaves (cores : Tab Core) : Tab Leaf :=
  ((cores.map fun p => clusterOf p.1).eraseDups).map fun c => (c, { err := { storm := true } })

/-- The time base with its always-on registers; what lies in the hub, an exchange in progress included, is lost (R604,
Table 02.2). -/
def keptTime (t : Time) : Time :=
  let st := match t.cal, t.state with
    | some k, .calibrating => k.before
    | _, st => st
  { acc := t.acc, rate := t.rate, delay := t.delay, asym := t.asym, state := st, calibrated := t.calibrated
    refLost := t.refLost, refStopped := t.refStopped, onAo := t.onAo, root := t.root, slew := t.slew, adjust := t.adjust
    diam := t.diam, tree := t.tree }

/-- The intake log and its header counts (R351, Table 11.5). -/
def keptErrors (e : Errors) : Errors :=
  { log := e.log, logged := e.logged, replaced := e.replaced, storms := e.storms, stormGt := e.stormGt }

/-- The crash region setting; space that an interrupted dump had reserved is free again (R289, R309). -/
def keptDumps (d : Dumps) : Dumps :=
  let r := d.regions.getD 0 {}
  let crash : Region := { r with reserved := r.write }
  { regions := crash :: List.replicate 8 {} }

/-- What the always-on domain and the fuses keep while everything else restarts (R37, R510, R565): GT, the retention SRAM's
items, the power logic. A fused write in progress is lost with its slot uncommitted (R511). -/
def alwaysOn (s : State) : State :=
  { pending := s.pending
    time := keptTime s.time
    power := s.power
    pw := s.pw
    ties := s.ties
    mb := { levels := s.mb.levels, coord := s.mb.coord }
    protect := { s.protect with proposal := none, nextProposal := 1 }
    fuses := s.fuses
    narrow := freshSession s.fuses.lifecycle { ir := s.narrow.ir }
    events := { base := s.events.base, log2 := s.events.log2 }
    errors := keptErrors s.errors
    autofence := s.autofence
    dumps := keptDumps s.dumps
    rec_ := { tray := { seq := s.rec_.tray.seq } }
    free := s.free }

/-- ON or PARTIAL by `pf_part_gated` (R561). -/
def poweredMode (gated : BitVec 8) : PowerMode := if gated = 0 then .on else .partialOn

/-- Observation reset, its release with the tie-offs sampled, then `pf_shed` and `pf_obs_off` lowered. -/
def obsRelease (t : TieOffs) (s : State) : State :=
  let cores : Tab Core := t.cores.map fun c => (c.core.toNat, freshCore c)
  let s := alwaysOn s
  { s with
    cores := cores
    leaves := freshLeaves cores
    errors := { s.errors with storm := true }
    ties := t
    power := poweredMode s.pw.gated
    pw := { s.pw with shed := false, obsOff := false, lgDone := false, warn := false, phase := .idle } }

/-- OBS_RESET_RELEASE. The hub holds observation reset only as its domain powers up, in ON or PARTIAL. -/
def execObsResetRelease (t : TieOffs) (s : State) : Host.Outcome State Fault Refusal :=
  if tieOffsOk t then
    .next (if s.power = .on ∨ s.power = .partialOn then obsRelease t s else s)
  else .fault .noSuchConfiguration

/-- OBS_POWER_UP: `pf_obs_pwr_ok` rises while `pf_warn` is 0; a sequence that runs ignores it until it has ended. -/
def execObsPowerUp (t : TieOffs) (s : State) : Host.Outcome State Fault Refusal :=
  if tieOffsOk t then
    .next (if s.power = .off ∨ s.power = .lastGasp then s else obsRelease t s)
  else .fault .noSuchConfiguration

/-! ## The critical crash record (R571 to R574) -/

def lgMagic : Word := 0x31535243474C4F54#64

/-- `n` words of a list, zero where it is shorter. -/
def padWords (n : Nat) (ws : List Word) : List Word := ws.take n ++ List.replicate (n - ws.length) 0

/-- A marked error record keeps CTX alone (R573). -/
def recordError (r : ErrRec) : List Word :=
  if r.marked then [0, pk [(0, 16, bits r.w1 15 0)], 0, 0] else [r.w0, r.w1, r.w2, r.w3]

/-- A marked crock entry keeps CTX alone (R573). -/
def recordCrock (x : CrockEntry) : List Word :=
  if x.marked then [0, pk [(36, 16, bits x.w1 51 36)]] else [x.w0, x.w1]

/-- Most error records that words 96 to 1,019 hold. -/
def recordErrors : Nat := 231

/-- Words 0 to 1,019 at recognition, after the drain: `cause`, `reason`, GT_WARN, POWER and DISCARDED as latched. -/
def recordBody (cause : Nat) (reason : BitVec 8) (discarded : Nat) (s : State) : List Word :=
  let g := s.pw.staging
  let errs := s.errors.log.reverse.take recordErrors
  [lgMagic,
   pk [(32, 32, s.pw.nextSeq.toNat), (24, 8, cause), (16, 8, reason.toNat), (0, 16, (chipOf s).toNat)],
   wn (hubGt s),
   pk [(56, 8, 4), (48, 8, 1), (32, 16, s.fw.major.toNat), (16, 16, s.fw.minor.toNat), (12, 4, fwCode s.fw.state),
       (8, 4, timeStateCode s.time.state), (6, 2, lifecycleCode s.fuses.lifecycle), (4, 2, levelRank s.protect.debug),
       (1, 3, b2n (decide (s.power = .partialOn)))],
   pk [(56, 8, s.gens.chip.toNat), (40, 8, s.pw.gated.toNat), (0, 16, satN 16 discarded)],
   pk ((s.gens.part.zipIdx).map fun q => (8 * q.2, 8, q.1.toNat)),
   pk [(32, 32, s.errors.logged.toNat), (16, 16, errs.length)],
   pk [(32, 32, s.errors.replaced.toNat), (31, 1, b2n s.errors.storm), (30, 1, b2n (basic s)),
       (29, 1, b2n (!s.rec_.rungs.isEmpty))]] ++
  List.replicate 8 0 ++ padWords 4 g.cut ++ padWords 4 g.hang ++ padWords 3 g.rung ++
  [pk [(48, 16, g.crockEngine.toNat), (40, 8, g.crockSrc), (32, 8, g.crockGen.toNat), (0, 32, g.crockId.toNat)],
   wn g.crockGt, 0, 0, 0] ++
  List.replicate (if g.crockSrc = 0 then 64 else 64 - 2 * min 32 g.crock.length) 0 ++
  (if g.crockSrc = 0 then [] else (g.crock.take 32).flatMap recordCrock) ++
  padWords 924 (errs.flatMap recordError)

def recordSeq (ws : List Word) : BitVec 32 := fieldB 32 (ws.getD 1 0) 32
def recordCause (ws : List Word) : Nat := bits (ws.getD 1 0) 31 24
def recordReason (ws : List Word) : Nat := bits (ws.getD 1 0) 23 16

/-- CHECK of words 0 to 1,019 (word 1,021). -/
def recordCheck (body : List Word) : Word :=
  crc64 (pk [(32, 32, (recordSeq body).toNat)] ^^^ pk [(0, 16, bits (body.getD 1 0) 15 0)]) (bytesOf (body.take 1020))

/-- The record with its seal, words 1,020 to 1,023. -/
def sealRecord (gt : GT) (body : List Word) : List Word :=
  body ++ [pk [(32, 32, (recordSeq body).toNat)], recordCheck body, wn gt, 0]

/-- R574. -/
def recordValid (ws : List Word) : Bool :=
  decide (ws.length = 1024) && decide (ws.getD 0 0 = lgMagic) &&
    decide (fieldB 32 (ws.getD 1020 0) 32 = recordSeq ws) && decide (ws.getD 1021 0 = recordCheck ws)

/-- The valid record with the greater SEQ of the two slots. -/
def selectRecord (slots : List (List Word)) : Option (List Word) :=
  (slots.filter recordValid).foldl (fun best ws =>
    match best with
    | none => some ws
    | some b => if recordSeq b < recordSeq ws then some ws else best) none

/-! ## The last-gasp sequence (R567, R568, R570, R578, R580) -/

/-- The intake queue drains into the log. No event is raised: firmware has stopped. -/
def drainIntake (s : State) : State :=
  let e := s.errors.queue.foldl (fun (e : Errors) r => { e with
    log := pushRing 2048 r e.log, logged := satInc e.logged
    replaced := if 2048 ≤ e.log.length then satInc e.replaced else e.replaced }) s.errors
  { s with errors := { e with queue := [] } }

/-- A sequence ends: `pf_lg_done` rises, the chip is RETAINED, and a sealed record becomes the last record at once
(R561, R574). -/
def endSequence (failed : Bool) (ws : List Word) (s : State) : State :=
  { s with
    power := .retained
    pw := { s.pw with
      lgDone := true, phase := .idle, record := [], last := some ws, nvFailed := failed, nextSeq := recordSeq ws + 1 } }

/-- Recognition: the record is finalised, the hub and observation stop, and words 0 to 1,019 are written and flushed;
without a device the sealed record stays in the retention SRAM alone. A rung 6 that runs gives CAUSE RUNG6 (R414). -/
def recognise (cause : Nat) (nvAvail : Bool) (s : State) : State :=
  let cause := if s.rec_.tray.reason.isSome then 2 else cause
  let reason := s.rec_.tray.reason.getD 0
  let discarded := s.errors.flight.length
  let s := drainIntake s
  let body := recordBody cause reason discarded s
  let s := alwaysOn s
  let s := { s with power := .lastGasp, pw := { s.pw with shed := true, obsOff := true, lgDone := false } }
  if nvAvail then
    let slot := (recordSeq body).toNat % 2
    { s with pw := { s.pw with phase := .body, record := body, slot := slot, flushes := s.pw.flushes + 1 } }
  else endSequence true (sealRecord (hubGt s) body) s

/-- A warning or a request is recognised in ON and PARTIAL only. -/
def recognisable (s : State) : Bool := decide (s.power = .on ∨ s.power = .partialOn)

/-- PF_WARN_RECOGNISE. -/
def execPfWarnRecognise (nvAvail : Bool) (s : State) : Host.Outcome State Fault Refusal :=
  .next (if recognisable s then recognise 1 nvAvail { s with pw := { s.pw with warn := true } } else s)

/-- RETENTION_REQUEST_RECOGNISE. -/
def execRetentionRequestRecognise (nvAvail : Bool) (s : State) : Host.Outcome State Fault Refusal :=
  .next (if recognisable s then recognise 3 nvAvail s else s)

/-- NV_DURABLE: after the body's flush the seal is written and flushed, after the seal's the sequence ends. -/
def execNvDurable (s : State) : Host.Outcome State Fault Refusal :=
  .next (match s.power, s.pw.phase with
    | .lastGasp, .body =>
      { s with pw := { s.pw with phase := .sealing, record := sealRecord (hubGt s) s.pw.record, flushes := s.pw.flushes + 1 } }
    | .lastGasp, .sealing => endSequence false s.pw.record s
    | _, _ => s)

/-- NV_FLUSH_TIMEOUT. -/
def execNvFlushTimeout (s : State) : Host.Outcome State Fault Refusal :=
  .next (match s.power, s.pw.phase with
    | .lastGasp, .body => endSequence true (sealRecord (hubGt s) s.pw.record) s
    | .lastGasp, .sealing => endSequence true s.pw.record s
    | _, _ => s)

/-! ## Always-on power and gating (R561, R563, R565) -/

/-- The reset value of the chip debug level by lifecycle (Table 17.2). -/
def resetDebug : Lifecycle → DebugLevel
  | .manufacture => .invasive | .provision => .observe | .deployed => .sealedLevel | .returned => .sealedLevel

/-- Everything but the fuses at its reset value. -/
def aoReset (s : State) : State :=
  { pending := s.pending, fuses := s.fuses, free := s.free, ties := s.ties
    protect := { debug := resetDebug s.fuses.lifecycle }
    narrow := freshSession s.fuses.lifecycle {} }

/-- AO_POWER_UP: `slots` are the two records as the device gives them, none where `nv_avail` is 0. -/
def execAoPowerUp (slots : List (List Word)) (s : State) : Host.Outcome State Fault Refusal :=
  .next (
    let last := selectRecord slots
    let s := aoReset s
    { s with pw := { s.pw with last := last, nextSeq := match last with | none => 1 | some ws => recordSeq ws + 1 } })

/-- AO_POWER_LOSS: OFF; all but the fuses is lost. -/
def execAoPowerLoss (s : State) : Host.Outcome State Fault Refusal := .next { aoReset s with power := .off }

/-- PART_GATED_CHANGE. -/
def execPartGatedChange (part : PartIx) (gated : Bool) (s : State) : Host.Outcome State Fault Refusal :=
  .next (if s.power = .off then s else
    let g := setBit s.pw.gated part.toNat gated
    { s with
      pw := { s.pw with gated := g }
      power := if recognisable s then poweredMode g else s.power })

/-! ## The tray's Block commands (R578, R599, R601) -/

/-- TRAY_BLOCK_WRITE 0x70. -/
def execTrayBlockWrite (offset : BitVec 16) (pecOk : Bool) (s : State) : Host.Outcome State Fault Refusal :=
  let bad := decide (offset.toNat % 128 ≠ 0 ∨ 8064 < offset.toNat)
  .next (if s.power = .off then s
    else if bad then { s with pw := { s.pw with trayNack := true } }
    else if pecOk then { s with pw := { s.pw with trayOffset := offset, trayNack := false } }
    else { s with pw := { s.pw with trayNack := false } })

/-- The 130 bytes of a Block Read 0x71; without an OK status the record bytes read zero. -/
def trayReplyOf (s : State) : List Byte :=
  if s.power = .lastGasp then 1 :: 2 :: List.replicate 128 0
  else match s.pw.last with
    | none => 1 :: 1 :: List.replicate 128 0
    | some ws => 1 :: 0 :: bytesOf ((ws.drop (s.pw.trayOffset.toNat / 8)).take 16)

/-- TRAY_BLOCK_READ 0x71. -/
def execTrayBlockRead (s : State) : Host.Outcome State Fault Refusal :=
  .next (if s.power = .off then s else { s with pw := { s.pw with trayReply := trayReplyOf s } })

end Sys2Proof.Machine
end

