-- ==== Sys2Proof/Machine/Links.lean ====
section
/-!
DEFINITION. The Iazan ports (chapter 15, "Ports and the PHY interface" to "Routing and forwarding"): bring-up, link flits, frame
check, acknowledgement and credits, forwarding, floods and the link-state table.
-/
namespace Sys2Proof.Machine

/-! ## Types of frames (R448) -/

def floodType (t : BitVec 8) : Bool := decide (t = 0x10 ∨ t = 0x11 ∨ t = 0x12)
def timeType (t : BitVec 8) : Bool := decide (t = 0x20 ∨ t = 0x21)

/-- The types of Table 15.7. -/
def knownType (t : BitVec 8) : Bool :=
  floodType t || timeType t || decide (t = 0x30 ∨ t = 0x31 ∨ t = 0x32 ∨ t = 0x33 ∨ t = 0x40 ∨ t = 0x41 ∨ t = 0x50)

/-! ## Ports going up and down (R443 to R445) -/

/-- What a port starts a LIVE link with. -/
def freshLink (q : IzPort) : IzPort :=
  { q with
    txSeq := 0, rxSeq := 0, replay := [], rejecting := false, nakDue := false, failures := []
    credits := [16, 16, 16, 16, 128, 128, 128, 128], freed := List.replicate 8 0 }

/-- Frames of a port that are routed again when it goes DOWN: those bound for one chip (R444). -/
def stranded (q : IzPort) : List TxFrame :=
  ((q.replay.map Prod.snd) ++ q.txQ).filter fun f => !floodType f.frame.hdr.type && !timeType f.frame.hdr.type

def goDown (p : Nat) (s : State) : State :=
  let fs := stranded (portOf s p)
  let s := modPort p (fun q => { freshLink q with txQ := [], rxFlits := 0, checked := false, txAfter := 0, rxAfter := 0 }) s
  fs.foldl (fun s f => routeFrame f.frame none f.lane s) (setPort p .down 0 s)

def enterTraining (p : Nat) (s : State) : State :=
  setPort p .training 0 (modPort p (fun q => { freshLink q with
    txQ := [], rxFlits := 0, checked := false, txAfter := 0, rxAfter := 0 }) s)

/-- Step 3 is complete: the port is LIVE at its level; a link that retrained is calibrated again (R70). -/
def goLive (p : Nat) (level : BitVec 4) (s : State) : State :=
  let again := (portOf s p).everLive
  let now := hubGt s
  let s := setPort p .live level (modPort p (fun q => { freshLink q with everLive := true, lastFlit := now }) s)
  if again && decide (2 ≤ level.toNat) then recalibrateLink p s else s

/-- Enough link flits have passed after the check. -/
def liveDue (q : IzPort) : Bool := decide (q.st = .training) && q.checked && decide (3 ≤ q.txAfter ∧ 3 ≤ q.rxAfter)

/-- A port that may come up: a lane or a virtual channel, in a dimension of at least 2 once the dimensions are known. -/
def portUsable (s : State) (p : Nat) : Bool :=
  decide ((portOf s p).mode = 1 ∨ (portOf s p).mode = 2) && (s.mb.coord.isNone || decide (2 ≤ dimOfPort s p))

/-- IAZAN_PHY_UP. -/
def execIazanPhyUp (port : BitVec 3) (s : State) : Host.Outcome State Fault Refusal :=
  let p := port.toNat
  .next (if serving s = true ∧ p < 6 ∧ (portOf s p).phy = false then
    let s := modPort p (fun q => { q with phy := true }) s
    if portUsable s p then enterTraining p s else s
  else s)

/-- IAZAN_PHY_DOWN. -/
def execIazanPhyDown (port : BitVec 3) (s : State) : Host.Outcome State Fault Refusal :=
  let p := port.toNat
  .next (if serving s = true ∧ p < 6 ∧ (portOf s p).phy = true then
    let s := modPort p (fun q => { q with phy := false }) s
    if (portOf s p).st = .down then s else goDown p s
  else s)

/-! ## Link flits (R439, R442, R443, R445) -/

/-- A failed check of a frame or link flit. -/
def checkFailed (p : Nat) (s : State) : State :=
  let now := hubGt s
  modPort p (fun q => { q with
    checkFail := satInc q.checkFail, failures := (q.failures.filter fun g => decide (now < g + 4000000)) ++ [now] }) s

/-- The neighbour is not the one R445 asks for. -/
def wrongNeighbour (s : State) (p : Nat) (f : LinkFlit) : Bool :=
  let d := dimsOf s
  decide ((f.dimx.toNat + 1, f.dimy.toNat + 1, f.dimz.toNat + 1) ≠ d) || decide (f.chip ≠ neighbourOf s p) ||
    decide (f.port.toNat ≠ oppositePort p) || decide (f.maxlevel = 0)

/-- A valid link flit at a port in TRAINING. -/
def trainFlit (p : Nat) (f : LinkFlit) (s : State) : State :=
  let q := portOf s p
  if q.checked then
    let s := modPort p (fun q => { q with rxAfter := q.rxAfter + 1 }) s
    if liveDue (portOf s p) then goLive p q.agreed s else s
  else
    let s := modPort p (fun q => { q with rxFlits := q.rxFlits + 1 }) s
    if q.rxFlits + 1 < 3 ∨ f.unset = true ∨ s.mb.coord = none then s
    else if wrongNeighbour s p f then
      let now := hubGt s
      setPort p .fenced 0 (modPort p (fun q => { q with fencedAt := now, rxFlits := 0 }) s)
    else
      let level : BitVec 4 := if f.maxlevel.toNat < 3 then f.maxlevel else 3
      modPort p (fun q => { q with checked := true, agreed := level, txAfter := 0, rxAfter := 0 }) s

def flitCredit (f : LinkFlit) (i : Nat) : Nat := bits f.credits (8 * i + 7) (8 * i)

/-- A valid link flit at a LIVE port: acknowledgements and credits; a NAK has every frame after ACKSEQ resent (R442). -/
def liveFlit (p : Nat) (f : LinkFlit) (s : State) : State :=
  modPort p (fun q =>
    let left := q.replay.filter fun r => decide (2 ^ 15 ≤ (f.ackseq - r.1).toNat)
    let q := { q with
      replay := left, tx := if f.nak then left.flatMap fun r => frameFlits r.2 r.1 else q.tx
      nak := if f.nak then satInc q.nak else q.nak
      credits := q.credits.zipIdx.map fun c => c.1 + flitCredit f c.2 }
    pumpPort (hubGt s) (q.txQ.length + 1) q) s

/-- LINK_FLIT_RECEIVE. -/
def execLinkFlitReceive (port : BitVec 3) (f : LinkFlit) (s : State) : Host.Outcome State Fault Refusal :=
  let p := port.toNat
  .next (if serving s = true ∧ p < 6 ∧ (portOf s p).phy = true ∧ (portOf s p).st ≠ .down then
    if f.checkOk = false then modPort p (fun q => { q with rxFlits := 0 }) (checkFailed p s)
    else
      let now := hubGt s
      let turned := decide ((portOf s p).navoid ≠ f.avoid)
      let s := modPort p (fun q => { q with lastFlit := now, neighbour := f.chip, navoid := f.avoid }) s
      let s := if turned then floodLinkState s else s
      match (portOf s p).st with
      | .training => trainFlit p f s
      | .live => liveFlit p f s
      | _ => s
  else s)

/-- The link flit a port sends now. -/
def linkFlitOf (s : State) (p : Nat) : LinkFlit :=
  let q := portOf s p
  let c := s.mb.coord.getD { x := 0, y := 0, z := 0, dimx := 0, dimy := 0, dimz := 0 }
  { checkOk := true, chip := chipOf s, major := 4, minor := 1, maxlevel := 3, port := BitVec.ofNat 3 p, avoid := s.iz.avoid
    fw := !basic s, unset := s.mb.coord.isNone, nak := q.nakDue, dimx := c.dimx, dimy := c.dimy, dimz := c.dimz
    ackseq := q.rxSeq - 1, credits := pk (q.freed.zipIdx.map fun x => (8 * x.2, 8, min 255 x.1)) }

/-- LINK_FLIT_SEND: at most 255 flits of a class and lane are returned, the rest carry over (R443). -/
def execLinkFlitSend (port : BitVec 3) (s : State) : Host.Outcome State Fault Refusal :=
  let p := port.toNat
  .next (if serving s = true ∧ p < 6 ∧ (portOf s p).phy = true ∧ (portOf s p).st ≠ .down then
    let f := linkFlitOf s p
    let now := hubGt s
    let s := modPort p (fun q => { q with
      lastSent := now, sentFlit := some f, tx := [linkFlitWords f], nakDue := false, freed := q.freed.map (· - 255)
      txAfter := if q.checked then q.txAfter + 1 else q.txAfter }) s
    if liveDue (portOf s p) then goLive p (portOf s p).agreed s else s
  else s)

/-- LINK_FLIT_TIMEOUT: no valid link flit for 40,000 GT. -/
def execLinkFlitTimeout (port : BitVec 3) (s : State) : Host.Outcome State Fault Refusal :=
  let p := port.toNat
  .next (if serving s = true ∧ (portOf s p).st = .live ∧ (portOf s p).lastFlit + 40000 ≤ hubGt s then goDown p s else s)

/-- CHECK_FAILURE_LIMIT: 16 check failures within 4,000,000 GT. -/
def execCheckFailureLimit (port : BitVec 3) (s : State) : Host.Outcome State Fault Refusal :=
  let p := port.toNat
  let now := hubGt s
  .next (if serving s = true ∧ (portOf s p).st = .live ∧
      16 ≤ ((portOf s p).failures.filter fun g => decide (now < g + 4000000)).length then
    let s := modPort p (fun q => { q with retrainPulses := q.retrainPulses + 1, retrain := satInc q.retrain }) s
    goDown p (hubError 6 3 0 0 0 s)
  else s)

/-- IAZAN_FENCED_RETRY: after 1 s a FENCED port tries the neighbour check again. -/
def execIazanFencedRetry (port : BitVec 3) (s : State) : Host.Outcome State Fault Refusal :=
  let p := port.toNat
  .next (if serving s = true ∧ (portOf s p).st = .fenced ∧ (portOf s p).fencedAt + 4000000000 ≤ hubGt s then enterTraining p s
    else s)

/-! ## Frames (R441, R442, R448 to R455) -/

/-- A flood that has no record here: recorded, forwarded unless this hub advertises AVOID, and kept for this hub. In basic
service only LINK_STATE is kept (R266, R474). -/
def receiveFlood (p : Nat) (f : Frame) (arrive : GT) (s : State) : State :=
  let now := hubGt s
  if s.iz.floods.any fun x => x.1 == f.hdr.src && x.2.1 == f.hdr.fseq && decide (now < x.2.2 + 4194304) then
    modPort p (fun q => { q with dupFlood := satInc q.dupFlood }) s
  else
    let s := { s with iz := { s.iz with floods := pushRing 256 (f.hdr.src, f.hdr.fseq, now) s.iz.floods } }
    let s := if s.iz.avoid then s else floodOn { f with hdr := { f.hdr with hops := f.hdr.hops + 1 } } (some p) s
    if basic s && decide (f.hdr.type ≠ 0x12) then s else receiveLocal (some (BitVec.ofNat 3 p)) f arrive s

/-- A frame for another chip (R450 to R452). -/
def transitFrame (p : Nat) (lane : Bool) (f : Frame) (s : State) : State :=
  if !inTorus s f.hdr.dst then
    if isRequest f then sendAnswer (refusalOf s f 0x21 false) (countDrop s) else countDrop s
  else if s.iz.avoid then countDrop s
  else routeFrame { f with hdr := { f.hdr with hops := f.hdr.hops + 1 } } (some p) lane s

/-- An accepted frame goes where it belongs; a TIME frame's effect is that of its own row. -/
def acceptFrame (p : Nat) (lane : Bool) (f : Frame) (arrive : GT) (s : State) : State :=
  if !knownType f.hdr.type then modPort p (fun q => { q with badType := satInc q.badType }) s
  else if 192 ≤ f.hdr.hops.toNat then modPort p (fun q => { q with hopsDrop := satInc q.hopsDrop }) s
  else if floodType f.hdr.type then receiveFlood p f arrive s
  else if timeType f.hdr.type then s
  else if f.hdr.dst = chipOf s then receiveLocal (some (BitVec.ofNat 3 p)) f arrive s
  else transitFrame p lane f s

/-- IAZAN_FRAME_RECEIVE: a frame is accepted only when its CHECK verifies against the HOPSEQ expected next. -/
def execIazanFrameReceive (port : BitVec 3) (lane : Bool) (f : Frame) (check : BitVec 32) (arrive : GT) (s : State) :
    Host.Outcome State Fault Refusal :=
  let p := port.toNat
  let q := portOf s p
  .next (if serving s = true ∧ p < 6 ∧ q.st = .live then
    if check = frameCheck f q.rxSeq ∧ f.len.toNat ≤ 3552 then
      let ix := 2 * (frameClass f.hdr.type).toNat + b2n lane
      acceptFrame p lane f arrive (modPort p (fun q => { q with
        rxSeq := q.rxSeq + 1, rejecting := false, freed := q.freed.modify ix (· + flitsOf f) }) s)
    else if q.rejecting then s
    else modPort p (fun q => { q with rejecting := true, nakDue := true }) (checkFailed p s)
  else s)

/-- IAZAN_FRAME_AGED: frames that have waited 100 µs for a credit are dropped. -/
def execIazanFrameAged (port : BitVec 3) (s : State) : Host.Outcome State Fault Refusal :=
  let now := hubGt s
  .next (if serving s then
    modPort port.toNat (fun q =>
      let old := q.txQ.filter fun f => decide (f.since + 400000 ≤ now)
      { q with txQ := q.txQ.filter (fun f => decide (now < f.since + 400000)), aged := satInc q.aged old.length }) s
  else s)

/-! ## Floods on record, AVOID and the link-state table (R452, R454, R455) -/

/-- FLOOD_RECORD_EXPIRY. -/
def execFloodRecordExpiry (s : State) : Host.Outcome State Fault Refusal :=
  let now := hubGt s
  .next { s with iz := { s.iz with floods := s.iz.floods.filter fun x => decide (now < x.2.2 + 4194304) } }

/-- AVOID_ENTRY. -/
def execAvoidEntry (s : State) : Host.Outcome State Fault Refusal :=
  .next (if serving s = true ∧ s.iz.avoid = false then floodLinkState { s with iz := { s.iz with avoid := true } } else s)

/-- LINK_STATE_PERIODIC. -/
def execLinkStatePeriodic (s : State) : Host.Outcome State Fault Refusal :=
  .next (if serving s = true ∧ s.iz.lastLinkFlood + 400000000 ≤ hubGt s then floodLinkState s else s)

/-- Take the oldest received frame that satisfies a test. -/
def takeLocal (p : Frame → Bool) (s : State) : Option (InFrame × State) :=
  if serving s then
    (s.iz.local_.find? fun x => p x.frame).map fun x =>
      (x, { s with iz := { s.iz with local_ := eraseFirst (fun y => y == x) s.iz.local_ } })
  else none

def staleEntry (s : State) (e : LinkEntry) : Bool := decide (e.heard + 1200000000 ≤ hubGt s)

/-- An entry from its bits. -/
def entryOf (v : Word) (now : GT) : LinkEntry :=
  { ports := (List.range 6).map fun p => (fieldB 2 v (5 * p), fieldB 2 v (5 * p + 2), bit v (5 * p + 4))
    avoid := bit v 30, seq := fieldB 16 v 32, heard := now }

/-- LINK_STATE_RECEIVE: the sender's entry, unless an entry heard lately has a later sequence number. -/
def execLinkStateReceive (s : State) : Host.Outcome State Fault Refusal :=
  .next (match takeLocal (fun f => decide (f.hdr.type = 0x12)) s with
    | none => s
    | some (x, s) =>
      let e := entryOf (x.frame.payload.getD 0 0) (hubGt s)
      let old := tget x.frame.hdr.src.toNat s.iz.links
      let late := match old with
        | none => false
        | some o => !staleEntry s o && decide (2 ^ 15 ≤ (e.seq - o.seq).toNat)
      if late then s else { s with iz := { s.iz with links := tset x.frame.hdr.src.toNat e s.iz.links } })

/-- LINK_STATE_STALE. -/
def execLinkStateStale (chip : BitVec 16) (s : State) : Host.Outcome State Fault Refusal :=
  .next (match tget chip.toNat s.iz.links with
    | none => s
    | some e =>
      if staleEntry s e then { s with iz := { s.iz with
        links := tset chip.toNat { e with ports := List.replicate 6 (0, 0, false) } s.iz.links } }
      else s)

end Sys2Proof.Machine
end

