-- ==== Sys2Proof/Machine/Remote.lean ====
section
/-!
DEFINITION. What travels over Iazan (chapter 15, "Floods" to "Dump streaming"; chapter 18, "Reaching other chips"): floods
applied at this hub, REMOTE and its target, windows, reports, streamed dumps, relayed narrow-port requests.
-/
namespace Sys2Proof.Machine

/-! ## Floods (R266, R456, R457) -/

def wordOf (x : InFrame) (i : Nat) : Word := x.frame.payload.getD i 0

/-- The oldest STOP_FLOOD of an operation; basic service applies none (R266, R474). -/
def takeFlood (op : Nat) (act : InFrame → State → State) (s : State) : State :=
  match takeLocal (fun f => decide (f.hdr.type = 0x10) && decide (bits (f.payload.getD 0 0) 63 56 = op)) s with
  | none => s
  | some (x, s) => if basic s then s else act x s

def floodId (x : InFrame) : BitVec 32 := fieldB 32 (wordOf x 0) 0
def floodAddr (x : InFrame) : UnitAddr := fieldB 32 (wordOf x 2) 32
def floodMask (x : InFrame) : UnitAddr := fieldB 32 (wordOf x 2) 0

/-- The report of a cut this hub does not take because it holds 16 (R262). -/
def refuseCut (x : Cut) (s : State) : State :=
  sendReport x.id 0 ((cutHeader s x).set 0 (pk [(32, 32, x.id.toNat), (0, 8, rNoResource.toNat)])) s

/-- FLOOD_ARM. -/
def execFloodArm (s : State) : Host.Outcome State Fault Refusal :=
  .next (takeFlood 0 (fun x s =>
    let id := floodId x
    if (keptCut s id).isSome || !namesHere s (floodAddr x) (floodMask x) then s else
    let k := bareCut id (floodAddr x) (floodMask x) (bit (wordOf x 0) 55) (wordOf x 1).toNat (bits (wordOf x 3) 31 0) {}
      false true none s
    if 16 ≤ s.cuts.active.length then refuseCut k s else acceptCut k s) s)

/-- FLOOD_CANCEL: at or after T it is ignored and counted. -/
def execFloodCancel (s : State) : Host.Outcome State Fault Refusal :=
  .next (takeFlood 1 (fun x s =>
    match activeCut s (floodId x) with
    | none => s
    | some k =>
      if cutInForce s k then { s with iz := { s.iz with cancelIgnored := s.iz.cancelIgnored + 1 } }
      else cancelCut k.id s) s)

/-- FLOOD_RESUME. -/
def execFloodResume (s : State) : Host.Outcome State Fault Refusal :=
  .next (takeFlood 2 (fun x s =>
    match activeCut s (floodId x) with
    | none => s
    | some k =>
      if resumeBusy s k (floodAddr x) (floodMask x) then s
      else modCut k.id (fun y => { y with
        resumes := y.resumes ++ [(floodAddr x, floodMask x, (wordOf x 1).toNat, none)] }) s) s)

/-- FLOOD_STEP_TIME: the new cut of word 5 is pending; its T is the release instant and DELTA. -/
def execFloodStepTime (s : State) : Host.Outcome State Fault Refusal :=
  .next (takeFlood 3 (fun x s =>
    match activeCut s (floodId x) with
    | none => s
    | some k =>
      let new := fieldB 32 (wordOf x 5) 0
      let r := (wordOf x 1).toNat
      let y := bareCut new (floodAddr x) (floodMask x) k.hard (r + (wordOf x 4).toNat) (bits (wordOf x 3) 31 0) {} false true
        none s
      if k.step.isSome || k.timeStep.isSome || (keptCut s new).isSome || !namesHere s y.addr y.mask then s
      else if 16 ≤ s.cuts.active.length then refuseCut y s
      else armTimeStep k.id new y.addr y.mask r y s) s)

/-- FLOOD_CHURN: this chip's dump under the churn's cut; `read` is READ of the region as the host has it. -/
def execFloodChurn (read : Word) (s : State) : Host.Outcome State Fault Refusal :=
  .next (takeFlood 4 (fun x s =>
    let w := wordOf x 5
    if namesHere s (floodAddr x) (floodMask x) then
      churnDump (fieldB 32 (wordOf x 4) 32) (floodId x) (fieldB 6 w 0) (fieldB 4 w 8) (bit w 12) (fieldB 32 w 32) {} none read s
    else s) s)

/-- TRIGGER_FRAME_RECEIVE. -/
def execTriggerFrameReceive (s : State) : Host.Outcome State Fault Refusal :=
  .next (match takeLocal (fun f => decide (f.hdr.type = 0x11)) s with
    | none => s
    | some (x, s) =>
      if !basic s && namesHere s (floodAddr x) (floodMask x) then
        { s with triggers := { s.triggers with
          raises := s.triggers.raises ++ [(bits (wordOf x 0) 2 0, (wordOf x 1).toNat, some x.frame.hdr.src)] } }
      else s)

/-- REPORT_RECEIVE: a chip's cut record header, or its churn summary. -/
def execReportReceive (s : State) : Host.Outcome State Fault Refusal :=
  .next (match takeLocal (fun f => decide (f.hdr.type = 0x33)) s with
    | none => s
    | some (x, s) =>
      if basic s then s
      else if bits (wordOf x 0) 7 0 = 0 then cutReported x.frame.hdr.src (x.frame.payload.drop 1) s
      else
        -- A churn summary names no churn but by its sender, which each churn of this hub awaits once.
        match s.dumps.churns.find? fun k => decide (x.frame.hdr.src ∈ k.awaited) with
        | none => s
        | some k =>
          let gone := s.dumps.streams.filter fun t => t.chip == x.frame.hdr.src && t.churn == k.id
          let s := { s with dumps := { s.dumps with
            streams := s.dumps.streams.filter fun t => !(t.chip == x.frame.hdr.src && t.churn == k.id) } }
          let s := gone.foldl (fun s t => publishRegion t.region s) s
          churnHeard x.frame.hdr.src k.id (fieldB 8 (wordOf x 1) 40) s)

/-! ## REMOTE at the origin (R461 to R463) -/

/-- The checks REMOTE makes in the order of R14, at the level the OP needs. -/
def remoteChecks (via : Via) (target : BitVec 16) (timeout : BitVec 32) (level : Nat) (bad : Bool) (s : State) :
    List (Bool × BitVec 8) :=
  let away := inTorus s target && decide (target ≠ chipOf s)
  [((away && !routeForeseen s target level) || (decide (level = 2) && levelThree s via), rVersion),
   (denied s via .opPlat .sealedLevel, rDenied),
   (!away || bad || (decide (timeout ≠ 0) && decide (timeout.toNat < 400000 ∨ 4000000000 < timeout.toNat)), rBadArg),
   (trackerFull s, rNoResource)]

/-- Send a request under a tracker entry; the command stays open until its response or its timeout. -/
def sendRemote (via : Via) (target : BitVec 16) (genchk : Bool) (gen : BitVec 8) (timeout : BitVec 32) (level : BitVec 2)
    (ws : List Word) (len : Nat) (s : State) : State :=
  let who := whoOf s via
  let t := openTrack target (.remote via) (if timeout = 0 then 40000000 else timeout.toNat) s
  let f := mkFrame t.2.2 target 0x30 t.1 level ws len
  sendFrame { f with hdr := { f.hdr with
    genchk := genchk, tgen := gen, principal := (who.map principalCode).getD 0
    domain := (who.map principalDomain).getD 0 } } t.2.2

/-- REMOTE with OP CMD. -/
def execRemoteCmd (via : Via) (target : BitVec 16) (notify : Bool) (cmd : BitVec 16) (genchk : Bool) (gen : BitVec 8)
    (timeout : BitVec 32) (inner : List Word) (s : State) : Host.Outcome State Fault Refusal :=
  .next (command via 0x0063 (.remoteCmd via target notify cmd genchk gen timeout inner) false
    (remoteChecks via target timeout 1 (decide (cmd = 0x0001 ∨ cmd = 0x0003 ∨ cmd = 0x0063 ∨ 443 < inner.length)))
    (fun s =>
      let ws := pk [(2, 1, b2n notify), (16, 16, cmd.toNat)] :: inner
      sendRemote via target genchk gen timeout 1 ws (8 * ws.length) s) s)

/-- REMOTE with OP WRITE. -/
def execRemoteWrite (via : Via) (target : BitVec 16) (genchk : Bool) (gen : BitVec 8) (timeout : BitVec 32)
    (win : BitVec 6) (wgen : BitVec 8) (bytes : BitVec 32) (offset : Word) (data : List Word) (s : State) :
    Host.Outcome State Fault Refusal :=
  let n := bytes.toNat
  .next (command via 0x0063 (.remoteWrite via target genchk gen timeout win wgen bytes offset data) false
    (remoteChecks via target timeout 2 (decide (n = 0 ∨ 3528 < n ∨ data.length ≠ (n + 7) / 8)))
    (fun s =>
      let ws := [pk [(0, 2, 1)], pk [(32, 32, n), (8, 8, wgen.toNat), (0, 6, win.toNat)], offset] ++ data
      sendRemote via target genchk gen timeout 2 ws (24 + n) s) s)

/-- A response frame's header word 1, the Iazan response word. -/
def responseWord1 (f : Frame) : Word := (headerWords f).getD 1 0

/-- REMOTE_RSP_RECEIVE. -/
def execRemoteRspReceive (s : State) : Host.Outcome State Fault Refusal :=
  .next (match takeLocal (fun f => decide (f.hdr.type = 0x31)) s with
    | none => s
    | some (x, s) =>
      match trackHit s x.frame.hdr.tag with
      | some (ix, e) => match e.purpose with
        | .remote via => respond via x.frame.hdr.result (responseWord1 x.frame :: x.frame.payload) (closeTrack ix s)
        | _ => countLate s
      | none => countLate s)

/-- A tracker entry ends as if timed out. -/
def trackEnds (ix : Nat) (e : TrackEntry) (s : State) : State :=
  let s := closeTrack ix s
  match e.purpose with
  | .remote via => respond via rTimeout [] s
  | .stream d _ _ => streamFailed d s
  | .narrow q => answerOpen q e.target rTimeout s

/-- TRACKER_TIMEOUT: a response that came by the deadline is taken instead. -/
def execTrackerTimeout (index : BitVec 14) (s : State) : Host.Outcome State Fault Refusal :=
  .next (match tget index.toNat s.iz.tracker with
    | none => s
    | some e => if decide (e.deadline ≤ hubGt s) && !responseWaits s index.toNat e then trackEnds index.toNat e s else s)

/-! ## Requests at their target (R464, R465, R509) -/

/-- The record of a request, if it is a duplicate: one that still runs, or one answered within 4,000,000 GT. -/
def respRecord (s : State) (f : Frame) : Option RespRec :=
  s.iz.responses.find? fun r => r.src == f.hdr.src && r.tag == f.hdr.tag &&
    (r.frame.isNone || decide (hubGt s < r.at_ + 4000000))

/-- Take a tagged request that is no duplicate; a duplicate receives its stored response again. -/
def takeTagged (p : Frame → Bool) (act : InFrame → State → State) (s : State) : State :=
  match takeLocal p s with
  | none => s
  | some (x, s) =>
    match respRecord s x.frame with
    | some r => match r.frame with
      | some f => sendFrame f s
      | none => s
    | none =>
      let now := hubGt s
      let r : RespRec := { src := x.frame.hdr.src, tag := x.frame.hdr.tag, frame := none, at_ := now }
      act x { s with iz := { s.iz with responses := pushRing 1024 r s.iz.responses } }

/-- The principal of a request of another hub: Operator or Platform only, and in RETURN the Platform only. -/
def remoteWho (s : State) (f : Frame) : Option Principal :=
  if f.hdr.principal = 1 ∧ s.fuses.lifecycle ≠ .returned then some .operator
  else if f.hdr.principal = 2 then some .platform else none

def genRefused (s : State) (f : Frame) : Bool := f.hdr.genchk && decide (f.hdr.tgen ≠ s.gens.chip)

/-- What R14 puts before GENERATION for an inner command. -/
def innerGenCode (s : State) (via : Via) (cmd : BitVec 16) (who : Option Principal) : BitVec 8 :=
  if !knownCommand via cmd then rVersion else if basic s && !servedCommand cmd then rDegraded
  else if who.isNone then rDenied else rGeneration

/-- REMOTE_REQ_RECEIVE: a request that is no window write. -/
def execRemoteReqReceive (s : State) : Host.Outcome State Fault Refusal :=
  .next (takeTagged (fun f => decide (f.hdr.type = 0x30) && decide (bits (f.payload.getD 0 0) 1 0 ≠ 1)) (fun x s =>
    let f := x.frame
    let w0 := wordOf x 0
    let cmd := fieldB 16 w0 16
    let via := Via.remote f.hdr.src f.hdr.tag
    let who := remoteWho s f
    if 2 ≤ bits w0 1 0 then sendResponse f.hdr.src f.hdr.tag 0x31 1 rBadArg [] s
    else if genRefused s f then sendResponse f.hdr.src f.hdr.tag 0x31 1 (innerGenCode s via cmd who) [] s
    else takeRequest via cmd 0 (bit w0 2) who s.protect.debug (f.payload.drop 1) none s) s)

/-- REMOTE_EVENT_RECEIVE: the event takes this hub's next NUMBER. -/
def execRemoteEventReceive (s : State) : Host.Outcome State Fault Refusal :=
  .next (match takeLocal (fun f => decide (f.hdr.type = 0x32)) s with
    | none => s
    | some (x, s) =>
      let w0 := wordOf x 0
      let w2 := wordOf x 2
      let e : Event := {
        code := fieldB 16 w0 48, result := fieldB 8 w0 40, seq := fieldB 16 w0 16, mailbox := fieldB 4 w0 12
        remote := true, basic := bit w0 10, line := fieldB 2 w0 8, stamp := (wordOf x 1).toNat
        origin := fieldB 16 w2 48, number := s.events.number
        payload := (x.frame.payload.drop 3).take (min 13 (bits w0 39 32)) }
      queueEvent e { s with events := { s.events with number := s.events.number + 1 } })

/-- RESPONSE_RECORD_EXPIRY. -/
def execResponseRecordExpiry (s : State) : Host.Outcome State Fault Refusal :=
  let now := hubGt s
  .next { s with iz := { s.iz with
    responses := s.iz.responses.filter fun r => r.frame.isNone || decide (now < r.at_ + 4000000) } }

/-! ## Remote windows (R466 to R469) -/

def windowOf (s : State) (w : BitVec 6) : Window := s.iz.windows.getD w.toNat {}
def modWindow (w : BitVec 6) (f : Window → Window) (s : State) : State :=
  { s with iz := { s.iz with windows := s.iz.windows.modify w.toNat f } }

def execWindowOpen (via : Via) (win : BitVec 6) (base size : Word) (aaddr amask : UnitAddr) (s : State) :
    Host.Outcome State Fault Refusal :=
  .next (command via 0x0061 (.windowOpen via win base size aaddr amask) false
    (fun s =>
      let w := windowOf s win
      [(levelThree s via, rVersion), (denied s via .opPlat .sealedLevel, rDenied),
       (decide (base.toNat % 4096 ≠ 0 ∨ size.toNat % 4096 ≠ 0 ∨ size = 0 ∨ 2 ^ 40 < size.toNat) ||
         setBadArg s aaddr amask 4 true, rBadArg),
       (decide (amask >>> 16 ≠ 0) && !inTorus s ((aaddr >>> 16).setWidth 16), rBadUnit),
       (w.isOpen || w.closing.isSome || decide (0 < w.admitted), rBusy)])
    (fun s =>
      let g := (windowOf s win).wgen + 1
      respond via rOk [g.setWidth 64] (modWindow win (fun w => { w with
        wgen := g, isOpen := true, everOpened := true, base := base, size := size, aaddr := aaddr, amask := amask
        completed := 0, rejected := 0 }) s)) s)

/-- A received write that a window has yet to judge crossed the receive interface before the close. -/
def windowAwaits (s : State) (win : BitVec 6) : Bool :=
  s.iz.local_.any fun x => decide (x.frame.hdr.type = 0x30) && decide (bits (x.frame.payload.getD 0 0) 1 0 = 1) &&
    decide (fieldB 6 (x.frame.payload.getD 1 0) 0 = win) && decide (x.arrive < (windowOf s win).closedAt)

/-- WINDOW_CLOSE returns once every admitted write has completed. -/
def windowClosed (win : BitVec 6) (s : State) : State :=
  let w := windowOf s win
  match w.closing with
  | none => s
  | some via =>
    if w.admitted = 0 ∧ windowAwaits s win = false then
      respond via rOk [wn w.completed, wn w.rejected] (modWindow win (fun w => { w with closing := none }) s)
    else s

def execWindowClose (via : Via) (win : BitVec 6) (s : State) : Host.Outcome State Fault Refusal :=
  .next (command via 0x0062 (.windowClose via win) false
    (fun s => [(levelThree s via, rVersion), (denied s via .opPlat .sealedLevel, rDenied),
      (!(windowOf s win).isOpen, rBadArg)])
    (fun s =>
      let now := hubGt s
      windowClosed win (modWindow win (fun w => { w with isOpen := false, closedAt := now, closing := some via }) s)) s)

def answerWrite (f : Frame) (code : BitVec 8) (s : State) : State := sendResponse f.hdr.src f.hdr.tag 0x31 2 code [] s

/-- The data of an admitted write goes to host memory. -/
def admitWrite (x : InFrame) (win : BitVec 6) (n : Nat) (s : State) : State :=
  let f := x.frame
  let addr := (windowOf s win).base.toNat + (wordOf x 2).toNat
  let bs := (bytesOf (f.payload.drop 3)).take n
  (splitTransfer addr n).foldl (fun s q =>
      hmAsk { purpose := .window f.hdr.src f.hdr.tag win, cls := .capture, wr := true, addr := wn q.1, bytes := q.2,
              data := wordsOf ((bs.drop (q.1 - addr)).take q.2) } s)
    (modWindow win (fun w => { w with admitted := w.admitted + 1 }) s)

/-- REMOTE_WRITE_RECEIVE: the write is judged in the order of R468. -/
def execRemoteWriteReceive (s : State) : Host.Outcome State Fault Refusal :=
  .next (takeTagged (fun f => decide (f.hdr.type = 0x30) && decide (bits (f.payload.getD 0 0) 1 0 = 1)) (fun x s =>
    let f := x.frame
    let w1 := wordOf x 1
    let win := fieldB 6 w1 0
    let n := bits w1 63 32
    let w := windowOf s win
    if basic s then answerWrite f rDegraded s
    else if (remoteWho s f).isNone then answerWrite f rDenied s
    else if genRefused s f then answerWrite f rGeneration s
    else
      let shut := !w.everOpened || (!w.isOpen && decide (w.closedAt ≤ x.arrive)) || decide (w.wgen ≠ fieldB 8 w1 8)
      windowClosed win (
        if shut then answerWrite f rWindowClosed (modWindow win (fun w => { w with rejected := w.rejected + 1 }) s)
        else if !inSet (f.hdr.src ++ (0 : BitVec 16)) w.aaddr (w.amask &&& 0xFFFF0000) then answerWrite f rDenied s
        else if n = 0 ∨ 3528 < n ∨ w.size.toNat < (wordOf x 2).toNat + n then answerWrite f rBadArg s
        else admitWrite x win n s)) s)

/-- Requests of host memory still serve this one's purpose. -/
def hmServes (p : Purpose) (s : State) : Bool := (s.hm.out ++ s.hm.waiting).any fun r => r.purpose == p

/-- The first fault that the parts of a request met. -/
def partCode (src : BitVec 16) (tag : BitVec 24) (s : State) : BitVec 8 :=
  ((s.iz.badParts.find? fun b => b.1 == src && b.2.1 == tag).map (·.2.2)).getD rOk

def notePart (src : BitVec 16) (tag : BitVec 24) (code : BitVec 8) (s : State) : State :=
  if code = rOk then s else { s with iz := { s.iz with badParts := s.iz.badParts ++ [(src, tag, code)] } }

def dropParts (src : BitVec 16) (tag : BitVec 24) (s : State) : State :=
  { s with iz := { s.iz with badParts := s.iz.badParts.filter fun b => !(b.1 == src && b.2.1 == tag) } }

/-- Host memory has answered one part of an admitted write. -/
def windowAnswered (src : BitVec 16) (tag : BitVec 24) (win : BitVec 6) (code : BitVec 8) (s : State) : State :=
  let s := notePart src tag code s
  if hmServes (.window src tag win) s then s else
  let c := partCode src tag s
  let s := modWindow win (fun w => { w with
    admitted := w.admitted - 1, completed := if w.isOpen then w.completed else w.completed + 1 }) (dropParts src tag s)
  windowClosed win (sendResponse src tag 0x31 2 c [] s)

/-! ## Streamed dumps at the origin of a churn (R471, R472) -/

/-- The image words a run of tokens stands for; `n` bounds the tokens. -/
def expand : Nat → List Word → List Word
  | 0, _ => []
  | _, [] => []
  | n + 1, w :: ws =>
    let k := bits w 15 0
    if bit w 16 then List.replicate k 0 ++ expand n ws else ws.take k ++ expand n (ws.drop k)

def streamIn (s : State) (chip : BitVec 16) (churn : BitVec 32) : Option StreamIn :=
  s.dumps.streams.find? fun k => k.chip == chip && k.churn == churn

def modStream (chip : BitVec 16) (churn : BitVec 32) (f : StreamIn → StreamIn) (s : State) : State :=
  { s with dumps := { s.dumps with streams := modFirst (fun k => k.chip == chip && k.churn == churn) f s.dumps.streams } }

def answerStream (f : Frame) (code : BitVec 8) (s : State) : State := sendResponse f.hdr.src f.hdr.tag 0x41 3 code [] s

/-- A stream whose last frame and whose writes are all done is published with its region. -/
def streamOver (chip : BitVec 16) (churn : BitVec 32) (s : State) : State :=
  match streamIn s chip churn with
  | none => s
  | some k =>
    let busy := (s.hm.out ++ s.hm.waiting).any fun r => match r.purpose with
      | .stream c _ n => c == chip && n == churn
      | _ => false
    if k.last && !busy then
      publishRegion k.region { s with dumps := { s.dumps with
        streams := s.dumps.streams.filter fun t => !(t.chip == chip && t.churn == churn) } }
    else s

/-- Reserve the space of a FIRST frame; none where its churn is not open or the space is not free. -/
def reserveStream (x : InFrame) (read : Word) (s : State) : Option State :=
  let w0 := wordOf x 0
  let churn := fieldB 32 w0 32
  match s.dumps.churns.find? fun k => k.id == churn with
  | none => none
  | some k => match placeImage (regionOf s k.region) read (wordOf x 2).toNat with
    | none => none
    | some (off, stop) =>
      let now := hubGt s
      let s := readMetered s
      some (modRegion k.region (fun g => { g with reserved := stop }) { s with dumps := { s.dumps with
        streams := s.dumps.streams ++ [{ chip := x.frame.hdr.src, churn := churn, dump := fieldB 16 w0 16, region := k.region
                                         offset := off, size := (wordOf x 2).toNat, started := now }] } })

/-- Write the bytes of one frame. -/
def writeStream (x : InFrame) (k : StreamIn) (s : State) : State :=
  let ws := expand x.frame.payload.length (x.frame.payload.drop 3)
  let off := (wordOf x 1).toNat
  let n := 8 * ws.length
  let s := if bit (wordOf x 0) 14 then modStream k.chip k.churn (fun k => { k with last := true }) s else s
  if k.size < off + n then answerStream x.frame rBadArg s
  else if n = 0 then streamOver k.chip k.churn (answerStream x.frame rOk s)
  else
    let addr := (regionOf s k.region).base.toNat + k.offset + off
    let bs := bytesOf ws
    (splitTransfer addr n).foldl (fun s q =>
      hmAsk (regionReq k.region (.stream x.frame.hdr.src x.frame.hdr.tag k.churn) (wn q.1) q.2
        (wordsOf ((bs.drop (q.1 - addr)).take q.2))) s) s

/-- DUMP_STREAM_RECEIVE: `read` is READ of the churn's region as the host has it. -/
def execDumpStreamReceive (read : Word) (s : State) : Host.Outcome State Fault Refusal :=
  .next (takeTagged (fun f => decide (f.hdr.type = 0x40)) (fun x s =>
    let churn := fieldB 32 (wordOf x 0) 32
    if basic s then answerStream x.frame rDegraded s
    else
      let r := if bit (wordOf x 0) 15 then reserveStream x read s else some s
      match r.bind fun s => (streamIn s x.frame.hdr.src churn).map fun k => (s, k) with
      | none => answerStream x.frame rNoResource s
      | some (s, k) => writeStream x k s) s)

/-- Host memory has answered one part of a streamed frame. -/
def streamAnswered (src : BitVec 16) (tag : BitVec 24) (churn : BitVec 32) (code : BitVec 8) (s : State) : State :=
  let s := notePart src tag code s
  if hmServes (.stream src tag churn) s then s else
  let c := partCode src tag s
  streamOver src churn (sendResponse src tag 0x41 3 c [] (dropParts src tag s))

/-- STREAM_RSP_RECEIVE, at the chip that streams. -/
def execStreamRspReceive (s : State) : Host.Outcome State Fault Refusal :=
  .next (match takeLocal (fun f => decide (f.hdr.type = 0x41)) s with
    | none => s
    | some (x, s) =>
      match trackHit s x.frame.hdr.tag with
      | some (ix, e) => match e.purpose with
        | .stream d i h =>
          let s := closeTrack ix s
          if x.frame.hdr.result = rOk then sectAnswered d i h s else streamFailed d s
        | _ => countLate s
      | none => countLate s)

/-! ## Relayed narrow-port requests (R551, R552) -/

/-- A session of this principal could be opened here (R535). -/
def narrowRole (s : State) (who : Principal) : Bool :=
  let returned := decide (s.fuses.lifecycle = .returned)
  match who with
  | .operator => !returned | .platform => true | .vendor => returned | .tenant _ => false

/-- A relayed request at its target: `level` is the lesser of the carried level and the one allowed here. -/
def narrowRequest (x : InFrame) (s : State) : State :=
  let f := x.frame
  let w1 := wordOf x 1
  let seq := fieldB 16 w1 0
  let cmd := fieldB 16 (wordOf x 2) 48
  let n := bits w1 31 16
  let who := (principalOf f.hdr.principal 0).filter (narrowRole s)
  let level := minLevel (levelOfNat (bits (wordOf x 0) 1 0)) (sessionCap s who)
  if who.isNone ∨ level = .sealedLevel then
    sendResponse f.hdr.src f.hdr.tag 0x50 1 rDenied (dwepFrame s 2 false seq (responseWord s rDenied false 0 cmd) []) s
  else takeRequest (.narrowRemote f.hdr.src f.hdr.tag) cmd seq false who level ((f.payload.drop 3).take (n / 8)) none s

/-- A response frame of another chip waits for the port like one of this chip. -/
def queueRelayed (q : BitVec 16) (ws : List Word) (s : State) : State :=
  match openReq q s with
  | none => s
  | some o =>
    if o.dead then { s with narrow := { s.narrow with open_ := eraseFirst (fun r => r == o) s.narrow.open_ } }
    else { s with narrow := { s.narrow with
      open_ := modFirst (fun r => r == o) (fun r => { r with answered := true }) s.narrow.open_
      outQ := s.narrow.outQ ++ [{ words := ws, event := false, closes := some q }] } }

/-- A NARROW frame with RESP at the origin: an event, or the response of a relayed request. -/
def narrowReturn (x : InFrame) (s : State) : State :=
  let f := x.frame
  if f.hdr.transit = false ∧ bits (wordOf x 0) 59 56 = 3 then queueNarrow f.payload s
  else match trackHit s f.hdr.tag with
    | some (ix, e) => match e.purpose with
      | .narrow q =>
        let s := closeTrack ix s
        if f.hdr.transit then
          answerOpen q e.target f.hdr.result s
        else queueRelayed q f.payload s
      | _ => countLate s
    | none => countLate s

/-- NARROW_FRAME_RECEIVE. -/
def execNarrowFrameReceive (s : State) : Host.Outcome State Fault Refusal :=
  .next (match s.iz.local_.find? fun x => decide (x.frame.hdr.type = 0x50) with
    | none => s
    | some x =>
      if x.frame.hdr.resp then
        match takeLocal (fun f => decide (f.hdr.type = 0x50)) s with
        | none => s
        | some (x, s) => narrowReturn x s
      else takeTagged (fun f => decide (f.hdr.type = 0x50)) narrowRequest s)

end Sys2Proof.Machine
end

