-- ==== Sys2Proof/Machine/Firmware.lean ====
section
/-!
DEFINITION. The firmware image and its load, the watchdog, entry into basic service and the return of firmware (chapter 16,
R475 to R480, R505, R506, R614).
-/
namespace Sys2Proof.Machine

/-! ## Entry into basic service (R506, R614) -/

/-- A command that basic service leaves running: FUSE_WRITE of the narrow port (R553). -/
def survivesBasic (t : Taken) : Bool := decide (t.cmd = 0x0F01) && isNarrow t.via

def viaMailbox : Via → Option Nat
  | .mailbox m => some m.toNat
  | _ => none

/-- Mailboxes first, in ascending number; then the other paths in the order of taking. -/
def takenOrder (s : State) : List Via :=
  ((List.range 16).flatMap fun m => (s.mb.taken.filter fun t => decide (viaMailbox t.via = some m)).map (·.via)) ++
    (s.mb.taken.filter fun t => (viaMailbox t.via).isNone && !survivesBasic t).map (·.via)

/-- What the firmware was still to do for the commands that now end: fences waited for, channel map loads, feeds,
window closings, a trace session's end and state accesses. An access or a fused write in progress ends for nobody. -/
def dropWaits (s : State) : State :=
  let s := if s.hang.load.isSome then bumpMapver { s with hang := { s.hang with load := none } } else s
  { s with
    rec_ := { s.rec_ with fences := [] }
    check := { s.check with feeds := [] }
    trace := { s.trace with ending := none }
    iz := { s.iz with windows := s.iz.windows.map fun w => { w with closing := none } }
    fuseWrites := s.fuseWrites.map fun f => if isNarrow f.via then f else { f with via := deadPath }
    cores := tmap (fun _ co => { co with jobs := co.jobs.map fun j =>
      match j.serves with
      | .command _ => { j with serves := .command deadPath }
      | _ => j }) s.cores }

/-- Every leaf is put into storm mode (R356). -/
def stormLeaf (x : LeafErr) : LeafErr :=
  if x.storm then x else { x with
    storm := true, start := none, cores := 0, counts := List.replicate 4 0
    window := (x.window.zip x.counts).map fun p => p.1 + p.2 }

def stormLeaves (s : State) : State :=
  { s with
    errors := { s.errors with storm := true, quiet := 0 }
    leaves := tmap (fun _ l => { l with err := stormLeaf l.err }) s.leaves }

/-- Completions still due raise no event any more, CUT_COMPLETE apart (R506). -/
def silenceCut (x : Cut) : Cut :=
  { x with
    step := x.step.map fun r => { r with owner := { r.owner with silent := true } }
    resumes := x.resumes.map fun q => (q.1, q.2.1, q.2.2.1, none)
    byStep := none }

/-- The engines of the hub that firmware ran stop: the trace session ends with its HOST records left staged (R176), FULL
pail sets stop (R149), dumps end early (R310), the walker's candidates, its pending actions and the channel map load are
dropped (R384), tracker entries are abandoned (R474), the open proposal is discarded (R524), a calibration ends. -/
def stopEngines (s : State) : State :=
  let s := abortCal s
  let s := traceFinish (endSession_ none s)
  let s := disableSets (fun p _ _ => decide (p.kind = 1)) s
  let s := (s.dumps.list.filter dumpLive).foldl (fun s d => pumpDump d.id (endEarly d.id 9 s)) s
  { s with
    protect := { s.protect with proposal := none }
    iz := { s.iz with tracker := [] }
    dumps := { s.dumps with churns := [], streams := [] }
    hang := { s.hang with cands := [], standing := s.hang.standing.map fun k => { k with abort := none } }
    cuts := { s.cuts with active := s.cuts.active.map silenceCut } }

/-- The hub enters basic service: `FW_STATUS.STATE` has changed from RUNNING to `st`. -/
def basicEntry (st : FwState) (s : State) : State :=
  let vias := takenOrder s
  let s := dropWaits { s with fw := { s.fw with state := st, started := false } }
  let s := vias.foldl (fun s v => respond v rDegraded [] s) s
  let s := stormLeaves (stopEngines s)
  let s := hubError 7 1 0 0 0 s
  raiseEvent 0x0301 3 [wn (fwCode st)] {} 0 s

/-! ## The image (R475, R476, Table 16.1) -/

def fwMagic : Word := 0x31305746474C4F54#64

def iramLen (h : List Word) : Nat := bits (h.getD 2 0) 63 32
def dramLen (h : List Word) : Nat := bits (h.getD 2 0) 31 0
def imageSvn (h : List Word) : BitVec 16 := fieldB 16 (h.getD 1 0) 16

/-- Step 1. -/
def headerOk (h : List Word) : Bool :=
  decide (h.getD 0 0 = fwMagic) && decide (bits (h.getD 1 0) 15 8 = 4) && decide (bits (h.getD 1 0) 7 0 ≤ 1) &&
    decide (8 ≤ iramLen h ∧ iramLen h ≤ 524288 ∧ iramLen h % 8 = 0) && decide (dramLen h ≤ 262144 ∧ dramLen h % 8 = 0)

/-- Steps 4 to 6 over the copy held in the hub: the state of the first step that fails. -/
def verifyImage (f : Fuses) (h : List Word) (body : List Word) : Option FwState :=
  let key := bytesOf ((h.drop 8).take 12)
  let sig := bytesOf ((h.drop 20).take 12)
  if f.fwKey ≠ some (Config.sha384 key) then some .rejectedKey
  else if imageSvn h < svnFloor f then some .rejectedVersion
  else if Config.ecdsaVerify key sig (Config.sha384 (bytesOf (h.take 20) ++ bytesOf body)) then none
  else some .rejectedSig

def modFw (g : Firmware → Firmware) (s : State) : State := { s with fw := g s.fw }

/-- Ask for a part of the image, in the physical mode. -/
def askImage (load piece addr bytes : Nat) (s : State) : State :=
  hmAsk { purpose := .fwImage load piece, cls := .capture, wr := false, phys := true, addr := wn addr, bytes := bytes } s

/-- GO: the load begins with the header. -/
def startLoad (s : State) : State :=
  let s := modFw (fun f => { f with
    state := .loading, latched := f.base, load := f.load + 1, header := [], pieces := [], awaited := 1, started := false }) s
  askImage s.fw.load 0 (s.fw.latched.toNat * 4096) 256 s

/-- The load ends with a state other than RUNNING; reads still due are no longer its own. -/
def endLoadFw (st : FwState) (s : State) : State :=
  modFw (fun f => { f with state := st, load := f.load + 1, header := [], pieces := [], awaited := 0, started := false })
    (hmCancel (fun p => match p with | .fwImage _ _ => true | _ => false) s)

/-- The header has arrived: step 1, then the reads of the body. -/
def headerArrived (h : List Word) (s : State) : State :=
  if headerOk h then
    let addr := s.fw.latched.toNat * 4096 + 256
    let parts := splitTransfer addr (iramLen h + dramLen h)
    let s := modFw (fun f => { f with header := h, awaited := parts.length }) s
    parts.zipIdx.foldl (fun s q => askImage s.fw.load (q.2 + 1) q.1.1 q.1.2 s) s
  else endLoadFw .rejectedFormat s

/-- The body is whole: the copy into the RAMs, verification, and the start at ENTRY (steps 3 to 7). -/
def bodyArrived (s : State) : State :=
  let h := s.fw.header
  let body := s.fw.pieces.flatMap Prod.snd
  let s := modFw (fun f => { f with iram := body.take (iramLen h / 8), dram := body.drop (iramLen h / 8), pieces := [] }) s
  match verifyImage s.fuses h body with
  | some st => endLoadFw st s
  | none =>
    let now := hubGt s
    modFw (fun f => { f with started := true, startGt := now, lastSignal := now }) s

/-- A read of the image has been answered. -/
def imageArrived (load piece : Nat) (bs : List Byte) (s : State) : State :=
  if s.fw.load ≠ load ∨ s.fw.state ≠ .loading ∨ s.fw.awaited = 0 then s
  else if piece = 0 then headerArrived (wordsOf bs) (modFw (fun f => { f with awaited := 0 }) s)
  else
    let s := modFw (fun f => { f with awaited := f.awaited - 1, pieces := tset piece (wordsOf bs) f.pieces }) s
    if s.fw.awaited = 0 then bodyArrived s else s

/-- A read of the image met an error (Table 20.5). -/
def imageFaulted (load : Nat) (s : State) : State :=
  if s.fw.load ≠ load ∨ s.fw.state ≠ .loading then s else endLoadFw .rejectedFormat s

/-- A write of `FW_CTRL`: GO is ignored while LOADING; while RUNNING the firmware stops first (R478). -/
def writeGo (wdata : Word) (s : State) : State :=
  if bit wdata 0 = false ∨ s.fw.state = .loading then s
  else if s.fw.state = .running then startLoad (basicEntry .loading s)
  else startLoad s

def execFwGo (wdata : Word) (wstrb : BitVec 8) (s : State) : Host.Outcome State Fault Refusal :=
  .next (hrWrite wstrb (writeGo wdata) s)

/-! ## Ready, watchdog (R479, R480) -/

/-- The state area is cleared: cut records, hang reports, dump and test status, records of commands answered PENDING and
the counter extension (R479). Sequence numbers go on (R613). -/
def clearStateArea (s : State) : State :=
  { s with
    cuts := { s.cuts with active := [], ended := [] }
    hang := { s.hang with reports := [] }
    dumps := { s.dumps with list := s.dumps.list.filter dumpLive }
    test := { s.test with runs := [], held := [] }
    cores := tmap (fun _ co => { co with
      claim := none
      extHigh := List.replicate 5 0
      extMsb := List.replicate 5 false
      engs := co.engs.map fun en => { en with extHigh := List.replicate 20 0, extMsb := List.replicate 20 false } }) s.cores }

/-- FIRMWARE_READY (R476 step 7, R479, R506). -/
def execFirmwareReady (s : State) : Host.Outcome State Fault Refusal :=
  .next (if s.fw.state = .loading ∧ s.fw.started = true ∧ serving s = true then
    let h := s.fw.header
    let ver := fieldB 16 (h.getD 3 0) 32
    let lost := decide (s.fw.stateVer ≠ some ver)
    let s := modFw (fun f => { f with
      state := .running, major := fieldB 16 (h.getD 1 0) 48, minor := fieldB 16 (h.getD 1 0) 32, stateVer := some ver }) s
    let s := raiseEvent 0x0300 3 [wn s.fw.major.toNat, wn s.fw.minor.toNat, wn (b2n lost)] {} 0 s
    if lost then clearStateArea s else reportHeld (concludeCuts s)
  else s)

/-- The hub stops the firmware (R480): from RUNNING this is an entry into basic service. -/
def failFirmware (s : State) : State :=
  if s.fw.state = .running then basicEntry .failed s
  else if s.fw.state = .loading ∧ s.fw.started = true then endLoadFw .failed s
  else s

/-- FIRMWARE_WATCHDOG: 2 ms without a signal. -/
def execFirmwareWatchdog (s : State) : Host.Outcome State Fault Refusal :=
  .next (if s.fw.started = true ∧ s.fw.lastSignal + 8000000 ≤ hubGt s then failFirmware s else s)

/-- FIRMWARE_WATCHDOG_SIGNAL. -/
def execFirmwareWatchdogSignal (s : State) : Host.Outcome State Fault Refusal :=
  .next (if s.fw.started then
    let now := hubGt s
    modFw (fun f => { f with lastSignal := now }) s
  else s)

/-- FIRMWARE_START_TIMEOUT: not ready 100 ms after its start. -/
def execFirmwareStartTimeout (s : State) : Host.Outcome State Fault Refusal :=
  .next (if s.fw.state = .loading ∧ s.fw.started = true ∧ s.fw.startGt + 400000000 ≤ hubGt s then failFirmware s else s)

end Sys2Proof.Machine
end

