-- ==== Sys2Proof/Machine/HostMemory.lean ====
section
/-!
DEFINITION. Answers of host memory (R589 to R592, Table 20.5) and uncorrectable words of hub SRAM (R504, Table 16.13).
-/
namespace Sys2Proof.Machine

/-! ## What an answer means -/

/-- 0 OK, 1 translation fault, 2 error: a fault on a physical request and code 3 are errors (R590). -/
def hmCode (r : HmReq) (code : BitVec 2) : Nat :=
  if code = 0 then 0 else if code = 1 ∧ r.phys = false then 1 else 2

/-- TRAFFIC of Table 20.5; none for the firmware image. -/
def trafficOf : Purpose → Option Nat
  | .eventControl => some 0
  | .eventEntry _ => some 0
  | .eventPointer _ => some 0
  | .eventRead => some 0
  | .pailData _ => some 1
  | .pailPointer _ => some 1
  | .pailControl _ => some 1
  | .pailRead _ => some 1
  | .dumpData _ _ _ => some 2
  | .dumpHeader _ _ => some 2
  | .dumpPointer _ => some 2
  | .chanmap _ _ => some 2
  | .window _ _ _ => some 2
  | .stream _ _ _ => some 2
  | .traceData => some 3
  | .tracePointer => some 3
  | .traceControl => some 3
  | .traceRead => some 3
  | .checkFeed _ _ => some 4
  | .fwImage _ _ => none
  | .nobody => none

/-- The HOSTMEM record of an error (R592, Table 11.4). -/
def hostMemError (r : HmReq) (s : State) : State :=
  match trafficOf r.purpose with
  | none => s
  | some k => hubError 5 1 0 (bits r.addr 31 0) (pk [(32, 32, bits r.addr 63 32), (0, 4, k)]) s

/-- A fault or an error is handled as the request's traffic gives. -/
def requestFaulted (r : HmReq) (code : BitVec 8) (s : State) : State :=
  match r.purpose with
  | .fwImage l _ => imageFaulted l s
  | .eventControl => ringFaulted s
  | .eventEntry _ => ringFaulted s
  | .eventPointer _ => ringFaulted s
  | .eventRead => ringFaulted s
  | .pailData i => pailFaulted i r.addr s
  | .pailPointer i => pailFaulted i r.addr s
  | .pailControl i => pailFaulted i r.addr s
  | .pailRead i => pailFaulted i r.addr s
  | .dumpData _ _ _ => dumpFaulted r code s
  | .dumpHeader _ _ => dumpFaulted r code s
  | .dumpPointer _ => s
  | .traceData => traceFaulted r.purpose r.addr s
  | .tracePointer => traceFaulted r.purpose r.addr s
  | .traceControl => traceFaulted r.purpose r.addr s
  | .traceRead => traceFaulted r.purpose r.addr s
  | .checkFeed v k => feedFaulted v k code r.addr s
  | .chanmap _ _ => endLoad code (if code = rFaultXlate then [r.addr] else []) s
  | .window src tag win => windowAnswered src tag win code s
  | .stream src tag churn => streamAnswered src tag churn code s
  | .nobody => s

/-- A request is answered OK, a read with its bytes. -/
def requestDone (r : HmReq) (s : State) : State :=
  let bs := ((bytesOf r.got).drop (r.addr.toNat % 64)).take r.bytes
  match r.purpose with
  | .fwImage l k => imageArrived l k bs s
  | .eventControl => ringWritten r.purpose s
  | .eventEntry _ => ringWritten r.purpose s
  | .eventPointer _ => ringWritten r.purpose s
  | .eventRead => s
  | .pailData i => pailWritten i s
  | .pailPointer _ => s
  | .pailControl _ => s
  | .pailRead _ => s
  | .dumpData _ _ _ => dumpWritten r s
  | .dumpHeader _ _ => dumpWritten r s
  | .dumpPointer _ => s
  | .traceData => traceWritten r.purpose s
  | .tracePointer => traceWritten r.purpose s
  | .traceControl => s
  | .traceRead => s
  | .checkFeed v k => feedArrived v k bs s
  | .chanmap _ _ => loadArrived bs s
  | .window src tag win => windowAnswered src tag win rOk s
  | .stream src tag churn => streamAnswered src tag churn rOk s
  | .nobody => s

/-- The request leaves the port, its answer acts, and waiting requests are issued. -/
def hmAnswered (r : HmReq) (code : Nat) (s : State) : State :=
  let s := { s with hm := { s.hm with out := eraseFirst (fun q => q.tag == r.tag) s.hm.out } }
  let s := if code = 0 then requestDone r s
    else if code = 1 then requestFaulted r rFaultXlate s
    else requestFaulted r rMemError (hostMemError r s)
  pumpHm (s.hm.waiting.length + 1) s

def hmFind (s : State) (tag : BitVec 16) (wr : Bool) : Option HmReq :=
  s.hm.out.find? fun r => r.tag == tag && r.wr == wr

/-- A response whose request was taken as an error is dropped and counted until its tag is reissued (R590). -/
def lateAnswer (tag : BitVec 16) (s : State) : State :=
  if tag ∈ s.hm.lateTags then { s with ao := { s.ao with hmLate := s.ao.hmLate + 1 } } else s

/-- HOST_MEMORY_WRITE_RESPONSE: `tag` is the channel [9:8] and the request's tag [7:0]. -/
def execHostMemoryWriteResponse (tag : BitVec 16) (code : BitVec 2) (s : State) : Host.Outcome State Fault Refusal :=
  .next (if serving s then
    match hmFind s tag true with
    | some r => hmAnswered r (hmCode r code) s
    | none => lateAnswer tag s
  else s)

/-- HOST_MEMORY_READ_BEAT: the beats of a read are kept until its last. -/
def execHostMemoryReadBeat (tag : BitVec 16) (beat : List Word) (last : Bool) (code : BitVec 2) (s : State) :
    Host.Outcome State Fault Refusal :=
  .next (if serving s then
    match hmFind s tag false with
    | some r =>
      let r1 := { r with got := r.got ++ padWords 8 beat }
      if last then hmAnswered r1 (hmCode r code) s
      else { s with hm := { s.hm with out := modFirst (fun q => q.tag == tag) (fun _ => r1) s.hm.out } }
    | none => if last then lateAnswer tag s else s
  else s)

/-- HOST_MEMORY_TIMEOUT: no complete answer 1 ms after the request was issued. -/
def execHostMemoryTimeout (tag : BitVec 16) (s : State) : Host.Outcome State Fault Refusal :=
  .next (match s.hm.out.find? fun r => r.tag == tag with
    | some r =>
      if r.issued + 4000000 ≤ hubGt s ∧ serving s = true then
        hmAnswered r 2 { s with hm := { s.hm with lateTags := tag :: s.hm.lateTags } }
      else s
    | none => s)

/-! ## Uncorrectable words of hub SRAM (R504, Table 16.13) -/

/-- The context table's entries are 4 words (Table 04.5). -/
def contextLost (addr : Nat) (s : State) : State := retireCtxs [addr / 4] s

def mapEntryLost (addr : Nat) (s : State) : State :=
  { s with hang := { s.hang with mapBad := if addr ∈ s.hang.mapBad then s.hang.mapBad else addr :: s.hang.mapBad } }

def trackerLost (ix : Nat) (s : State) : State :=
  match tget ix s.iz.tracker with
  | none => s
  | some e => trackEnds ix e s

/-- A record that waits in the trace buffer is dropped as at the sink (R169). -/
def traceRecordLost (k : Nat) (s : State) : State :=
  match s.trace.hubQ[k]? with
  | none => s
  | some (cl, r) =>
    let h := hubStream s cl
    let w0 := r.headD 0
    let ty := recType w0
    let running := if ty = 1 then (r.getD 1 0).toNat else if inChain ty then h.running + bits w0 23 8 else h.running
    let lost : Lost := match h.lost with
      | none => { first := running, last := running, count := 1, kinds := lostKind ty }
      | some x => { x with last := running, count := x.count + 1, kinds := x.kinds ||| lostKind ty }
    setStream cl { h with running := running, lost := some lost } { s with trace := { s.trace with
      hubQ := s.trace.hubQ.eraseIdx k, dropped := satInc s.trace.dropped } }

/-- A section whose chunk is staged is read again from its start. -/
def chunkLost (d : Dump) (q : Section × Nat) (s : State) : State :=
  pumpDump d.id (modSect d.id q.2 restartSect (dropSection d.id q.2 q.1 s))

/-- Sections with a chunk in staging. -/
def stagedChunks (s : State) : List (Dump × Section × Nat) :=
  (s.dumps.list.filter dumpLive).flatMap fun d => (d.sections.zipIdx.filter fun q => sectBusy q.1).map fun q => (d, q)

/-- The item numbers of the trace buffer and the dump staging: waiting trace records, then staged chunks. -/
def traceOrChunkLost (k : Nat) (s : State) : State :=
  if k < s.trace.hubQ.length then traceRecordLost k s
  else match (stagedChunks s)[k - s.trace.hubQ.length]? with
    | none => s
    | some (d, q) => chunkLost d q s

/-- The item numbers of the state area: ended cut records, hang reports, finished dumps, finished self-test requests. -/
def stateRecordLost (k : Nat) (s : State) : State :=
  let a := s.cuts.ended.length
  let b := s.hang.reports.length
  let ended := s.dumps.list.filter fun d => !dumpLive d
  let c := ended.length
  if k < a then { s with cuts := { s.cuts with ended := s.cuts.ended.eraseIdx k } }
  else if k < a + b then { s with hang := { s.hang with reports := s.hang.reports.eraseIdx (k - a) } }
  else if k < a + b + c then
    match ended[k - a - b]? with
    | none => s
    | some d => { s with dumps := { s.dumps with list := eraseFirst (fun x => x.id == d.id) s.dumps.list } }
  else
    match (s.test.runs.filter (·.complete))[k - a - b - c]? with
    | none => s
    | some r => { s with test := { s.test with runs := eraseFirst (fun x => x.id == r.id) s.test.runs } }

/-- The item numbers of the retention SRAM: 0 the crash region, 1 to 4 the autofence slots, 5 to 20 the mailbox levels, 21 the
event ring's setting, 22 to 35 the bindings of mailboxes 1 to 14, 36 the domains, 37 the debug level, 38 and 39 the INCL
grants, 40 the open proposal, 41 the nonces, 42 the failure count, 43 the crash record's staging, 44 the last record, 45
upwards the intake log; the coordinates survive by majority. -/
def retentionLost (k : Nat) (s : State) : State :=
  let p := s.protect
  if k = 0 then { s with dumps := { s.dumps with regions := s.dumps.regions.set 0 {} } }
  else if k < 5 then { s with autofence := { s.autofence with slots := s.autofence.slots.set (k - 1) none } }
  else if k < 21 then { s with mb := { s.mb with levels := s.mb.levels.set (k - 5) 0 } }
  else if k = 21 then { s with events := { s.events with base := 0, log2 := 0, enabled := false } }
  else if k < 36 then { s with protect := { p with bindings := p.bindings.set (k - 21) none } }
  else if k = 36 then { s with protect := { p with domains := [] } }
  else if k = 37 then { s with protect := { p with debug := resetDebug s.fuses.lifecycle } }
  else if k = 38 then { s with protect := { p with inclOp := none } }
  else if k = 39 then { s with protect := { p with inclPl := none } }
  else if k = 40 then { s with protect := { p with proposal := none } }
  else if k = 41 then { s with protect := { p with nonces := [] } }
  else if k = 42 then { s with protect := { p with fails := 0 } }
  else if k = 43 then { s with pw := { s.pw with staging := {} } }
  else if k = 44 then { s with pw := { s.pw with last := none, nvFailed := false } }
  else if k - 45 < s.errors.log.length then { s with errors := { s.errors with
    log := s.errors.log.eraseIdx (k - 45), replaced := satInc s.errors.replaced } }
  else s

/-- The firmware RAMs below the state area: the firmware is stopped, or a load that has not started it ends SRAM_FAULT
(R476 step 2, R480). -/
def firmwareRamLost (s : State) : State :=
  if s.fw.state = .loading ∧ s.fw.started = false then endLoadFw .sramFault s else failFirmware s

/-- First word of the state area in the data RAM (R479). -/
def stateAreaWord : Nat := 0x8000

def sramHandled (code addr : Nat) (s : State) : State :=
  if code = 1 then contextLost addr s
  else if code = 2 then mapEntryLost addr s
  else if code = 3 then trackerLost (Config.sramItem 3 addr) s
  else if code = 4 then traceOrChunkLost (Config.sramItem 4 addr) s
  else if code = 5 then (if addr < stateAreaWord then firmwareRamLost s else stateRecordLost (Config.sramItem 5 addr) s)
  else if code = 6 then firmwareRamLost s
  else if code = 7 then retentionLost (Config.sramItem 7 addr) s
  else s

/-- HUB_SRAM_ERROR: a corrected event is only logged (R341). -/
def execHubSramError (code : BitVec 16) (addr : BitVec 32) (corrected : Bool) (s : State) :
    Host.Outcome State Fault Refusal :=
  .next (if serving s then
    let s := hubError 4 (if corrected then 0 else 1) code.toNat addr.toNat 0 s
    if corrected then s
    else sramHandled code.toNat addr.toNat (raiseEvent 0x0303 3 [wn code.toNat, wn addr.toNat] {} 0 s)
  else s)

end Sys2Proof.Machine
end

