-- ==== Sys2Proof/Machine/Mailbox.lean ====
section
/-!
DEFINITION. The poll of the mailboxes (R481 to R489) and LOCAL_READ of the narrow port (R549).
-/
namespace Sys2Proof.Machine

/-! ## MAILBOX_POLL -/

/-- The seal word with STATE TAKEN; SEQ and CHECK stay. -/
def takenSeal (sw : Word) : Word := pk [(32, 32, bits sw 63 32), (16, 16, bits sw 31 16), (0, 4, 2)]

/-- CHECK of a request over bytes 0x008 to 0x03F + LEN (R482). -/
def requestCheck (m seq len : Nat) (mem : Mem) : BitVec 32 :=
  crc32c (BitVec.ofNat 32 (m * 65536 + seq)) (memBytes (4096 * m + 8) (0x38 + len) mem)

/-- Poll one mailbox: a SEALED one is TAKEN with the same SEQ and its command taken from the copy. -/
def pollMailbox (s : State) (m : Nat) : State :=
  let base := 4096 * m
  let sw := memWord base s.mb.mem
  let via := Via.mailbox (BitVec.ofNat 4 m)
  if bits sw 3 0 ≠ 1 ∨ (takenOf s via).isSome then s else
  let head := memWord (base + 8) s.mb.mem
  let seq := fieldB 16 sw 16
  let cmd := fieldB 16 head 48
  let len := bits head 31 16
  let notify := bit head 0
  let copy := s.mb.mem
  let s := { s with mb := { s.mb with mem := memWriteWords base [takenSeal sw] s.mb.mem } }
  let check := if 4032 < len then some false
    else if requestCheck m seq.toNat len copy ≠ fieldB 32 sw 32 then some true else none
  takeRequest via cmd seq notify (mailboxWho s m) s.protect.debug (wordsOf (memBytes (base + 0x40) (min len 4032) copy)) check s

/-- MAILBOX_POLL: ascending mailbox number (R488). -/
def execMailboxPoll (s : State) : Host.Outcome State Fault Refusal :=
  .next (if serving s then (List.range 16).foldl pollMailbox s else s)

/-! ## LOCAL_READ -/

/-- The bytes a space of LOCAL_READ holds: their count, and a run of them. -/
def localSize (s : State) (space : BitVec 2) : Nat :=
  if space = 0 then s.trace.capacity else 8 * (errlogPayload s).length

def localBytes (s : State) (space : BitVec 2) (off n : Nat) : List Byte :=
  if space = 0 then memBytes off n s.trace.buf else ((bytesOf (errlogPayload s)).drop off).take n

/-- LOCAL_READ. The trace buffer is open to the principal that configured its session (R153). -/
def execLocalRead (via : Via) (space : BitVec 2) (offset : BitVec 32) (length : BitVec 12) (s : State) :
    Host.Outcome State Fault Refusal :=
  let n := length.toNat
  .next (command via 0x0F00 (.localRead via space offset length) true
    (fun s => [(!isNarrow via, rVersion), (denied s via .opPlatVen .sealedLevel || (decide (space = 0) && recordsOf s (whoOf s via)), rDenied),
      (decide (2 ≤ space.toNat) || decide (n < 8 ∨ 3520 < n ∨ n % 8 ≠ 0) ||
        decide (localSize s space < offset.toNat + n), rBadArg),
      (decide (space = 0) && sessionRuns s, rBusy)])
    (fun s => respond via rOk (wordsOf (localBytes s space offset.toNat n)) s) s)

end Sys2Proof.Machine
end

