-- ==== Sys2Proof/Machine/Registers.lean ====
section
/-!
DEFINITION. The register window (chapter 20): what each register reads as, the writes of registers without a row of their own,
and the interrupt registers (Tables 20.8 to 20.14, 10.9, 16.3).
-/
namespace Sys2Proof.Machine

/-! ## Reads -/

/-- Table 20.9. -/
def readIdentity (s : State) (off : Nat) : Word :=
  match off with
  | 0x00 => pk [(48, 16, 0x7400), (32, 16, (chipOf s).toNat), (8, 8, 4), (0, 8, 1)]
  | 0x08 => summaryWord2 s
  | 0x10 => summaryWord3 s
  | 0x18 => (summaryWord1 s 0 >>> 47 <<< 47) ||| (chipOf s).setWidth 64
  | 0x20 => s.fw.base.setWidth 64 <<< 12
  | 0x30 => pk [(48, 16, s.fw.major.toNat), (32, 16, s.fw.minor.toNat), (4, 1, b2n (basic s)), (0, 4, fwCode s.fw.state)]
  | _ => 0

/-- Table 20.10; `off` from 0x0_1000. -/
def readTime (s : State) (off : Nat) : Word :=
  let t := s.time
  match off with
  | 0x00 => wn (hubGt s)
  | 0x08 => pk [(24, 8, (t.diam.map (·.toNat)).getD 0), (16, 8, t.depth.toNat), (5, 1, b2n t.refLost), (4, 1, b2n t.rateErr),
      (0, 4, timeStateCode t.state)]
  | 0x10 => t.rate.setWidth 64
  | 0x18 => pk [(16, 4, t.xlat.toNat), (0, 16, t.delay.toNat)]
  | _ => if 0x20 ≤ off ∧ off < 0x50 then (t.asym.getD ((off - 0x20) / 8) 0).setWidth 64 else 0

/-- Table 20.11; `off` from 0x0_2000. -/
def readSummary (s : State) (off : Nat) : Word :=
  let a := s.ao
  match off with
  | 0x00 => a.unattrib
  | 0x08 => a.lostCycles
  | 0x10 => a.lostCmds
  | 0x18 => a.errs.getD 0 0
  | 0x20 => a.errs.getD 1 0
  | 0x28 => a.errs.getD 2 0
  | 0x30 => a.errs.getD 3 0
  | 0x38 => a.genDrop
  | 0x40 => a.hmLate
  | _ => 0

/-- Table 20.12; `off` from 0x0_3000. -/
def readPower (s : State) (off : Nat) : Word :=
  let p := s.pw
  let last := p.last.getD []
  match off with
  | 0x00 => pk [(17, 1, b2n p.warn), (16, 1, b2n s.time.refLost), (8, 8, p.gated.toNat), (0, 3, b2n (decide (s.power = .partialOn)))]
  | 0x08 => if p.last.isSome then
      pk [(32, 32, (recordSeq last).toNat), (24, 8, recordCause last), (16, 8, recordReason last), (1, 1, b2n p.nvFailed), (0, 1, 1)]
    else 0
  | 0x10 => p.page.setWidth 64
  | _ => if 0x200 ≤ off ∧ off < 0x400 then last.getD (64 * p.page.toNat + (off - 0x200) / 8) 0 else 0

/-- Table 20.13; `off` from 0x0_4000. -/
def readEvents (s : State) (off : Nat) : Word :=
  let e := s.events
  match off with
  | 0x00 => pk [(8, 1, b2n e.ringFault), (0, 4, e.line.toNat)]
  | 0x08 => e.en.setWidth 64
  | 0x10 => e.line.setWidth 64
  | 0x18 => e.base.setWidth 64 <<< 12
  | 0x20 => pk [(32, 32, e.number.toNat), (16, 11, eventsWaiting s), (5, 1, b2n e.enabled), (0, 5, e.log2.toNat)]
  | _ => 0

/-- Table 10.9; `off` from 0x2_0000. The effects of reading CK_STATUS, CK_RUN and CK_RESULT are rows of their own. -/
def readCheck (s : State) (off : Nat) : Word :=
  let k := s.check
  match off with
  | 0x100 => pk [(1, 1, b2n k.crc64), (0, 1, b2n k.host)]
  | 0x108 => ckStatus k
  | 0x110 => ckRunRead (drainAll k)
  | 0x118 => ckFinal k.crc64 (drainAll k).run
  | _ => 0

/-- An INCL grant as Table 20.14 shows it. -/
def inclWord (s : State) : Option InclGrant → Word
  | none => 0
  | some g => pk [(26, 1, b2n (decide (s.protect.debug ≠ .invasive))), (25, 1, b2n (decide (hubGt s < g.notAfter.toNat))),
      (24, 1, b2n g.all), (16, 8, g.domain.toNat), (8, 4, g.scope.toNat)]

def bindWord (s : State) (w : Nat) : Word :=
  pk ((List.range 4).map fun k =>
    (16 * k, 16, match s.protect.bindings.getD (4 * w + k) none with
      | none => 0
      | some p => (principalCode p).toNat * 256 + (principalDomain p).toNat))

def domainWord (s : State) (w : Nat) : Word :=
  pk ((List.range 64).map fun b => (b, 1, b2n (domainExists s (BitVec.ofNat 8 (64 * w + b)))))

/-- Table 20.14; `off` from 0x3_0000. -/
def readAuth (s : State) (off : Nat) : Word :=
  let f := s.fuses
  let p := s.protect
  match off with
  | 0x00 => pk [(56, 1, b2n (locked s)), (48, 8, p.fails.toNat), (32, 16, (svnFloor f).toNat), (27, 5, f.svn.length),
      (24, 3, f.opKeys.length), (23, 1, b2n f.opRevoked), (22, 1, b2n f.redactDestroyed), (21, 1, b2n f.redactKey.isSome),
      (20, 1, b2n f.fwKey.isSome), (19, 1, b2n f.vendorKey.isSome), (18, 1, b2n f.platformKey.isSome),
      (4, 2, levelRank p.debug), (0, 2, lifecycleCode f.lifecycle)]
  | 0x48 => inclWord s p.inclOp
  | 0x50 => (p.inclOp.map (·.notAfter)).getD 0
  | 0x58 => inclWord s p.inclPl
  | 0x60 => (p.inclPl.map (·.notAfter)).getD 0
  | 0x68 => match p.proposal with
    | none => 0
    | some q => pk [(48, 16, q.id.toNat), (40, 8, q.kind.toNat), (32, 8, q.proposer.toNat), (8, 3, q.denials), (0, 1, 1)]
  | 0x70 => match p.proposal with
    | none => 0
    | some q => wn q.expires
  | 0x78 => wn (liveNonces s).length
  | _ => if 0x08 ≤ off ∧ off < 0x28 then domainWord s ((off - 8) / 8)
    else if 0x28 ≤ off ∧ off < 0x48 then bindWord s ((off - 0x28) / 8) else 0

/-- The register at a byte offset of the window (Table 20.8). -/
def readRegister (s : State) (off : Nat) : Word :=
  if off < 0x1000 then readIdentity s off
  else if off < 0x2000 then readTime s (off - 0x1000)
  else if off < 0x3000 then readSummary s (off - 0x2000)
  else if off < 0x4000 then readPower s (off - 0x3000)
  else if off < 0x5000 then readEvents s (off - 0x4000)
  else if 0x10000 ≤ off ∧ off < 0x20000 then memWord (off - 0x10000) s.mb.mem
  else if 0x20000 ≤ off ∧ off < 0x30000 then readCheck s (off - 0x20000)
  else if 0x30000 ≤ off ∧ off < 0x31000 then readAuth s (off - 0x30000)
  else 0

/-! ## Writes -/

/-- A write of `IRQ_STATUS`: LINE and RING_FAULT are W1C (R503, R607). -/
def clearIrq (w : Word) (s : State) : State :=
  { s with events := { s.events with
    line := s.events.line &&& ~~~ fieldB 4 w 0, ringFault := s.events.ringFault && !bit w 8 } }

/-- A write of `IRQ_TEST`: LINE is W1S (R607). -/
def setIrq (w : Word) (s : State) : State := { s with events := { s.events with line := s.events.line ||| fieldB 4 w 0 } }

/-- IRQ_STATUS_CLEAR. -/
def execIrqStatusClear (wdata : Word) (wstrb : BitVec 8) (s : State) : Host.Outcome State Fault Refusal :=
  .next (hrWrite wstrb (clearIrq wdata) s)

/-- IRQ_TEST. -/
def execIrqTest (wdata : Word) (wstrb : BitVec 8) (s : State) : Host.Outcome State Fault Refusal :=
  .next (hrWrite wstrb (setIrq wdata) s)

/-- A write of the register at a byte offset outside the mailboxes; read-only fields and unlisted offsets ignore it (R10). -/
def writeRegister (off : Nat) (w : Word) (s : State) : State :=
  match off with
  | 0x00020 => { s with fw := { s.fw with base := fieldB 52 w 12 } }
  | 0x00028 => writeGo w s
  | 0x01008 => clearRateErr w s
  | 0x01010 => writeRate w s
  | 0x01018 => { s with time := { s.time with xlat := fieldB 4 w 16, delay := fieldB 16 w 0 } }
  | 0x03010 => { s with pw := { s.pw with page := fieldB 4 w 0 } }
  | 0x04000 => clearIrq w s
  | 0x04008 => { s with events := { s.events with en := fieldB 4 w 0 } }
  | 0x04010 => setIrq w s
  | 0x20100 => writeCkCtrl w s
  | 0x20108 => clearOverrun w s
  | 0x20110 => hostFeed (.run w) s
  | 0x20120 => feedBytes 1 w s
  | 0x20128 => feedBytes 2 w s
  | 0x20130 => feedBytes 4 w s
  | _ => if 0x1020 ≤ off ∧ off < 0x1050 then
      { s with time := { s.time with asym := s.time.asym.set ((off - 0x1020) / 8) (fieldB 32 w 0) } }
    else s

/-- The bits a mailbox word holds: of the seal word, of HEAD and of the reserved words those that are not reserved (R9,
Table 16.3). -/
def mailboxBits (a : Nat) : Word :=
  let o := a % 4096
  if o = 0 then 0xFFFFFFFFFFFF000F else if o = 8 then 0xFFFF0000FFFF0001 else if 16 ≤ o ∧ o < 64 then 0 else 0xFFFFFFFFFFFFFFFF

/-- A write of a mailbox word: the enabled bytes, a SEAL word only whole (R585). -/
def writeMailbox (a : Nat) (w : Word) (strb : BitVec 8) (s : State) : State :=
  if a % 4096 = 0 ∧ strb ≠ 0xFF then s
  else { s with mb := { s.mb with
    mem := memWriteWords a [mergeBytes (memWord a s.mb.mem) w strb &&& mailboxBits a] s.mb.mem } }

/-- REGISTER_WRITE: `addr` is `hr_addr`, bits [19:3] of the byte offset. -/
def execRegisterWrite (addr : BitVec 17) (wdata : Word) (wstrb : BitVec 8) (s : State) :
    Host.Outcome State Fault Refusal :=
  let off := 8 * addr.toNat
  .next (if 0x10000 ≤ off ∧ off < 0x20000 then
      (if serving s then writeMailbox (off - 0x10000) wdata wstrb (hrDone 0 s) else s)
    else hrWrite wstrb (writeRegister off wdata) s)

end Sys2Proof.Machine
end

