-- ==== Sys2Proof/Machine/Dispatch.lean ====
section
/-!
DEFINITION. One arm per constructor of Instr: the command's effect on everything but the queue.
-/
namespace Sys2Proof.Machine

def exec (i : Instr) (s : State) : Host.Outcome State Fault Refusal :=
  match i with
  | .mailboxPoll => Sys2Proof.Machine.execMailboxPoll s
  | .hello via minLevel maxLevel setcoord x y z dimx dimy dimz => Sys2Proof.Machine.execHello via minLevel maxLevel setcoord x y z dimx dimy dimz s
  | .capsSummary via => Sys2Proof.Machine.execCapsSummary via s
  | .capsPresence via first => Sys2Proof.Machine.execCapsPresence via first s
  | .capsIazan via => Sys2Proof.Machine.execCapsIazan via s
  | .eventRingSet via base log2 enable => Sys2Proof.Machine.execEventRingSet via base log2 enable s
  | .ctxDefine via first count attr => Sys2Proof.Machine.execCtxDefine via first count attr s
  | .ctxRetire via first count => Sys2Proof.Machine.execCtxRetire via first count s
  | .cntConfig via addr mask full => Sys2Proof.Machine.execCntConfig via addr mask full s
  | .pailConfig via p => Sys2Proof.Machine.execPailConfig via p s
  | .traceConfig via p => Sys2Proof.Machine.execTraceConfig via p s
  | .trigSetLoad via addr mask dsel block => Sys2Proof.Machine.execTrigSetLoad via addr mask dsel block s
  | .trigSetChannel via ch caddr cmask haddr hmask enable => Sys2Proof.Machine.execTrigSetChannel via ch caddr cmask haddr hmask enable s
  | .trigSetClear via addr mask => Sys2Proof.Machine.execTrigSetClear via addr mask s
  | .trigSetStatus via addr mask => Sys2Proof.Machine.execTrigSetStatus via addr mask s
  | .skimArm via p => Sys2Proof.Machine.execSkimArm via p s
  | .skimCancel via addr mask => Sys2Proof.Machine.execSkimCancel via addr mask s
  | .skimRead via addr mask => Sys2Proof.Machine.execSkimRead via addr mask s
  | .chanmapLoad via inline addr first count data => Sys2Proof.Machine.execChanmapLoad via inline addr first count data s
  | .chanmapClear via first count => Sys2Proof.Machine.execChanmapClear via first count s
  | .chanmapConfig via knots blockGt period progSweeps actions actWait => Sys2Proof.Machine.execChanmapConfig via knots blockGt period progSweeps actions actWait s
  | .chanmapReport via hangId first => Sys2Proof.Machine.execChanmapReport via hangId first s
  | .chanmapStatus via => Sys2Proof.Machine.execChanmapStatus via s
  | .stopAtArm via addr mask hard tform t watchdog => Sys2Proof.Machine.execStopAtArm via addr mask hard tform t watchdog s
  | .stopAtCancel via cutId => Sys2Proof.Machine.execStopAtCancel via cutId s
  | .stopAtReport via cutId first => Sys2Proof.Machine.execStopAtReport via cutId first s
  | .stepCommand via cutId addr mask bound => Sys2Proof.Machine.execStepCommand via cutId addr mask bound s
  | .stepContext via cutId addr mask ctx rounds bound => Sys2Proof.Machine.execStepContext via cutId addr mask ctx rounds bound s
  | .stepFiring via cutId addr mask steer withEng bound => Sys2Proof.Machine.execStepFiring via cutId addr mask steer withEng bound s
  | .stepTime via cutId addr mask delta => Sys2Proof.Machine.execStepTime via cutId addr mask delta s
  | .resume via cutId addr mask tform r => Sys2Proof.Machine.execResume via cutId addr mask tform r s
  | .stateRead via addr space waddr count gen incl => Sys2Proof.Machine.execStateRead via addr space waddr count gen incl s
  | .stateWrite via addr space waddr count gen incl data => Sys2Proof.Machine.execStateWrite via addr space waddr count gen incl data s
  | .scanOut via p read => Sys2Proof.Machine.execScanOut via p read s
  | .dumpSetup via region base size declBw share => Sys2Proof.Machine.execDumpSetup via region base size declBw share s
  | .dumpStart via p read => Sys2Proof.Machine.execDumpStart via p read s
  | .dumpCancel via dumpId => Sys2Proof.Machine.execDumpCancel via dumpId s
  | .churn via cutId content region stream tag deadline read => Sys2Proof.Machine.execChurn via cutId content region stream tag deadline read s
  | .dumpStatus via dumpId => Sys2Proof.Machine.execDumpStatus via dumpId s
  | .faultRetry via target index abandon => Sys2Proof.Machine.execFaultRetry via target index abandon s
  | .checkFeed via crc64 source addr length seed data => Sys2Proof.Machine.execCheckFeed via crc64 source addr length seed data s
  | .fence via addr mask => Sys2Proof.Machine.execFence via addr mask s
  | .unfence via addr mask => Sys2Proof.Machine.execUnfence via addr mask s
  | .contextAbort via p => Sys2Proof.Machine.execContextAbort via p s
  | .engineReset via p => Sys2Proof.Machine.execEngineReset via p s
  | .coreFenceAndReset via p => Sys2Proof.Machine.execCoreFenceAndReset via p s
  | .partitionReset via p => Sys2Proof.Machine.execPartitionReset via p s
  | .chipComputeReset via p => Sys2Proof.Machine.execChipComputeReset via p s
  | .trayPowerCycle via p => Sys2Proof.Machine.execTrayPowerCycle via p s
  | .reopen via gen links => Sys2Proof.Machine.execReopen via gen links s
  | .resetRungStatus via => Sys2Proof.Machine.execResetRungStatus via s
  | .autofenceSlot via p => Sys2Proof.Machine.execAutofenceSlot via p s
  | .autofenceLimits via chipMax partMax rate => Sys2Proof.Machine.execAutofenceLimits via chipMax partMax rate s
  | .autofenceStatus via => Sys2Proof.Machine.execAutofenceStatus via s
  | .testLend via addr mask => Sys2Proof.Machine.execTestLend via addr mask s
  | .testReclaim via addr mask => Sys2Proof.Machine.execTestReclaim via addr mask s
  | .testSlotConfig via maxChip maxCluster => Sys2Proof.Machine.execTestSlotConfig via maxChip maxCluster s
  | .testRequest via p => Sys2Proof.Machine.execTestRequest via p s
  | .testCancel via testId => Sys2Proof.Machine.execTestCancel via testId s
  | .testStatus via testId => Sys2Proof.Machine.execTestStatus via testId s
  | .timeCalStart via root setroot rootGt => Sys2Proof.Machine.execTimeCalStart via root setroot rootGt s
  | .timeCalLink via chip port => Sys2Proof.Machine.execTimeCalLink via chip port s
  | .timeCalSweep via => Sys2Proof.Machine.execTimeCalSweep via s
  | .windowOpen via win base size aaddr amask => Sys2Proof.Machine.execWindowOpen via win base size aaddr amask s
  | .windowClose via win => Sys2Proof.Machine.execWindowClose via win s
  | .remoteCmd via target notify cmd genchk gen timeout inner => Sys2Proof.Machine.execRemoteCmd via target notify cmd genchk gen timeout inner s
  | .remoteWrite via target genchk gen timeout win wgen bytes offset data => Sys2Proof.Machine.execRemoteWrite via target genchk gen timeout win wgen bytes offset data s
  | .protectNonce via => Sys2Proof.Machine.execProtectNonce via s
  | .protectPropose via desc key sig extra => Sys2Proof.Machine.execProtectPropose via desc key sig extra s
  | .protectConfirm via proposalId key sig extra => Sys2Proof.Machine.execProtectConfirm via proposalId key sig extra s
  | .lifecycleAdvance via desc key sig => Sys2Proof.Machine.execLifecycleAdvance via desc key sig s
  | .localRead via space offset length => Sys2Proof.Machine.execLocalRead via space offset length s
  | .fuseWrite via item hash => Sys2Proof.Machine.execFuseWrite via item hash s
  | .fwGo wdata wstrb => Sys2Proof.Machine.execFwGo wdata wstrb s
  | .firmwareReady => Sys2Proof.Machine.execFirmwareReady s
  | .firmwareWatchdog => Sys2Proof.Machine.execFirmwareWatchdog s
  | .firmwareStartTimeout => Sys2Proof.Machine.execFirmwareStartTimeout s
  | .ckCtrlHost wdata wstrb => Sys2Proof.Machine.execCkCtrlHost wdata wstrb s
  | .ckHostGrant => Sys2Proof.Machine.execCkHostGrant s
  | .ckStatusRead => Sys2Proof.Machine.execCkStatusRead s
  | .ckOverrunClear wdata wstrb => Sys2Proof.Machine.execCkOverrunClear wdata wstrb s
  | .ckRun wdata wstrb => Sys2Proof.Machine.execCkRun wdata wstrb s
  | .ckFeedB wdata wstrb => Sys2Proof.Machine.execCkFeedB wdata wstrb s
  | .ckFeedH wdata wstrb => Sys2Proof.Machine.execCkFeedH wdata wstrb s
  | .ckFeedW wdata wstrb => Sys2Proof.Machine.execCkFeedW wdata wstrb s
  | .ckResultRead result => Sys2Proof.Machine.execCkResultRead result s
  | .timeRateWrite wdata wstrb => Sys2Proof.Machine.execTimeRateWrite wdata wstrb s
  | .rateErrClear wdata wstrb => Sys2Proof.Machine.execRateErrClear wdata wstrb s
  | .irqStatusClear wdata wstrb => Sys2Proof.Machine.execIrqStatusClear wdata wstrb s
  | .irqTest wdata wstrb => Sys2Proof.Machine.execIrqTest wdata wstrb s
  | .registerWrite addr wdata wstrb => Sys2Proof.Machine.execRegisterWrite addr wdata wstrb s
  | .obsResetRelease ties => Sys2Proof.Machine.execObsResetRelease ties s
  | .tsCmdBegin core eng dc ctx layer op seq st stall chan endSt => Sys2Proof.Machine.execTsCmdBegin core eng dc ctx layer op seq st stall chan endSt s
  | .tsCmdEnd core eng dc st => Sys2Proof.Machine.execTsCmdEnd core eng dc st s
  | .engineStateChange core eng dc st stall chan => Sys2Proof.Machine.execEngineStateChange core eng dc st stall chan s
  | .crockStallEntry core eng cyc => Sys2Proof.Machine.execCrockStallEntry core eng cyc s
  | .programRetire core eng dc ret br tgt => Sys2Proof.Machine.execProgramRetire core eng dc ret br tgt s
  | .progRecordTimeout core eng cyc => Sys2Proof.Machine.execProgRecordTimeout core eng cyc s
  | .dataAccess core dc wr size addr data => Sys2Proof.Machine.execDataAccess core dc wr size addr data s
  | .steeringArrival core dc unit tok dat old => Sys2Proof.Machine.execSteeringArrival core dc unit tok dat old s
  | .steeringFire core dc unit tok dat old => Sys2Proof.Machine.execSteeringFire core dc unit tok dat old s
  | .epochChange core dc epoch => Sys2Proof.Machine.execEpochChange core dc epoch s
  | .epochRequest core dc => Sys2Proof.Machine.execEpochRequest core dc s
  | .slotOperation core dc op full slot eng peerCtx peerV => Sys2Proof.Machine.execSlotOperation core dc op full slot eng peerCtx peerV s
  | .storeBeat core dc eng cnt idx data scale => Sys2Proof.Machine.execStoreBeat core dc eng cnt idx data scale s
  | .stretchChange core dc active => Sys2Proof.Machine.execStretchChange core dc active s
  | .gateWarn core dc waits => Sys2Proof.Machine.execGateWarn core dc waits s
  | .coreWake core ret => Sys2Proof.Machine.execCoreWake core ret s
  | .coreErrorReport core dc cls n eng code addr => Sys2Proof.Machine.execCoreErrorReport core dc cls n eng code addr s
  | .fenceAck core dc => Sys2Proof.Machine.execFenceAck core dc s
  | .fenceAckTimeout core => Sys2Proof.Machine.execFenceAckTimeout core s
  | .abortAck core dc => Sys2Proof.Machine.execAbortAck core dc s
  | .stateAccessAck core dc rdata err => Sys2Proof.Machine.execStateAccessAck core dc rdata err s
  | .stateAccessTimeout core dc => Sys2Proof.Machine.execStateAccessTimeout core dc s
  | .engineResetAssert core eng dc => Sys2Proof.Machine.execEngineResetAssert core eng dc s
  | .engineResetRelease core eng dc => Sys2Proof.Machine.execEngineResetRelease core eng dc s
  | .coreResetAssert core dc => Sys2Proof.Machine.execCoreResetAssert core dc s
  | .coreResetRelease core dc => Sys2Proof.Machine.execCoreResetRelease core dc s
  | .keepAlive core dc => Sys2Proof.Machine.execKeepAlive core dc s
  | .clockStopDetect core cyc => Sys2Proof.Machine.execClockStopDetect core cyc s
  | .obsLinkWordRead core cyc => Sys2Proof.Machine.execObsLinkWordRead core cyc s
  | .counterCrossing core eng dc comparator => Sys2Proof.Machine.execCounterCrossing core eng dc comparator s
  | .timeBeat obsCycles hubCycles tpCycles => Sys2Proof.Machine.execTimeBeat obsCycles hubCycles tpCycles s
  | .refLostAssert => Sys2Proof.Machine.execRefLostAssert s
  | .refLostDeassert => Sys2Proof.Machine.execRefLostDeassert s
  | .referenceStopDetect => Sys2Proof.Machine.execReferenceStopDetect s
  | .timeExchange port depart => Sys2Proof.Machine.execTimeExchange port depart s
  | .timeReqReceive port exch t1 arrive depart => Sys2Proof.Machine.execTimeReqReceive port exch t1 arrive depart s
  | .timeRspReceive port exch parentState depth t1 t2 t3 corr arrive preempted => Sys2Proof.Machine.execTimeRspReceive port exch parentState depth t1 t2 t3 corr arrive preempted s
  | .timeCalTimeout => Sys2Proof.Machine.execTimeCalTimeout s
  | .leafStopArm core cyc cutId n => Sys2Proof.Machine.execLeafStopArm core cyc cutId n s
  | .shimArmReceive core dc => Sys2Proof.Machine.execShimArmReceive core dc s
  | .shimHoldRaise core dc => Sys2Proof.Machine.execShimHoldRaise core dc s
  | .shimStopCycle core dc cyc => Sys2Proof.Machine.execShimStopCycle core dc cyc s
  | .leafCutReport cluster cutId => Sys2Proof.Machine.execLeafCutReport cluster cutId s
  | .stopWatchdogExpiry cutId => Sys2Proof.Machine.execStopWatchdogExpiry cutId s
  | .cutReportDeadline cutId => Sys2Proof.Machine.execCutReportDeadline cutId s
  | .stepBoundExpiry cutId => Sys2Proof.Machine.execStepBoundExpiry cutId s
  | .timeStepRelease cutId => Sys2Proof.Machine.execTimeStepRelease cutId s
  | .resumeRelease cutId => Sys2Proof.Machine.execResumeRelease cutId s
  | .rindPacket link tagged tag reply echo dpart g => Sys2Proof.Machine.execRindPacket link tagged tag reply echo dpart g s
  | .rindTxDrop link => Sys2Proof.Machine.execRindTxDrop link s
  | .pailSampleInstant set read => Sys2Proof.Machine.execPailSampleInstant set read s
  | .pailLeafArm set core cyc n => Sys2Proof.Machine.execPailLeafArm set core cyc n s
  | .pailShimSample core dc cyc => Sys2Proof.Machine.execPailShimSample core dc cyc s
  | .pailRecordArrival set => Sys2Proof.Machine.execPailRecordArrival set s
  | .housekeepingSample => Sys2Proof.Machine.execHousekeepingSample s
  | .milkRunBeat part => Sys2Proof.Machine.execMilkRunBeat part s
  | .traceSinkWrite => Sys2Proof.Machine.execTraceSinkWrite s
  | .traceReadPoll read => Sys2Proof.Machine.execTraceReadPoll read s
  | .triggerStopRequest => Sys2Proof.Machine.execTriggerStopRequest s
  | .crossTriggerRaise => Sys2Proof.Machine.execCrossTriggerRaise s
  | .crossTriggerDeliver cluster cyc => Sys2Proof.Machine.execCrossTriggerDeliver cluster cyc s
  | .skimElement cluster => Sys2Proof.Machine.execSkimElement cluster s
  | .skimCaptureOpen cluster cyc => Sys2Proof.Machine.execSkimCaptureOpen cluster cyc s
  | .skimCloseTime cluster cyc => Sys2Proof.Machine.execSkimCloseTime cluster cyc s
  | .dumpCreditGrant part => Sys2Proof.Machine.execDumpCreditGrant part s
  | .scanPassComplete core chunk => Sys2Proof.Machine.execScanPassComplete core chunk s
  | .governorWindow => Sys2Proof.Machine.execGovernorWindow s
  | .hostMemoryWriteResponse tag code => Sys2Proof.Machine.execHostMemoryWriteResponse tag code s
  | .hostMemoryReadBeat tag beat last code => Sys2Proof.Machine.execHostMemoryReadBeat tag beat last code s
  | .hostMemoryTimeout tag => Sys2Proof.Machine.execHostMemoryTimeout tag s
  | .errorRecordArrival => Sys2Proof.Machine.execErrorRecordArrival s
  | .stormNoticeReceive cluster cyc => Sys2Proof.Machine.execStormNoticeReceive cluster cyc s
  | .intakeLogMove read => Sys2Proof.Machine.execIntakeLogMove read s
  | .coalesceIntervalEnd cluster cyc => Sys2Proof.Machine.execCoalesceIntervalEnd cluster cyc s
  | .stormWindowEnd => Sys2Proof.Machine.execStormWindowEnd s
  | .leafSramError cluster cyc code addr corrected => Sys2Proof.Machine.execLeafSramError cluster cyc code addr corrected s
  | .hubSramError code addr corrected => Sys2Proof.Machine.execHubSramError code addr corrected s
  | .waitEdgeRaise core eng cyc => Sys2Proof.Machine.execWaitEdgeRaise core eng cyc s
  | .waitEdgeReceive => Sys2Proof.Machine.execWaitEdgeReceive s
  | .knotSweep read => Sys2Proof.Machine.execKnotSweep read s
  | .fallbackResendDone cluster => Sys2Proof.Machine.execFallbackResendDone cluster s
  | .hangAbortTimeout hangId => Sys2Proof.Machine.execHangAbortTimeout hangId s
  | .rungTimeout rungId => Sys2Proof.Machine.execRungTimeout rungId s
  | .partitionResetDone part => Sys2Proof.Machine.execPartitionResetDone part s
  | .chipResetDone => Sys2Proof.Machine.execChipResetDone s
  | .resetDoneLower part => Sys2Proof.Machine.execResetDoneLower part s
  | .testSchedulerPass => Sys2Proof.Machine.execTestSchedulerPass s
  | .testDeadlineExpiry => Sys2Proof.Machine.execTestDeadlineExpiry s
  | .testSequenceEnd core responses => Sys2Proof.Machine.execTestSequenceEnd core responses s
  | .iazanPhyUp port => Sys2Proof.Machine.execIazanPhyUp port s
  | .iazanPhyDown port => Sys2Proof.Machine.execIazanPhyDown port s
  | .linkFlitReceive port flit => Sys2Proof.Machine.execLinkFlitReceive port flit s
  | .linkFlitSend port => Sys2Proof.Machine.execLinkFlitSend port s
  | .linkFlitTimeout port => Sys2Proof.Machine.execLinkFlitTimeout port s
  | .checkFailureLimit port => Sys2Proof.Machine.execCheckFailureLimit port s
  | .iazanFencedRetry port => Sys2Proof.Machine.execIazanFencedRetry port s
  | .iazanFrameReceive port lane frame check arrive => Sys2Proof.Machine.execIazanFrameReceive port lane frame check arrive s
  | .iazanFrameAged port => Sys2Proof.Machine.execIazanFrameAged port s
  | .floodArm => Sys2Proof.Machine.execFloodArm s
  | .floodCancel => Sys2Proof.Machine.execFloodCancel s
  | .floodResume => Sys2Proof.Machine.execFloodResume s
  | .floodStepTime => Sys2Proof.Machine.execFloodStepTime s
  | .floodChurn read => Sys2Proof.Machine.execFloodChurn read s
  | .floodRecordExpiry => Sys2Proof.Machine.execFloodRecordExpiry s
  | .triggerFrameReceive => Sys2Proof.Machine.execTriggerFrameReceive s
  | .linkStatePeriodic => Sys2Proof.Machine.execLinkStatePeriodic s
  | .linkStateReceive => Sys2Proof.Machine.execLinkStateReceive s
  | .linkStateStale chip => Sys2Proof.Machine.execLinkStateStale chip s
  | .avoidEntry => Sys2Proof.Machine.execAvoidEntry s
  | .remoteReqReceive => Sys2Proof.Machine.execRemoteReqReceive s
  | .remoteWriteReceive => Sys2Proof.Machine.execRemoteWriteReceive s
  | .remoteRspReceive => Sys2Proof.Machine.execRemoteRspReceive s
  | .remoteEventReceive => Sys2Proof.Machine.execRemoteEventReceive s
  | .trackerTimeout index => Sys2Proof.Machine.execTrackerTimeout index s
  | .responseRecordExpiry => Sys2Proof.Machine.execResponseRecordExpiry s
  | .reportReceive => Sys2Proof.Machine.execReportReceive s
  | .churnDeadline churnId => Sys2Proof.Machine.execChurnDeadline churnId s
  | .dumpStreamReceive read => Sys2Proof.Machine.execDumpStreamReceive read s
  | .streamRspReceive => Sys2Proof.Machine.execStreamRspReceive s
  | .narrowFrameReceive => Sys2Proof.Machine.execNarrowFrameReceive s
  | .eventRingWrite => Sys2Proof.Machine.execEventRingWrite s
  | .eventRingReadPoll read => Sys2Proof.Machine.execEventRingReadPoll read s
  | .tapReset => Sys2Proof.Machine.execTapReset s
  | .testLogicReset => Sys2Proof.Machine.execTestLogicReset s
  | .captureIr => Sys2Proof.Machine.execCaptureIr s
  | .idcode => Sys2Proof.Machine.execIdcode s
  | .challenge => Sys2Proof.Machine.execChallenge s
  | .response bits => Sys2Proof.Machine.execResponse bits s
  | .dwepCapture => Sys2Proof.Machine.execDwepCapture s
  | .dwepUpdate shifted shiftedOutWhole => Sys2Proof.Machine.execDwepUpdate shifted shiftedOutWhole s
  | .dstatus => Sys2Proof.Machine.execDstatus s
  | .narrowRemoteTimeout seq => Sys2Proof.Machine.execNarrowRemoteTimeout seq s
  | .sessionExpiry => Sys2Proof.Machine.execSessionExpiry s
  | .lockoutExpiry => Sys2Proof.Machine.execLockoutExpiry s
  | .inclGrantExpiry platform => Sys2Proof.Machine.execInclGrantExpiry platform s
  | .aoPowerUp slots => Sys2Proof.Machine.execAoPowerUp slots s
  | .aoPowerLoss => Sys2Proof.Machine.execAoPowerLoss s
  | .obsPowerUp ties => Sys2Proof.Machine.execObsPowerUp ties s
  | .partGatedChange part gated => Sys2Proof.Machine.execPartGatedChange part gated s
  | .pfWarnRecognise nvAvail => Sys2Proof.Machine.execPfWarnRecognise nvAvail s
  | .retentionRequestRecognise nvAvail => Sys2Proof.Machine.execRetentionRequestRecognise nvAvail s
  | .nvDurable => Sys2Proof.Machine.execNvDurable s
  | .nvFlushTimeout => Sys2Proof.Machine.execNvFlushTimeout s
  | .trayBlockWrite offset pecOk => Sys2Proof.Machine.execTrayBlockWrite offset pecOk s
  | .trayBlockRead => Sys2Proof.Machine.execTrayBlockRead s
  | .trayStatusPoll status pecOk => Sys2Proof.Machine.execTrayStatusPoll status pecOk s
  | .trayTimeout => Sys2Proof.Machine.execTrayTimeout s
  | .accountWord => Sys2Proof.Machine.execAccountWord s
  | .rindLinksOpen => Sys2Proof.Machine.execRindLinksOpen s
  | .beatsLost port cluster => Sys2Proof.Machine.execBeatsLost port cluster s
  | .firmwareWatchdogSignal => Sys2Proof.Machine.execFirmwareWatchdogSignal s
  | .fuseCommit => Sys2Proof.Machine.execFuseCommit s

end Sys2Proof.Machine
end

