-- ==== Sys2Proof/Machine/Step.lean ====
section
/-!
DEFINITION. One step of the block: the command at the front of its queue, or, with none waiting, one edge of the clock the
time base counts on.
-/
namespace Sys2Proof.Machine

/-- The block with no command waiting (log entry 10): the accumulator takes one edge of its clock, where that edge is not the
one at which a beat leaves (TIME_BEAT has that edge), and check-value unit 1 takes the oldest feed of its queue. -/
def idle (s : State) : State :=
  let t := timeEdge s.time
  let s := if aoPowered s ∧ t.acc.toNat / 2 ^ 42 = s.time.acc.toNat / 2 ^ 42 then { s with time := t } else s
  if serving s then { s with check := drainOne s.check } else s

/-- One step. -/
def step (s : State) : Host.Outcome State Fault Refusal :=
  match s.pending with
  | [] => .next (idle s)
  | c :: rest => exec c { s with pending := rest }

/-- `s` with the command that a word spells put at the front of its queue; unchanged where the word spells none. -/
def State.withFetchWord (s : State) (nbits w : Nat) : State :=
  match Sys2Proof.decodeTableWord nbits w with
  | some c => { s with pending := c :: s.pending }
  | none => s

end Sys2Proof.Machine
end

