-- ==== Sys2Proof/WellFormed.lean ====
section
/-!
DEFINITION. Which commands the surroundings can present: operands that a bit width does not already bound have the length
their port or parameter table gives. `exec` is total: of an ill-formed command only the tie-offs are refused, by R15.
-/
namespace Sys2Proof

open Sys2Proof.Machine

/-- A signature or key field of 96 bytes (Tables 17.10, 18.5). -/
def keyOk (bs : List Byte) : Bool := decide (bs.length = 96)

/-- A frame's payload is its LEN in whole words, at most 3,552 bytes (R440). -/
def frameOk (f : Frame) : Bool := decide (f.payload.length = (f.len.toNat + 7) / 8) && decide (f.len.toNat ≤ 3552)

/-- The extra field of a proposal or a confirmation: none, a redaction key, or an operator key with its proof
(Table 17.10). -/
def extraOk (bs : List Byte) : Bool := decide (bs.length = 0 ∨ bs.length = 32 ∨ bs.length = 192)

/-- A CHECK_FEED carries its bytes exactly with SOURCE inline (Table 10.8). -/
def feedOk (source : BitVec 2) (length : BitVec 32) (data : List Byte) : Bool :=
  decide (data.length = if source = 3 then length.toNat else 0)

/-- The command is one its port can present. -/
def wellFormed : Instr → Bool
  | .trigSetLoad _ _ _ _ block => decide (block.length ≤ 196)
  | .chanmapLoad _ inl _ _ count data => if inl then decide (data.length ≤ count.toNat) else data.isEmpty
  | .stateWrite _ _ _ _ count _ _ data => decide (data.length ≤ count.toNat)
  | .checkFeed _ _ source _ length _ data => feedOk source length data
  | .remoteWrite _ _ _ _ _ _ _ bytes _ data => decide (data.length ≤ (bytes.toNat + 7) / 8)
  | .remoteCmd _ _ _ _ _ _ _ inner => decide (inner.length ≤ 493)
  | .protectPropose _ desc key sig extra => decide (desc.length = 16) && keyOk key && keyOk sig && extraOk extra
  | .protectConfirm _ _ key sig _ => keyOk key && keyOk sig
  | .lifecycleAdvance _ desc key sig => decide (desc.length = 16) && keyOk key && keyOk sig
  | .fuseWrite _ _ hash => decide (hash.length = 48)
  | .obsResetRelease t => tieOffsOk t
  | .obsPowerUp t => tieOffsOk t
  | .scanPassComplete _ chunk => decide (chunk.length ≤ 512)
  | .hostMemoryReadBeat _ beat _ _ => decide (beat.length = 8)
  | .timeBeat obs _ tp => decide (obs.length = 8) && decide (tp.length = 16)
  | .iazanFrameReceive _ _ f _ _ => frameOk f
  | .response bits => decide (bits.length = 256)
  | .aoPowerUp slots => decide (slots.length ≤ 2) && slots.all fun w => decide (w.length = 1024)
  | .trayStatusPoll status _ => decide (status.length = 10)
  | .mailboxPoll | .hello .. | .capsSummary .. | .capsPresence .. | .capsIazan .. | .eventRingSet .. | .ctxDefine ..
  | .ctxRetire .. | .cntConfig .. | .pailConfig .. | .traceConfig .. | .trigSetChannel .. | .trigSetClear ..
  | .trigSetStatus .. | .skimArm .. | .skimCancel .. | .skimRead .. | .chanmapClear .. | .chanmapConfig ..
  | .chanmapReport .. | .chanmapStatus .. | .stopAtArm .. | .stopAtCancel .. | .stopAtReport .. | .stepCommand ..
  | .stepContext .. | .stepFiring .. | .stepTime .. | .resume .. | .stateRead .. | .scanOut .. | .dumpSetup ..
  | .dumpStart .. | .dumpCancel .. | .churn .. | .dumpStatus .. | .faultRetry .. | .fence .. | .unfence ..
  | .contextAbort .. | .engineReset .. | .coreFenceAndReset .. | .partitionReset .. | .chipComputeReset ..
  | .trayPowerCycle .. | .reopen .. | .resetRungStatus .. | .autofenceSlot .. | .autofenceLimits ..
  | .autofenceStatus .. | .testLend .. | .testReclaim .. | .testSlotConfig .. | .testRequest .. | .testCancel ..
  | .testStatus .. | .timeCalStart .. | .timeCalLink .. | .timeCalSweep .. | .windowOpen .. | .windowClose ..
  | .protectNonce .. | .localRead .. | .fwGo .. | .firmwareReady | .firmwareWatchdog | .firmwareStartTimeout
  | .ckCtrlHost .. | .ckHostGrant | .ckStatusRead | .ckOverrunClear .. | .ckRun .. | .ckFeedB .. | .ckFeedH ..
  | .ckFeedW .. | .ckResultRead .. | .timeRateWrite .. | .rateErrClear .. | .irqStatusClear .. | .irqTest ..
  | .registerWrite .. | .tsCmdBegin .. | .tsCmdEnd .. | .engineStateChange .. | .crockStallEntry ..
  | .programRetire .. | .progRecordTimeout .. | .dataAccess .. | .steeringArrival .. | .steeringFire ..
  | .epochChange .. | .epochRequest .. | .slotOperation .. | .storeBeat .. | .stretchChange .. | .gateWarn ..
  | .coreWake .. | .coreErrorReport .. | .fenceAck .. | .fenceAckTimeout .. | .abortAck .. | .stateAccessAck ..
  | .stateAccessTimeout .. | .engineResetAssert .. | .engineResetRelease .. | .coreResetAssert ..
  | .coreResetRelease .. | .keepAlive .. | .clockStopDetect .. | .obsLinkWordRead .. | .counterCrossing ..
  | .refLostAssert | .refLostDeassert | .referenceStopDetect | .timeExchange .. | .timeReqReceive ..
  | .timeRspReceive .. | .timeCalTimeout | .leafStopArm .. | .shimArmReceive .. | .shimHoldRaise ..
  | .shimStopCycle .. | .leafCutReport .. | .stopWatchdogExpiry .. | .cutReportDeadline .. | .stepBoundExpiry ..
  | .timeStepRelease .. | .resumeRelease .. | .rindPacket .. | .rindTxDrop .. | .pailSampleInstant ..
  | .pailLeafArm .. | .pailShimSample .. | .pailRecordArrival .. | .housekeepingSample | .milkRunBeat ..
  | .traceSinkWrite | .traceReadPoll .. | .triggerStopRequest | .crossTriggerRaise | .crossTriggerDeliver ..
  | .skimElement .. | .skimCaptureOpen .. | .skimCloseTime .. | .dumpCreditGrant .. | .governorWindow
  | .hostMemoryWriteResponse .. | .hostMemoryTimeout .. | .errorRecordArrival | .stormNoticeReceive ..
  | .intakeLogMove .. | .coalesceIntervalEnd .. | .stormWindowEnd | .leafSramError .. | .hubSramError ..
  | .waitEdgeRaise .. | .waitEdgeReceive | .knotSweep .. | .fallbackResendDone .. | .hangAbortTimeout ..
  | .rungTimeout .. | .partitionResetDone .. | .chipResetDone | .resetDoneLower .. | .testSchedulerPass
  | .testDeadlineExpiry | .testSequenceEnd .. | .iazanPhyUp .. | .iazanPhyDown .. | .linkFlitReceive ..
  | .linkFlitSend .. | .linkFlitTimeout .. | .checkFailureLimit .. | .iazanFencedRetry .. | .iazanFrameAged ..
  | .floodArm | .floodCancel | .floodResume | .floodStepTime | .floodChurn .. | .floodRecordExpiry
  | .triggerFrameReceive | .linkStatePeriodic | .linkStateReceive | .linkStateStale .. | .avoidEntry
  | .remoteReqReceive | .remoteWriteReceive | .remoteRspReceive | .remoteEventReceive | .trackerTimeout ..
  | .responseRecordExpiry | .reportReceive | .churnDeadline .. | .dumpStreamReceive .. | .streamRspReceive
  | .narrowFrameReceive | .eventRingWrite | .eventRingReadPoll .. | .tapReset | .testLogicReset | .captureIr
  | .idcode | .challenge | .dwepCapture | .dwepUpdate .. | .dstatus | .narrowRemoteTimeout .. | .sessionExpiry
  | .lockoutExpiry | .inclGrantExpiry .. | .aoPowerLoss | .partGatedChange .. | .pfWarnRecognise ..
  | .retentionRequestRecognise .. | .nvDurable | .nvFlushTimeout | .trayBlockWrite .. | .trayBlockRead | .trayTimeout
  | .accountWord | .rindLinksOpen | .beatsLost .. | .firmwareWatchdogSignal | .fuseCommit => true

end Sys2Proof
end

