-- ==== Sys2Proof/Safety.lean ====
section
/-!
DEFINITION. The terms in which claims about the block are stated: when a command of the catalogue is taken up, what stays
well formed in every state, and which order the lifecycle keeps.
-/
namespace Sys2Proof.Machine

/-- The state in which a catalogue command is judged: its path's command marked running (R489). -/
def begun (via : Via) (cmd : BitVec 16) (i : Instr) (s : State) : State := (startCall via cmd i s).getD s

/-- What the path holds was taken as a well-formed request (R485, R487). -/
def wellTaken (via : Via) (s : State) : Bool := ((takenOf s via).bind (·.bad)).isNone

/-- The command is taken up: its request is well formed, and neither a missing HELLO (R487) nor basic service (R506) turns it
away. `served` says that basic service serves it. -/
def accepted (via : Via) (cmd : BitVec 16) (i : Instr) (served : Bool) (s : State) : Bool :=
  (startCall via cmd i s).isSome && (preCode via served (decide (cmd = 1)) (begun via cmd i s)).isNone &&
    wellTaken via (begun via cmd i s)

/-- A row of core `c` at the tap port reaches a running shim that has not passed QUIET. -/
def portTaken (s : State) (c : Nat) : Bool := tapLive s c && !discards s c

/-- The state in which a row of core `c`, `dc` cycles after the core's last, acts: the cycles have passed, and comparators whose
counter is below its threshold may cross again, before them and after. -/
def rowState (c dc : Nat) (s : State) : State := refreshCrossed c (tapAdvance c dc (refreshCrossed c s))

/-- Every addressed byte memory of the block is in canonical form: the mailbox pages and the on-chip trace buffer. -/
def memoriesCanonical (s : State) : Bool := memWf s.mb.mem && memWf s.trace.buf

/-- Every core has a place for each of its eight engine numbers. -/
def coresWhole (s : State) : Bool := s.cores.all fun p => decide (p.2.engs.length = 8)

/-- The order of Table 17.11: a lifecycle state never moves to an earlier one. -/
def lifecycleKept (old new : Lifecycle) : Prop := lifecycleCode old ≤ lifecycleCode new

end Sys2Proof.Machine
end

