-- ==== Sys2Proof/Certificates/Slice0/Obligations.lean ====
section
/-!
DEFINITION. The statements about the block, for the provers. Each docstring names the rule of spec/ that it formalises, or
says what it rests on. `b` is always the state in which a catalogue command is judged.
-/
open Sys2Proof Sys2Proof.Machine

/-- One step runs the command at the front of the queue on the state with the rest of the queue. -/
def Obligations.StepRunsFrontCommand : Prop :=
  ∀ (c : Instr) (q : List Instr) (s : State), step { s with pending := c :: q } = exec c { s with pending := q }

/-- With an empty queue the block idles (the model's choice, log entry 10): a next state that differs from the old one at
most in its time and its check unit. The time is unchanged, or its accumulator has advanced by RATE plus 2^32 times the
pending adjustment, which is then 0; the check unit is unchanged, or has taken one feed. -/
def Obligations.EmptyQueueIdles : Prop :=
  ∀ s : State, s.pending = [] → ∃ t, step s = .next t ∧
    (t.time = s.time ∨ t.time = { s.time with
      acc := s.time.acc + BitVec.ofNat 96 s.time.rate.toNat + BitVec.ofInt 96 (s.time.adjust * 2 ^ 32), adjust := 0 }) ∧
    (t.check = s.check ∨ t.check = drainOne s.check) ∧ t = { s with time := t.time, check := t.check }

/-- Reset values: an empty queue; GT 0, the time state FREE, RATE 0x2800000000 and depth 0xFF (R44, Table 02.2); shedding
and the observation domain's power-off asserted and last gasp not done (Table 19.3); no coordinates (R492); mailbox 0 bound to
the Operator, 15 to the Platform and 1 to 14 to nobody (R508); the next cut, step, hang, reset, dump, test and proposal number
1 (R613); the check unit's RUN 0; a declared bandwidth of 1,000 and a share of 200; canonical memories; nothing served. -/
def Obligations.ResetStateValues : Prop :=
  let s := State.reset
  s.pending = [] ∧ hubGt s = 0 ∧ s.time.state = .free ∧ s.time.rate = 0x2800000000 ∧ s.time.depth = 0xFF ∧
  s.pw.shed = true ∧ s.pw.obsOff = true ∧ s.pw.lgDone = false ∧ s.mb.coord = none ∧
  s.protect.bindings.getD 0 none = some .operator ∧ s.protect.bindings.getD 15 none = some .platform ∧
  (∀ m, 1 ≤ m → m ≤ 14 → s.protect.bindings.getD m none = none) ∧
  s.cuts.next = 1 ∧ s.cuts.stepNum = 1 ∧ s.hang.next = 1 ∧ s.rec_.next = 1 ∧ s.dumps.next = 1 ∧ s.test.next = 1 ∧
  s.protect.nextProposal = 1 ∧ s.check.run = 0 ∧ s.hm.declBw = 1000 ∧ s.hm.share = 200 ∧
  memoriesCanonical s = true ∧ serving s = false

/-- Every command its port can present completes with a next state; the one stop of the block is a set of tie-offs that
Table 01.1 does not allow (R15). -/
def Obligations.EveryWellFormedCommandCompletes : Prop :=
  (∀ (c : Instr) (s : State), wellFormed c = true → ∃ t, exec c s = .next t) ∧
  (∀ (c : Instr) (s : State) (r : Refusal), exec c s ≠ .refused r) ∧
  (∀ (c : Instr) (s : State) (f : Fault), exec c s = .fault f →
    ∃ t : TieOffs, tieOffsOk t = false ∧ (c = .obsResetRelease t ∨ c = .obsPowerUp t))

/-- A command's effect leaves the queue alone. -/
def Obligations.CommandsLeaveTheQueue : Prop :=
  ∀ (c : Instr) (s t : State), exec c s = .next t → t.pending = s.pending

/-- Every step keeps both byte memories in canonical form. -/
def Obligations.StepKeepsMemoriesCanonical : Prop :=
  ∀ s t : State, memoriesCanonical s = true → step s = .next t → memoriesCanonical t = true

/-- R527's order in every state: no step moves the lifecycle backward or by two steps, and only FUSE_COMMIT with a
lifecycle write at the front of the writes in progress moves it at all. A committed key, once fused, is never fused
again: no step changes a committed Platform, Vendor or firmware key hash or a committed redaction key (Table 17.3). -/
def Obligations.FusedStateOnlyAdvances : Prop :=
  (∀ s t : State, step s = .next t →
    t.fuses.lifecycle = s.fuses.lifecycle ∨
    (lifecycleCode t.fuses.lifecycle = lifecycleCode s.fuses.lifecycle + 1 ∧
      ∃ q w l, s.pending = .fuseCommit :: q ∧ s.fuseWrites = w :: l ∧ w.item = .lifecycle t.fuses.lifecycle)) ∧
  (∀ s t : State, step s = .next t →
    (∀ k, s.fuses.platformKey = some k → t.fuses.platformKey = some k) ∧
    (∀ k, s.fuses.vendorKey = some k → t.fuses.vendorKey = some k) ∧
    (∀ k, s.fuses.fwKey = some k → t.fuses.fwKey = some k) ∧
    (∀ k, s.fuses.redactKey = some k → t.fuses.redactKey = some k))


/-- The sequence numbers of R613 follow 0xFFFF with 1 and never take zero. -/
def Obligations.SequenceNumbersSkipZero : Prop :=
  nextSeq 0xFFFF = 1 ∧ ∀ n : BitVec 16, n ≠ 0xFFFF → nextSeq n = n + 1 ∧ nextSeq n ≠ 0

/-- Every step leaves every core whole: eight engines, whatever is commanded; the state after reset has that form. -/
def Obligations.StepKeepsCoresWhole : Prop :=
  coresWhole State.reset = true ∧ ∀ s t, coresWhole s = true → step s = .next t → coresWhole t = true

/-- MAILBOX_POLL (R488): while the hub serves the mailboxes are polled in ascending number, and otherwise nothing happens. A
mailbox that is not SEALED, or whose command is not yet answered, is left as it is. Of a SEALED one the seal becomes TAKEN, and its
command, SEQ, NOTIFY and LEN bytes of parameters are taken for the principal bound to it at the chip debug level, with the mark
that LEN exceeds 4,032, or that CHECK fails, or neither (R487). -/
def Obligations.MailboxPollTakesInAscendingOrder : Prop :=
  (∀ s, serving s = true → exec .mailboxPoll s = .next ((List.range 16).foldl pollMailbox s)) ∧
  (∀ s, serving s = false → exec .mailboxPoll s = .next s) ∧
  (∀ s m, (bits (memWord (4096 * m) s.mb.mem) 3 0 ≠ 1 ∨ (takenOf s (.mailbox (BitVec.ofNat 4 m))).isSome = true) →
    pollMailbox s m = s) ∧
  (∀ s m, m < 16 →
    let sw := memWord (4096 * m) s.mb.mem
    let head := memWord (4096 * m + 8) s.mb.mem
    let len := bits head 31 16
    let held := { s with mb := { s.mb with mem := memWriteWords (4096 * m) [takenSeal sw] s.mb.mem } }
    let take := fun mark => takeRequest (.mailbox (BitVec.ofNat 4 m)) (fieldB 16 head 48) (fieldB 16 sw 16) (bit head 0)
      (mailboxWho held m) s.protect.debug (wordsOf (memBytes (4096 * m + 64) (min len 4032) s.mb.mem)) mark held
    bits sw 3 0 = 1 → takenOf s (.mailbox (BitVec.ofNat 4 m)) = none →
    (4032 < len → pollMailbox s m = take (some false)) ∧
    (len ≤ 4032 → requestCheck m (bits sw 31 16) len s.mb.mem ≠ fieldB 32 sw 32 → pollMailbox s m = take (some true)) ∧
    (len ≤ 4032 → requestCheck m (bits sw 31 16) len s.mb.mem = fieldB 32 sw 32 → pollMailbox s m = take none))

/-- R490 and R492: HELLO answers VERSION with 3 and 4 when min(MAX_LEVEL, 4) is below max(MIN_LEVEL, 3). Otherwise a well-formed
HELLO on a path that is open to it, whose SETCOORD, if set, is allowed and no bad argument, answers OK with that level, the
identity and STATUS; its own mailbox, and no other, takes the level in place of the one it had, and with SETCOORD the chip its
coordinates. The levels survive observation reset, as the retention SRAM does. -/
def Obligations.HelloSetsTheProtocolLevel : Prop :=
  (∀ (via : Via) (minL maxL : BitVec 8) (setcoord : Bool) (x dimx : BitVec 6) (y z dimy dimz : BitVec 5) (s : State),
    let i := Instr.hello via minL maxL setcoord x y z dimx dimy dimz
    let b := begun via 0x0001 i s
    let l := min maxL.toNat 4
    let c : Coord := { x := x, y := y, z := z, dimx := dimx, dimy := dimy, dimz := dimz }
    (startCall via 0x0001 i s).isSome = true →
    (l < max minL.toNat 3 → exec i s = .next (respond via rVersion [3, 4] b)) ∧
    (max minL.toNat 3 ≤ l → wellTaken via b = true → helloShut b via = false →
      (setcoord = true → holds .opPlatVen (whoOf b via) = true ∧ setcoordBad b c = false) →
      ∃ r : State, exec i s = .next (respond via rOk [wn l, identityWord r,
          pk [(0, 4, fwCode r.fw.state), (4, 1, b2n (basic r)), (5, 1, b2n r.mb.coord.isSome)]] r) ∧
        r.mb.coord = (if setcoord then some c else b.mb.coord) ∧
        (∀ m, via = .mailbox m → r.mb.levels = b.mb.levels.set m.toNat (BitVec.ofNat 8 l) ∧
          r.mb.hello = b.mb.hello.set m.toNat true) ∧
        ((∀ m, via ≠ .mailbox m) → r.mb.levels = b.mb.levels ∧ r.mb.hello = b.mb.hello) ∧
        r.mb.mem = b.mb.mem ∧ r.mb.taken = b.mb.taken ∧ r.cores = b.cores ∧ r.protect = b.protect ∧ r.time = b.time)) ∧
  ∀ (ties : TieOffs) (u : State), (obsRelease ties u).mb.levels = u.mb.levels

/-- CAPS (R493) answers OK with the words of its part and changes nothing else. EVENT_RING_SET with aligned BASE and LOG2 from
16 to 26 (R498) answers OK: BASE, LOG2 and ENABLE are set, the hold ends, an event whose write was in flight is at the head of the
queue again, and with ENABLE the offsets WRITE, READ and DROPPED are zero. EVENT_RING_WRITE (R500): with the ring enabled and
not held, its last write answered, room for an entry and no OVERFLOW to write first, the oldest event of the queue is
requested to be written past WRITE and leaves the queue; with no event nothing happens. EVENT_RING_READ_POLL takes the
host's READ while the ring is enabled and the governor's window has room for the read. -/
def Obligations.CapabilityAndEventRingCommandsComplete : Prop :=
  ((∀ via s, accepted via 0x0002 (.capsSummary via) true s = true →
    let b := begun via 0x0002 (.capsSummary via) s
    denied b via .everyone .sealedLevel = false →
    exec (.capsSummary via) s = .next (respond via rOk (capsSummaryWords b via) b)) ∧
  (∀ via first s, accepted via 0x0002 (.capsPresence via first) true s = true →
    let b := begun via 0x0002 (.capsPresence via first) s
    denied b via .opPlatVen .sealedLevel = false →
    exec (.capsPresence via first) s = .next (respond via rOk (pk [(0, 32, 8192), (32, 16, first.toNat)] ::
      pairWords ((List.range (min 1000 (8192 - first.toNat))).map fun k => presenceEntry b (first.toNat + k))) b)) ∧
  (∀ via s, accepted via 0x0002 (.capsIazan via) true s = true →
    let b := begun via 0x0002 (.capsIazan via) s
    denied b via .opPlatVen .sealedLevel = false →
    exec (.capsIazan via) s = .next (respond via rOk
      (pk [(32, 32, b.iz.lateRsp.toNat), (17, 15, b.iz.tracker.length), (0, 1, b2n b.iz.avoid)] ::
        b.iz.ports.flatMap portWords) b)) ∧
  (∀ via base log2 enable s, accepted via 0x0003 (.eventRingSet via base log2 enable) true s = true →
    let b := begun via 0x0003 (.eventRingSet via base log2 enable) s
    denied b via .opPlat .sealedLevel = false → base.toNat % 4096 = 0 → 16 ≤ log2.toNat → log2.toNat ≤ 26 →
    ∃ r, exec (.eventRingSet via base log2 enable) s = .next (respond via rOk [] r) ∧
      r.events.base = (base >>> 12).setWidth 52 ∧ r.events.log2 = log2 ∧ r.events.enabled = enable ∧
      r.events.held = false ∧ r.events.queue = b.events.flying.toList ++ b.events.queue ∧ r.events.flying = none ∧ r.events.line = b.events.line ∧
      (enable = true → r.events.write = 0 ∧ r.events.read = 0 ∧ r.events.dropped = 0 ∧ r.events.wait = some .control) ∧
      (enable = false → r.events.write = b.events.write ∧ r.events.wait = none) ∧
      r.cores = b.cores ∧ r.mb = b.mb ∧ r.ctxs = b.ctxs ∧ r.narrow = b.narrow)) ∧
  ((∀ s e q, serving s = true → s.events.enabled = true → s.events.held = false → s.events.wait = none →
    ringHasRoom s = true → s.events.overflow = none → s.events.queue = e :: q →
    exec .eventRingWrite s = .next (hmAsk
      { purpose := .eventEntry e.line, cls := .ring, wr := true, addr := wn (ringBase s + 128 + s.events.write)
        bytes := 128, data := eventWords e }
      { s with events := { s.events with queue := q, wait := some (.entry e.line), flying := some e } })) ∧
  (∀ s, s.events.overflow = none → s.events.queue = [] → exec .eventRingWrite s = .next s) ∧
  (∀ read s, serving s = true → s.events.enabled = true → readFits s = true →
    exec (.eventRingReadPoll read) s = .next (readMetered { s with events := { s.events with read := read.toNat } })))


/-- CTX_DEFINE (R496): from an issuer with the right, with SECURE and PRIVILEGED allowed (R513), an existing domain, a range
within 65,535 and none of it defined, it answers OK; every context of the range is then defined with that ATTR, its counters
and its progress word zero, every other context is as it was, and nothing but the context table changes. CTX_RETIRE (R497): with at
least one defined context in the range, it answers OK, or PARTIAL with the count of undefined ones; the defined contexts of the
range are then retired and keep every other field, every other context is as it was, and nothing but the table changes. -/
def Obligations.ContextCommandsComplete : Prop :=
  (∀ via first count attr s, accepted via 0x0010 (.ctxDefine via first count attr) false s = true →
    let b := begun via 0x0010 (.ctxDefine via first count attr) s
    denied b via .opPlat .sealedLevel = false →
    (bit attr 8 = true → (b.fuses.lifecycle = .provision ∨ b.fuses.lifecycle = .deployed) ∧ b.fuses.redactKey ≠ none) →
    (bit attr 9 = true → fieldB 8 attr 0 = 0) → domainExists b (fieldB 8 attr 0) = true → 0 < count.toNat → first.toNat + count.toNat ≤ 65536 →
    definedIn b first.toNat count.toNat = [] →
    ∃ ctxs, exec (.ctxDefine via first count attr) s = .next (respond via rOk [] { b with ctxs := ctxs }) ∧
      ∀ k, tget k ctxs = if first.toNat ≤ k ∧ k < first.toNat + count.toNat
        then some { defined := true, attr := pk [(0, 10, attr.toNat)], busy := 0, done := 0, aborted := 0, error := 0, sweeps := 0 }
        else tget k b.ctxs) ∧
  (∀ via first count s, accepted via 0x0011 (.ctxRetire via first count) false s = true →
    let b := begun via 0x0011 (.ctxRetire via first count) s
    let ds := definedIn b first.toNat count.toNat
    denied b via .opPlat .sealedLevel = false → first.toNat + count.toNat ≤ 65536 → ds ≠ [] →
    ∃ ctxs, exec (.ctxRetire via first count) s = .next (if ds.length = count.toNat
        then respond via rOk [] { b with ctxs := ctxs }
        else respond via rPartial [wn (count.toNat - ds.length)] { b with ctxs := ctxs }) ∧
      ∀ k, tget k ctxs = (tget k b.ctxs).map fun x => if k ∈ ds then { x with defined := false } else x)

/-- CNT_CONFIG (R128): the full sets of the named engines are switched, from zero where switched on, and the answer is OK, or PARTIAL
naming the engines whose core's clock is away. PAIL_CONFIG (R136): the set takes the configuration, with its issuer's domain and the
GT of acceptance, as the one that waits, at once where no sample is open and none waits to be published, and the answer is OK with
the projected rate, zero where it disables. TRACE_CONFIG (R152): ENABLE 0 answers OK at once where no session runs and otherwise ends
the session; ENABLE 1 starts a session with the parameters at the hub's GT and answers OK, or, while one with the same sink runs,
replaces its parameters, but for the ring's size, and answers OK. -/
def Obligations.CounterPailAndTraceCommandsComplete : Prop :=
  (∀ via a m full s, accepted via 0x0020 (.cntConfig via a m full) false s = true →
    let b := begun via 0x0020 (.cntConfig via a m full) s
    denied b via .opPlatVen .observe = false → setBadArg b a m 0 = false → setBadUnit b a m 0 = false →
    let es := enginesIn b a m
    let away := es.filter fun q => ((coreOf b q.1).map fun co => co.quietStamp.isSome || co.clockStopped).getD false
    let r := es.foldl (fun s q => refreshCrossed q.1 (setFull full q.1 q.2 s)) (if full then truncateTrace b else b)
    exec (.cntConfig via a m full) s = .next (if away = [] then respond via rOk [] r
      else respond via rPartial (away.map fun q => (fullAddr r (engAddr q.1 q.2)).setWidth 64) r)) ∧
  (∀ via (p : PailParams) s, accepted via 0x0021 (.pailConfig via p) true s = true →
    let b := begun via 0x0021 (.pailConfig via p) s
    let who := whoOf b via
    denied b via .everyone (if p.enable && (decide (p.kind = 1) || p.cmd) then .observe else .sealedLevel) = false →
    (isTenant who = true → (p.enable = true → p.kind = 2 ∧ p.cmd = false ∧ pailCtxs b p (domainOf who) ≠ []) ∧
      ((pailCfg (pailSet b p.set)).isSome = true → pailHolder (pailSet b p.set) = domainOf who)) →
    (p.enable = true → (basic b = true → p.kind ≠ 1 ∧ (p.kind = 0 → p.ext = false)) ∧ pailRangeBad b p = false ∧ overBudget b p = false ∧
      (p.kind ≠ 2 → setBadUnit b p.addr p.mask 1 = false)) →
    let r := modSet p.set (fun ps => { ps with next := some (p, domainOf who, !isNarrow via, hubGt b) }) b
    exec (.pailConfig via p) s = .next (respond via rOk [wn (if p.enable then pailRate b p else 0)]
      (if (pailSet r p.set).sample = none ∧ (pailSet r p.set).publish = none then pailTakeNext p.set r else r))) ∧
  (∀ via (p : TraceParams) s, accepted via 0x0022 (.traceConfig via p) false s = true →
    let b := begun via 0x0022 (.traceConfig via p) s
    denied b via .opPlatVen .observe = false →
    (p.enable = false → b.trace.enabled = false → exec (.traceConfig via p) s = .next (respond via rOk [] b)) ∧
    (p.enable = false → b.trace.enabled = true → exec (.traceConfig via p) s = .next (endSession_ (some via) b)) ∧
    (p.enable = true → inclDenied b via p.incl 0 = false → traceRangeBad b p = false → setBadUnit b p.addr p.mask 0 = false →
      b.trace.stopping = false →
      (b.trace.enabled = false →
        exec (.traceConfig via p) s = .next (respond via rOk [] (tellLeaves (some p) (selectData none (some p) (startSession via p b))))) ∧
      (∀ q, b.trace.enabled = true → b.trace.cfg = some q → q.sink = p.sink → (p.sink = 2 → q.ringBase = p.ringBase) →
        let new := { p with ringLog2 := q.ringLog2 }
        exec (.traceConfig via p) s = .next (respond via rOk [] (tellLeaves (some new) (selectData (some q) (some new)
          { b with trace := { b.trace with cfg := some new, owner := whoOf b via, mailbox := !isNarrow via } })))))) ∧
  (∀ via p s, let t := (startSession via p s).trace
    t.enabled = true ∧ t.cfg = some p ∧ t.start = hubGt s ∧ t.owner = whoOf s via)

/-- TRIG_SET (Table 06.10): LOAD loads the block given, and CLEAR one of zeros, into the leaf of every named cluster and answers OK,
LOAD PARTIAL naming the clusters with a core whose clock is away; CHANNEL sets its cross-trigger channel and answers OK, or
PARTIAL naming the chips it cannot reach; STATUS answers the state of the one cluster's block, the newest where its load is still to
take effect, and changes nothing else. -/
def Obligations.TriggerSetCommandsComplete : Prop :=
  (∀ via a m dsel block s, accepted via 0x0023 (.trigSetLoad via a m dsel block) false s = true →
    let b := begun via 0x0023 (.trigSetLoad via a m dsel block) s
    let w : LeafBlock := { words := block }
    let own : LeafBlock := { words := block, owner := whoOf b via, mailbox := !isNarrow via, dsel := dsel }
    let hard := (List.range 4).any fun q => stopsBy w q && bit (seqWord w q 0) 54
    let wide := (List.range 4).any fun q => bit (seqWord w q 0) 63 && decide (bits (seqWord w q 0) 53 52 = 2)
    denied b via .opPlatVen (if hard then .invasive else .observe) = false → setBadArg b a m 2 = false →
    blockBad b w = false → setBadUnit b a m 2 = false → (wide = true → b.time.diam ≠ none) → slotsShort w = false →
    let r := (clustersIn b a m).foldl (fun s cl => loadBlock own cl s) b
    let away := (clustersIn b a m).filter fun cl => awayWatched r cl 0xFFFF
    exec (.trigSetLoad via a m dsel block) s = .next (if away = [] then respond via rOk [] r
      else respond via rPartial (away.map fun cl => (fullAddr r (clusterAddr cl)).setWidth 64) r)) ∧
  (∀ via a m s, accepted via 0x0023 (.trigSetClear via a m) false s = true →
    let b := begun via 0x0023 (.trigSetClear via a m) s
    let w : LeafBlock := { words := List.replicate 196 0, owner := whoOf b via, mailbox := !isNarrow via }
    denied b via .opPlatVen .observe = false → setBadArg b a m 2 = false → setBadUnit b a m 2 = false →
    exec (.trigSetClear via a m) s =
      .next (respond via rOk [] ((clustersIn b a m).foldl (fun s cl => loadBlock w cl s) b))) ∧
  (∀ via ch ca cm ha hm enable s, accepted via 0x0023 (.trigSetChannel via ch ca cm ha hm enable) false s = true →
    let b := begun via 0x0023 (.trigSetChannel via ch ca cm ha hm enable) s
    denied b via .opPlatVen .observe = false → setBadArg b ca cm 2 = false → setBadUnit b ca cm 2 = false →
    (enable = true → vendorAway b via ha hm = false ∧ setBadArg b ha hm 4 true = false ∧ setBadUnit b ha hm 4 = false) →
    let c : Channel := { caddr := ca, cmask := cm, loaded := true, haddr := ha, hmask := hm, chips := enable }
    let r := { b with triggers := { b.triggers with channels := b.triggers.channels.set ch.toNat c } }
    let away := if enable then chipsShort r ha hm else []
    exec (.trigSetChannel via ch ca cm ha hm enable) s = .next (if away = [] then respond via rOk [] r
      else respond via rPartial (away.map (·.setWidth 64)) r)) ∧
  (∀ via a s, accepted via 0x0023 (.trigSetStatus via a 0xFFFFFF80) false s = true →
    let b := begun via 0x0023 (.trigSetStatus via a 0xFFFFFF80) s
    denied b via .opPlatVen .observe = false → setBadArg b a 0xFFFFFF80 2 = false → setBadUnit b a 0xFFFFFF80 2 = false →
    let cl := ((clustersIn b a 0xFFFFFF80).head?).getD 0
    exec (.trigSetStatus via a 0xFFFFFF80) s = .next (respond via rOk
      (trigStatus (trigOf (if loadWaits b cl then switchBlock cl (newestBlock b cl) b else b) cl)) b))

/-- SKIM_ARM (R227) without a live capture in the named clusters puts the new capture, with an empty input queue, into the leaf of
each of them and answers OK, or PARTIAL naming the clusters with a watched core whose clock is away; CANCEL cancels the capture
of each named cluster and answers OK; SKIM_READ answers the record of the one cluster's capture and changes nothing else. The
capture's rows at the leaf: the oldest element of the input queue is taken once it is settled and waits otherwise; a loaded capture
opens when the leaf's valid GT has reached its opening instant and a closing instant, if it has one, comes later, and stays as
it is before; a live capture with a closing instant that the leaf's valid GT has reached, past which every watched link has
come, takes every element of the queue and then closes, if none of them closed it; before that, and without a closing instant,
nothing happens. -/
def Obligations.SkimCommandsAndRowsComplete : Prop :=
  ((∀ via (p : SkimParams) s, accepted via 0x0024 (.skimArm via p) false s = true →
    let b := begun via 0x0024 (.skimArm via p) s
    denied b via .everyone .observe = false → (isTenant (whoOf b via) = true → tenantSkimOk b via p = true) →
    inclDenied b via p.incl 1 (if p.ctxMask = 0xFFFF then some (ctxDomain b p.ctx.toNat) else none) = false →
    skimRangeBad b p = false → setBadUnit b p.addr p.mask 2 = false →
    (∀ cl ∈ clustersIn b p.addr p.mask, ∀ c, capOf b cl = some c → capLive c = false) →
    let r := (clustersIn b p.addr p.mask).foldl (fun s cl => driveStore cl
      (modLeaf cl (fun l => { l with skim := { cap := some (newCapture via p b), queue := [] } }) s)) b
    let away := (clustersIn b p.addr p.mask).filter fun cl => awayWatched r cl p.cores
    exec (.skimArm via p) s = .next (if away = [] then respond via rOk [] r
      else respond via rPartial (away.map fun cl => (fullAddr r (clusterAddr cl)).setWidth 64) r)) ∧
  (∀ via a m s, accepted via 0x0024 (.skimCancel via a m) false s = true →
    let b := begun via 0x0024 (.skimCancel via a m) s
    denied b via .everyone .observe = false →
    (isTenant (whoOf b via) = true → ∀ cl ∈ clustersIn b a m, ∀ c, capOf b cl = some c → c.who = whoOf b via) →
    setBadArg b a m 2 = false → setBadUnit b a m 2 = false →
    exec (.skimCancel via a m) s =
      .next (respond via rOk [] ((clustersIn b a m).foldl (fun s cl => cancelCapture cl s) b))) ∧
  (∀ via a s cl c, accepted via 0x0025 (.skimRead via a 0xFFFFFF80) false s = true →
    let b := begun via 0x0025 (.skimRead via a 0xFFFFFF80) s
    denied b via .everyone .observe = false → setBadArg b a 0xFFFFFF80 2 = false → setBadUnit b a 0xFFFFFF80 2 = false →
    (clustersIn b a 0xFFFFFF80).head? = some cl → capOf b cl = some c →
    (isTenant (whoOf b via) = true → c.who = whoOf b via) →
    exec (.skimRead via a 0xFFFFFF80) s = .next (respond via rOk (skimRecord b cl c) b))) ∧
  ((∀ (cluster : ClusterIx) s l, tget cluster.toNat s.leaves = some l →
    let cl := cluster.toNat
    (l.skim.queue = [] → exec (.skimElement cluster) s = .next s) ∧
    (∀ x q, l.skim.queue = x :: q → elemSettled s cl x = true → exec (.skimElement cluster) s =
      .next (takeElem cl x (modLeaf cl (fun l => { l with skim := { l.skim with queue := q } }) s))) ∧
    (∀ x q, l.skim.queue = x :: q → elemSettled s cl x = false → exec (.skimElement cluster) s = .next s)) ∧
  (∀ (cluster : ClusterIx) cyc s x, capOf s cluster.toNat = some x →
    let cl := cluster.toNat
    let later := x.closeAt.all fun q => decide (x.openAt < q.1)
    (x.phase = .loaded → leafValid s cl = true → x.openAt ≤ leafGt s cl cyc → later = true →
      exec (.skimCaptureOpen cluster cyc) s = .next (modCap cl (fun c => { c with phase := .isOpen }) s)) ∧
    (x.phase ≠ .loaded ∨ leafValid s cl = false ∨ leafGt s cl cyc < x.openAt ∨ later = false → exec (.skimCaptureOpen cluster cyc) s = .next s)) ∧
  (∀ (cluster : ClusterIx) cyc s l x t cause st, tget cluster.toNat s.leaves = some l → l.skim.cap = some x →
    x.closeAt = some (t, cause, st) →
    let cl := cluster.toNat
    let last := l.skim.queue.foldl (fun s y => takeElem cl y s) s
    let due := capLive x && leafValid s cl && decide (t ≤ leafGt s cl cyc) && watchedPast s cl x.p t
    (due = false → exec (.skimCloseTime cluster cyc) s = .next s) ∧
    (due = true → ((capOf last cl).map capLive).getD false = true →
      exec (.skimCloseTime cluster cyc) s = .next (closeCapture cl cause t last))) ∧
  (∀ (cluster : ClusterIx) cyc s l x, tget cluster.toNat s.leaves = some l → l.skim.cap = some x → x.closeAt = none →
    exec (.skimCloseTime cluster cyc) s = .next s))

/-- CHANMAP_LOAD (R365, R366, R375): LOAD and CLEAR change the named entries and advance MAPVER, CONFIG sets what is not
zero, REPORT and STATUS answer and change nothing else. -/
def Obligations.ChannelMapCommandsComplete : Prop :=
  (∀ via inl addr first count data s, accepted via 0x0026 (.chanmapLoad via inl addr first count data) false s = true →
    let b := begun via 0x0026 (.chanmapLoad via inl addr first count data) s
    denied b via .opPlat .sealedLevel = false → mapRangeBad first count = false → b.hang.load = none →
    (inl = true → count.toNat ≤ 448 → data.length = count.toNat →
      exec (.chanmapLoad via inl addr first count data) s = .next
        (respond via rOk [(bumpMapver (writeMapFrom first.toNat data b)).hang.mapver.setWidth 64]
          (bumpMapver (writeMapFrom first.toNat data b)))) ∧
    (inl = false → exec (.chanmapLoad via inl addr first count data) s = .next (loadPiece { b with hang := { b.hang with
      load := some { via := via, next := first.toNat, left := count.toNat, addr := addr.toNat } } }))) ∧
  (∀ via first count s, accepted via 0x0026 (.chanmapClear via first count) false s = true →
    let b := begun via 0x0026 (.chanmapClear via first count) s
    denied b via .opPlat .sealedLevel = false → mapRangeBad first count = false →
    ∃ r, exec (.chanmapClear via first count) s = .next (respond via rOk [r.hang.mapver.setWidth 64] r) ∧
      (∀ q ∈ r.hang.map, first.toNat ≤ q.1 → q.1 < first.toNat + count.toNat → bit q.2 63 = false) ∧
      (∀ q ∈ b.hang.map, q.2 ≠ 0 → ¬ (first.toNat ≤ q.1 ∧ q.1 < first.toNat + count.toNat) → q ∈ r.hang.map) ∧
      (∀ k ∈ r.hang.mapBad, ¬ (first.toNat ≤ k ∧ k < first.toNat + count.toNat)) ∧
      r = { b with hang := r.hang }) ∧
  (∀ via (knots : BitVec 2) (blockGt period : BitVec 32) (progSweeps : BitVec 16) (actions : BitVec 3) (actWait : BitVec 32) s,
    accepted via 0x0026 (.chanmapConfig via knots blockGt period progSweeps actions actWait) false s = true →
    let b := begun via 0x0026 (.chanmapConfig via knots blockGt period progSweeps actions actWait) s
    denied b via .opPlat .sealedLevel = false → knots ≠ 3 →
    (blockGt = 0 ∨ 4000 ≤ blockGt.toNat ∧ blockGt.toNat ≤ 40000000) →
    (period = 0 ∨ 1000000 ≤ period.toNat ∧ period.toNat ≤ 400000000) →
    (actWait = 0 ∨ 4000000 ≤ actWait.toNat ∧ actWait.toNat ≤ 4000000000) →
    (actions.getLsbD 1 && actions.getLsbD 2) = false → (actions.getLsbD 0 = true → (regionOf b 0).size ≠ 0) →
    ∃ h, exec (.chanmapConfig via knots blockGt period progSweeps actions actWait) s =
        .next (respond via rOk [] { b with hang := h }) ∧
      h.knots = (if knots = 0 then b.hang.knots else decide (knots = 2)) ∧
      h.blockGt = (if blockGt = 0 then b.hang.blockGt else blockGt.toNat) ∧
      h.period = (if period = 0 then b.hang.period else period.toNat) ∧
      h.progSweeps = (if progSweeps = 0 then b.hang.progSweeps else progSweeps.toNat) ∧ h.actions = actions ∧
      h.actWait = (if actWait = 0 then b.hang.actWait else actWait.toNat) ∧ h.map = b.hang.map ∧ h.edges = b.hang.edges ∧
      h.reports = b.hang.reports) ∧
  (∀ via hangId (first : BitVec 16) s r, accepted via 0x0026 (.chanmapReport via hangId first) false s = true →
    let b := begun via 0x0026 (.chanmapReport via hangId first) s
    denied b via .opPlat .sealedLevel = false → (b.hang.reports.find? fun r => r.id == hangId) = some r →
    (first = 0 ∨ first.toNat < r.entries.length / 3) →
    exec (.chanmapReport via hangId first) s =
      .next (respond via rOk (hangWords b r ++ (r.entries.drop (3 * first.toNat)).take 438) b)) ∧
  (∀ via s, accepted via 0x0026 (.chanmapStatus via) false s = true →
    let b := begun via 0x0026 (.chanmapStatus via) s
    denied b via .opPlat .sealedLevel = false → exec (.chanmapStatus via) s = .next (respond via rOk (walkerWords b) b))

/-- STOP_AT (R243 to R247, R262, R263): ARM answers PENDING with the new cut's CUT_ID and T, once the cut is originated;
CANCEL before the least lead ends the cut with nothing stopped and raises its event; REPORT answers the cut's record. -/
def Obligations.StopAtCommandsComplete : Prop :=
  (∀ via a m hard tform t watchdog s, accepted via 0x0030 (.stopAtArm via a m hard tform t watchdog) false s = true →
    let b := begun via 0x0030 (.stopAtArm via a m hard tform t watchdog) s
    let others := namesOther b a m
    let at_ := instantOf b others tform t
    denied b via .opPlatVen (if hard then .invasive else .observe) = false → vendorAway b via a m = false →
    setBadArg b a m 1 true = false → watchdogBad watchdog = false → instantBad b others at_ = false →
    setBadUnit b a m 1 = false → systemBusy b others = false → claimed b a m = false → b.cuts.active.length < 16 →
    exec (.stopAtArm via a m hard tform t watchdog) s = .next (respond via rPending [(newCutId b).setWidth 64, wn at_]
      (originateCut a m hard at_ (defaultWatchdog watchdog) (ownerOf b via) (whoOf b via) b))) ∧
  (∀ via id s x y, accepted via 0x0030 (.stopAtCancel via id) false s = true →
    let b := begun via 0x0030 (.stopAtCancel via id) s
    let r := respond via rOk [] b
    denied b via .opPlatVen .observe = false → keptCut b id = some x → activeCut b id = some y →
    hubGt b + leastLead b y.system ≤ y.t →
    exec (.stopAtCancel via id) s = .next (raiseCut id (cancelCut id
      (if y.system then stopFlood 1 false id 0 y.addr y.mask 0 0 0 r else r)))) ∧
  (∀ via id (first : BitVec 32) s x, accepted via 0x0030 (.stopAtReport via id first) false s = true →
    let b := begun via 0x0030 (.stopAtReport via id first) s
    denied b via .opPlatVen .observe = false → keptCut b id = some x → (first = 0 ∨ first.toNat < x.entries.length) →
    exec (.stopAtReport via id first) s =
      .next (respond via rOk (cutHeader b x ++ (x.entries.drop first.toNat).take 448) b))

/-- STEP (R267 to R271) and RESUME (R275): with none of their refusals a step of form COMMAND, CONTEXT or FIRING begins on the
stopped units it names, a TIME step answers PENDING with its number and the new CUT_ID, and a resume is recorded on its cut
with its instant after answering PENDING. -/
def Obligations.StepAndResumeCommandsComplete : Prop :=
  (∀ via id a m bound s x, accepted via 0x0031 (.stepCommand via id a m bound) false s = true →
    let b := begun via 0x0031 (.stepCommand via id a m bound) s
    firstCode (stepChecks via id a m 0 false (stepBoundBad bound) b) = none → activeCut b id = some x →
    exec (.stepCommand via id a m bound) s =
      .next (beginStep via id .command (stoppedEngines b x a m) [] 0 0 1 (stepBound bound) b)) ∧
  (∀ via id a m ctx rounds bound s x, accepted via 0x0031 (.stepContext via id a m ctx rounds bound) false s = true →
    let b := begun via 0x0031 (.stepContext via id a m ctx rounds bound) s
    firstCode (stepChecks via id a m 0 false (stepBoundBad bound || decide (rounds = 0)) b) = none →
    activeCut b id = some x →
    exec (.stepContext via id a m ctx rounds bound) s =
      .next (beginStep via id .context (stoppedEngines b x a m) [] 0 ctx rounds.toNat (stepBound bound) b)) ∧
  (∀ via id a m steer withEng bound s x, accepted via 0x0031 (.stepFiring via id a m steer withEng bound) false s = true →
    let b := begun via 0x0031 (.stepFiring via id a m steer withEng bound) s
    let es := stoppedEngines b x a m
    firstCode (stepChecks via id a m 1 false (stepBoundBad bound || decide (steer = 0)) b) = none →
    activeCut b id = some x →
    exec (.stepFiring via id a m steer withEng bound) s = .next (beginStep via id .firing (if withEng then es else [])
      (es.map Prod.fst).eraseDups steer 0 1 (stepBound bound) b)) ∧
  (∀ via id a m (delta : Word) s x, accepted via 0x0031 (.stepTime via id a m delta) false s = true →
    let b := begun via 0x0031 (.stepTime via id a m delta) s
    let others := namesOther b a m
    let r := hubGt b + defaultLead b others
    let new := newCutId b
    let y := { bareCut new a m x.hard (r + delta.toNat) x.watchdog (ownerOf b via) true others (whoOf b via) b with
      byStep := some (b.cuts.stepNum, ownerOf b via) }
    let n := respond via rPending [wn b.cuts.stepNum, new.setWidth 64]
      { b with cuts := { b.cuts with stepNum := b.cuts.stepNum + 1, next := nextSeq b.cuts.next } }
    64 ≤ delta.toNat → delta.toNat ≤ 2 ^ 40 → firstCode (stepChecks via id a m 1 true false b) = none →
    b.cuts.active.length < 16 → activeCut b id = some x →
    exec (.stepTime via id a m delta) s = .next (if others
      then stopFlood 3 x.hard id r a m x.watchdog delta (new.setWidth 64) (armTimeStep id new a m r y n)
      else armTimeStep id new a m r y n)) ∧
  (∀ via id a m tform (r : Word) s x, accepted via 0x0032 (.resume via id a m tform r) false s = true →
    let b := begun via 0x0032 (.resume via id a m tform r) s
    let others := namesOther b a m
    let at_ := instantOf b others tform r
    let n := modCut id (fun x => { x with resumes := x.resumes ++ [(a, m, at_, some (ownerOf b via))] })
      (respond via rPending [] b)
    denied b via .opPlatVen .sealedLevel = false → vendorAway b via a m = false → setBadArg b a m 1 true = false →
    keptCut b id = some x → leadShort b others at_ = false → setBadUnit b a m 1 = false → resumeBusy b x a m = false →
    (others = true → b.time.diam ≠ none) →
    exec (.resume via id a m tform r) s =
      .next (if others then stopFlood 2 false id at_ a m 0 0 0 n else n))

/-- STATE_READ and STATE_WRITE (R280) with none of their refusals queue the access on its core; a read of space 16 (R287) is
answered at once from the crock. DUMP_STATUS (R311) of one of the recent dumps answers its status words and changes nothing else.
CHECK_FEED (R336) over bytes of the command or of the on-chip buffer feeds them all and answers; over host memory it records the feed
and asks for its first piece. -/
def Obligations.StateAccessAndStatusCommandsComplete : Prop :=
  (∀ via a space waddr count gen incl s, accepted via 0x0040 (.stateRead via a space waddr count gen incl) false s = true →
    let b := begun via 0x0040 (.stateRead via a space waddr count gen incl) s
    let j := accessJob via b a space.toNat waddr.toNat count.toNat [] false
    firstCode (accessChecks via a space.toNat waddr.toNat count.toNat gen incl false b) = none →
    (space ≠ 16 → exec (.stateRead via a space waddr count gen incl) s = .next (queueJob (addrCore a) j b)) ∧
    (∀ co, space = 16 → coreOf b (addrCore a) = some co →
      exec (.stateRead via a space waddr count gen incl) s = .next (answerAccess via { j with
        got := ((crockWords incl (engOf co (addrEng a))).drop waddr.toNat).take count.toNat, remaining := 0 } b))) ∧
  (∀ via a space waddr count gen incl data s,
    accepted via 0x0041 (.stateWrite via a space waddr count gen incl data) false s = true →
    let b := begun via 0x0041 (.stateWrite via a space waddr count gen incl data) s
    firstCode (accessChecks via a space.toNat waddr.toNat count.toNat gen incl true b) = none →
    exec (.stateWrite via a space waddr count gen incl data) s =
      .next (queueJob (addrCore a) (accessJob via b a space.toNat waddr.toNat count.toNat data true) b)) ∧
  (∀ via id s d, accepted via 0x0044 (.dumpStatus via id) false s = true →
    let b := begun via 0x0044 (.dumpStatus via id) s
    denied b via .opPlatVen .sealedLevel = false → statusOf b id = some d →
    exec (.dumpStatus via id) s = .next (respond via rOk (statusWords b d) b)) ∧
  (∀ via c64 (source : BitVec 2) addr (length : BitVec 32) seed data s,
    accepted via 0x0046 (.checkFeed via c64 source addr length seed data) false s = true →
    let b := begun via 0x0046 (.checkFeed via c64 source addr length seed data) s
    let f : FeedRun := {
      via := via, crc64 := c64, phys := decide (source = 1), run := feedSeed c64 seed, addr := addr.toNat
      left := length.toNat }
    denied b via (if source = 3 then .everyone else .opPlatVen) .sealedLevel = false →
    spanBad b source addr length.toNat data = false → (source = 2 → recordsOf b (whoOf b via) = false ∧ sessionRuns b = false) →
    exec (.checkFeed via c64 source addr length seed data) s = .next
      (if source = 3 then feedOver via c64 (feedRun c64 (feedSeed c64 seed) data) b
       else if source = 2 then feedOver via c64 (feedRun c64 (feedSeed c64 seed) (memBytes addr.toNat length.toNat b.trace.buf)) b
       else feedPiece f { b with check := { b.check with feeds := b.check.feeds ++ [f] } }))

/-- DUMP_START SETUP (R288) answers OK: the governor takes the DECL_BW and SHARE that are not zero, and, unless BASE and
SIZE are both zero, the region has that BASE and SIZE with its images to begin past the control block of 4 KiB. START, and
SCAN_OUT as START of SCAN alone, with none of their refusals answer PENDING with the next DUMP_ID and the offset at which the image
is placed, and then start the dump. CANCEL of a dump that is not over answers OK; a parked one is then abandoned, another ends early with
cause CANCELLED. CHURN of a cut in force that names other chips, by another issuer than the Vendor service, answers PENDING with its
CHURN_ID, records the churn with the chips it waits for, floods, and starts this chip's own part where the cut names it. FAULT_RETRY of a
parked dump answers OK and abandons it or goes on with it; of a pail set or of a trace sink that met a fault it answers OK and
tries again. -/
def Obligations.DumpCommandsComplete : Prop :=
  (∀ via (region : BitVec 4) (base size : Word) (declBw : BitVec 16) (share : BitVec 9) s,
    accepted via 0x0043 (.dumpSetup via region base size declBw share) false s = true →
    let b := begun via 0x0043 (.dumpSetup via region base size declBw share) s
    let align := if region = 0 then 2097152 else 4096
    denied b via .opPlatVen .sealedLevel = false → region.toNat ≤ 8 → share.toNat ≤ 400 →
    (base = 0 ∧ size = 0 ∨ (base.toNat % align = 0 ∧ size.toNat % align = 0 ∧
      (if region = 0 then 67108864 else 65536) ≤ size.toNat ∧ openImages b region = [])) →
    let r := { b with hm := { b.hm with
      declBw := if declBw = 0 then b.hm.declBw else declBw.toNat, share := if share = 0 then b.hm.share else share.toNat } }
    exec (.dumpSetup via region base size declBw share) s = .next (respond via rOk []
      (if base = 0 ∧ size = 0 then r else writeControl region
        (modRegion region (fun _ => { base := base, size := size.toNat, reserved := 4096, write := 4096 }) r)))) ∧
  (∀ via p read s, accepted via 0x0043 (.dumpStart via p 0) false s = true →
    let b := begun via 0x0043 (.dumpStart via p 0) s
    let off := ((placeImage (regionOf b p.region) read (startTotal b p false)).map Prod.fst).getD 0
    firstCode (startChecks via p read b) = none →
    exec (.dumpStart via p read) s = .next (startDump p 0 (ownerOf b via) (whoOf b via) 0 none none read
      (respond via rPending [b.dumps.next.setWidth 64, wn off] b)).2) ∧
  (∀ via (p : DumpParams) read s, accepted via 0x0042 (.scanOut via p 0) false s = true →
    let b := begun via 0x0042 (.scanOut via p 0) s
    let q := { p with content := 0x20 }
    let off := ((placeImage (regionOf b q.region) read (startTotal b q false)).map Prod.fst).getD 0
    firstCode (startChecks via q read b) = none →
    exec (.scanOut via p read) s = .next (startDump q 0 (ownerOf b via) (whoOf b via) 0 none none read
      (respond via rPending [b.dumps.next.setWidth 64, wn off] b)).2) ∧
  (∀ via id s d, accepted via 0x0043 (.dumpCancel via id) false s = true →
    let b := begun via 0x0043 (.dumpCancel via id) s
    denied b via .opPlatVen .sealedLevel = false → dumpOf b id = some d → dumpLive d = true →
    exec (.dumpCancel via id) s = .next (if d.st = .parked then abandonDump id (respond via rOk [] b)
      else pumpDump id (endEarly id 8 (respond via rOk [] b)))) ∧
  (∀ via cutId (content : BitVec 6) (region : BitVec 4) stream tag (deadline : BitVec 32) read s x,
    accepted via 0x0043 (.churn via cutId content region stream tag deadline 0) false s = true →
    let b := begun via 0x0043 (.churn via cutId content region stream tag deadline 0) s
    let id := chipOf b ++ b.dumps.nextChurn
    let here := namesHere b x.addr x.mask
    let dl := if deadline = 0 then 4000000000 else deadline.toNat
    let k : Churn := {
      id := id, owner := ownerOf b via, deadline := hubGt b + dl, region := region
      awaited := chipsNamed b x.addr x.mask ++ (if here then [chipOf b] else []) }
    let n := stopFlood 4 false id 0 x.addr x.mask 0 (pk [(32, 32, cutId.toNat), (0, 32, dl)])
      (pk [(32, 32, tag.toNat), (12, 1, b2n stream), (8, 4, region.toNat), (0, 6, content.toNat)])
      (respond via rPending [id.setWidth 64] { b with dumps := { b.dumps with
        nextChurn := nextSeq b.dumps.nextChurn, churns := b.dumps.churns ++ [k] } })
    (stream = true → levelThree b via = false) →
    denied b via .opPlatVen (if content.getLsbD 5 then .invasive else .observe) = false → whoOf b via ≠ some .vendor →
    content ≠ 0 → region.toNat ≤ 8 → activeCut b cutId = some x → namesOther b x.addr x.mask = true →
    cutInForce b x = true →
    exec (.churn via cutId content region stream tag deadline read) s =
      .next (if here then churnDump cutId id content region false tag (ownerOf b via) (whoOf b via) read n else n)) ∧
  (∀ via (index : BitVec 16) abandon s, 
    (∀ d, accepted via 0x0045 (.faultRetry via 0 index abandon) false s = true →
      let b := begun via 0x0045 (.faultRetry via 0 index abandon) s
      denied b via .opPlatVen .sealedLevel = false → dumpOf b index = some d → d.st = .parked →
      exec (.faultRetry via 0 index abandon) s = .next (if abandon then abandonDump index (respond via rOk [] b)
        else pumpDump index (modDump index (fun d => { d with st := .active, result := 0 }) (respond via rOk [] b)))) ∧
    (accepted via 0x0045 (.faultRetry via 1 index abandon) false s = true →
      let b := begun via 0x0045 (.faultRetry via 1 index abandon) s
      denied b via .opPlatVen .sealedLevel = false → index.toNat < 4 →
      (pailSet b (index.setWidth 2)).fault.isSome = true →
      exec (.faultRetry via 1 index abandon) s = .next (pailRetry (index.setWidth 2) (respond via rOk [] b))) ∧
    (accepted via 0x0045 (.faultRetry via 2 index abandon) false s = true →
      let b := begun via 0x0045 (.faultRetry via 2 index abandon) s
      denied b via .opPlatVen .sealedLevel = false → b.trace.fault.isSome = true →
      exec (.faultRetry via 2 index abandon) s = .next (traceRetry (respond via rOk [] b))))

/-- TEST_LEND (R419): LEND that finds a core to lend marks the cores that can be lent, RECLAIM clears the mark of those not under test,
and the answer is OK, or PARTIAL naming the other cores; CONFIG within its ranges sets the slot limits. TEST_REQUEST STATUS (R421) of
a recent request answers its counts of pending, running and finished jobs and changes nothing else. AUTOFENCE_POLICY: SLOT sets or
clears its slot and restarts its window counts; LIMITS sets the three limits; STATUS answers its words and changes nothing else. -/
def Obligations.SelfTestAndPolicyCommandsComplete : Prop :=
  (∀ via a m s, accepted via 0x0055 (.testLend via a m) false s = true →
    let b := begun via 0x0055 (.testLend via a m) s
    let cs := coresIn b a m
    let ok := cs.filter fun c => ((coreOf b c).map lendable).getD false
    let no := cs.filter fun c => !decide (c ∈ ok)
    let r := modCores ok (fun co => { co with lent := true }) b
    levelThree b via = false → denied b via .opPlatVen .sealedLevel = false → setBadArg b a m 1 = false →
    setBadUnit b a m 1 = false → ok ≠ [] →
    exec (.testLend via a m) s = .next (if no = [] then respond via rOk [] r
      else respond via rPartial (no.map coreWord) r)) ∧
  (∀ via a m s, accepted via 0x0055 (.testReclaim via a m) false s = true →
    let b := begun via 0x0055 (.testReclaim via a m) s
    let cs := coresIn b a m
    let no := cs.filter fun c => underTest b c
    let r := modCores (cs.filter fun c => !decide (c ∈ no)) (fun co => { co with lent := false }) b
    levelThree b via = false → denied b via .opPlatVen .sealedLevel = false → setBadArg b a m 1 = false →
    setBadUnit b a m 1 = false →
    exec (.testReclaim via a m) s = .next (if no = [] then respond via rOk [] r
      else respond via rPartial (no.map coreWord) r)) ∧
  (∀ via (maxChip : BitVec 5) (maxCluster : BitVec 2) s, accepted via 0x0055 (.testSlotConfig via maxChip maxCluster) false s = true →
    let b := begun via 0x0055 (.testSlotConfig via maxChip maxCluster) s
    levelThree b via = false → denied b via .opPlatVen .sealedLevel = false →
    1 ≤ maxChip.toNat → maxChip.toNat ≤ 16 → 1 ≤ maxCluster.toNat → maxCluster.toNat ≤ 2 →
    exec (.testSlotConfig via maxChip maxCluster) s = .next (respond via rOk [] { b with
      test := { b.test with maxChip := maxChip.toNat, maxCluster := maxCluster.toNat } })) ∧
  (∀ via id s run, accepted via 0x0054 (.testStatus via id) false s = true →
    let b := begun via 0x0054 (.testStatus via id) s
    let js := openJobs b id
    let p := (js.filter fun j => decide (j.phase = .pending)).length
    levelThree b via = false → denied b via .opPlatVen .sealedLevel = false → statusRun b id = some run →
    exec (.testStatus via id) s = .next (respond via rOk ([wn p, wn (js.length - p)] ++ run.counts.map wn) b)) ∧
  (∀ via (p : SlotParams) s, accepted via 0x0053 (.autofenceSlot via p) false s = true →
    let b := begun via 0x0053 (.autofenceSlot via p) s
    denied b via .opPlatVen .sealedLevel = false →
    (p.enable = true → setBadArg b p.addr p.mask 1 = false ∧ setBadUnit b p.addr p.mask 1 = false ∧ p.threshold ≠ 0 ∧
      4000 ≤ p.window.toNat ∧ p.window.toNat ≤ 4000000000 ∧ p.action ≠ 3) →
    exec (.autofenceSlot via p) s = .next (respond via rOk [] (restartSlot p.slot.toNat { b with
      autofence := { b.autofence with slots := b.autofence.slots.set p.slot.toNat (if p.enable then some p else none) } }))) ∧
  (∀ via (chipMax : BitVec 14) (partMax : BitVec 11) (rate : BitVec 16) s,
    accepted via 0x0053 (.autofenceLimits via chipMax partMax rate) false s = true →
    let b := begun via 0x0053 (.autofenceLimits via chipMax partMax rate) s
    denied b via .opPlatVen .sealedLevel = false → chipMax.toNat ≤ 8192 → partMax.toNat ≤ 1024 →
    exec (.autofenceLimits via chipMax partMax rate) s = .next (respond via rOk [] { b with autofence := { b.autofence with
      chipMax := chipMax.toNat, partMax := partMax.toNat, rate := rate.toNat } })) ∧
  (∀ via s, accepted via 0x0053 (.autofenceStatus via) false s = true →
    let b := begun via 0x0053 (.autofenceStatus via) s
    denied b via .opPlatVen .sealedLevel = false →
    exec (.autofenceStatus via) s = .next (respond via rOk (autofenceWords b) b))

/-- TEST_REQUEST REQUEST (R421) within its ranges answers PENDING with the next TEST_ID; the test's table gains a job, with the
deadline given or the longest, for every named core that has chains and the type asked for; every other core gets its outcome at
once, and the request completes if no job is left. CANCEL of a request that is not complete answers OK; its pending jobs end
STARVED and its running ones leave scan mode and end ABORTED, by way of a reset of the core where its generation can advance. The
scheduler (R423, R424), while the hub serves with firmware: a pass opens in order the slot of every pending job that may open; at a
deadline expiry every pending job whose deadline has passed ends STARVED; otherwise both do nothing. A job whose slot may not open is
left. TEST_SEQUENCE_END of a core whose job runs gives PASS or FAIL by its signature, leaves scan mode and resets the core, or ends the
job without a reset where the core's generation can advance no further; of a core without a job it does nothing. -/
def Obligations.TestRequestsAndSchedulingComplete : Prop :=
  ((∀ via (p : TestParams) s, accepted via 0x0054 (.testRequest via p) false s = true →
    let b := begun via 0x0054 (.testRequest via p) s
    let d := p.deadline.toNat
    let cs := coresIn b p.addr p.mask
    levelThree b via = false → denied b via .opPlatVen .sealedLevel = false → setBadArg b p.addr p.mask 1 = false →
    1 ≤ p.patterns.toNat → p.patterns.toNat ≤ 4096 → (d = 0 ∨ hubGt b + 1000 ≤ d ∧ d ≤ hubGt b + 2 ^ 40) →
    setBadUnit b p.addr p.mask 1 = false →
    let fit := cs.filter fun c => (atOnce b p c).isNone
    let id := b.test.next
    b.test.jobs.length + fit.length ≤ 1024 →
    ∃ r, exec (.testRequest via p) s = .next (testComplete id (cs.foldl
        (fun s c => match atOnce s p c with
          | none => s
          | some k => testResult c id k 0 false false 0 0 (hubGt b) s)
        (respond via rPending [id.setWidth 64] r))) ∧
      r.test.next = nextSeq id ∧
      r.test.jobs = b.test.jobs ++ fit.map (fun c => ({
        core := c, test := id, deadline := if d = 0 then hubGt b + 2 ^ 40 else d, patterns := p.patterns.toNat
        seed := p.seed, expect := p.expect } : Job)) ∧
      r = { b with test := r.test }) ∧
  (∀ via id s run, accepted via 0x0054 (.testCancel via id) false s = true →
    let b := begun via 0x0054 (.testCancel via id) s
    levelThree b via = false → denied b via .opPlatVen .sealedLevel = false → testRun b id = some run → run.complete = false →
    exec (.testCancel via id) s = .next ((openJobs b id).foldl
      (fun s j => match j.phase with
        | .pending => endJob j 2 0 false false 0 0 s
        | .running g => if coreAdvFull s j.core then endJob j 3 0 true true 0 g (leaveScan true j.core s)
          else requestCoreReset j.core (enterResetting true j.core (leaveScan true j.core { s with test := { s.test with
            jobs := modFirst (fun q => q == j) (fun q => { q with phase := .closing g 3 0 }) s.test.jobs } }))
        | .closing _ _ _ => s) (respond via rOk [] b)))) ∧
  ((∀ s, serving s = true → basic s = false →
    exec .testSchedulerPass s = .next ((pendingJobs s).foldl openSlot s) ∧
    exec .testDeadlineExpiry s = .next (((pendingJobs s).filter fun j => decide (j.deadline ≤ hubGt s)).foldl
      (fun s j => endJob j 2 0 false false 0 0 s) s)) ∧
  (∀ s, serving s = false ∨ basic s = true → exec .testSchedulerPass s = .next s ∧ exec .testDeadlineExpiry s = .next s) ∧
  (∀ s j, slotOpens s j = false → openSlot s j = s) ∧
  (∀ (core : CoreIx) responses s j co g,
    let c := core.toNat
    let sig := signatureOf co.ties.scanChains.toNat responses
    let outcome := if sig = j.expect then 0 else 1
    let b := leaveScan true c s
    jobOn s c = some j → coreOf s c = some co → j.phase = .running g → serving s = true →
    (coreAdvFull b c = true → exec (.testSequenceEnd core responses) s = .next (endJob j outcome 0 true true sig g b)) ∧
    (coreAdvFull b c = false → exec (.testSequenceEnd core responses) s = .next (requestCoreReset c (enterResetting true c
      { b with test := { b.test with
        jobs := modFirst (fun q => q == j) (fun q => { q with phase := .closing g outcome sig }) b.test.jobs } })))) ∧
  (∀ (core : CoreIx) responses s, jobOn s core.toNat = none → exec (.testSequenceEnd core responses) s = .next s))

/-- FENCE, UNFENCE, REOPEN and STATUS of RESET_RUNG complete (R401 to R405, R412). FENCE applies `fenceCore` to every named
core that is neither RESETTING nor FENCED; it answers at once with `answerFence` where no core's acknowledgement is waited for,
and otherwise enters an open fence whose deadline is 8,000 GT after the hub's GT, holding the cores waited for and the cores
refused. UNFENCE applies `unfenceCore` to every named core whose code of R32 is OK and releases the hub's own fences of those
cores; it answers OK with no refused core, FENCED or BUSY where every core is refused, and else PARTIAL with the refused cores
and their codes. REOPEN answers OK and adds one opening, of the present links named (of all for 0), 1,000 GT after the hub's
GT. STATUS answers OK with the number of the last rung and the chip's generation, the eight partitions' generations and
sixteen link words, and changes nothing but its answer. -/
def Obligations.FenceCommandsComplete : Prop :=
  (∀ via a m s, accepted via 0x0050 (.fence via a m) true s = true →
    let b := begun via 0x0050 (.fence via a m) s
    let holdsOf := fun (c : Nat) (k : Core → Bool) => ((coreOf b c).map k).getD false
    let cs := coresIn b a m
    let refused := cs.filter fun c => holdsOf c fun co => decide (coreReports co = 7)
    let fresh := cs.filter fun c => holdsOf c fun co => decide (coreReports co ≠ 7 ∧ co.st ≠ .fenced)
    let waits := fresh.filter fun c => holdsOf c fun co => decide (co.st ≠ .quiet) && !coreGated co
    let r := fresh.foldl (fun s c => fenceCore 3 c s) b
    denied b via .opPlatVen .sealedLevel = false → setBadArg b a m 1 = false → setBadUnit b a m 1 = false →
    (waits = [] → exec (.fence via a m) s = .next (answerFence via refused [] cs.length r)) ∧
    (waits ≠ [] → exec (.fence via a m) s = .next { r with rec_ := { r.rec_ with fences := r.rec_.fences ++
      [{ via := via, due := hubGt r + 8000, waiting := waits, refused := refused }] } })) ∧
  (∀ via a m s, accepted via 0x0051 (.unfence via a m) true s = true →
    let b := begun via 0x0051 (.unfence via a m) s
    let rs := (coresIn b a m).map fun c => (c, ((coreOf b c).map unfenceCode).getD rBusy)
    let no := rs.filter fun q => decide (q.2 ≠ rOk)
    let ok := (rs.filter fun q => decide (q.2 = rOk)).map Prod.fst
    let r := ok.foldl unfenceCore { b with autofence := { b.autofence with
      owned := b.autofence.owned.filter fun c => !decide (c ∈ ok) } }
    denied b via .opPlatVen .sealedLevel = false → setBadArg b a m 1 = false → setBadUnit b a m 1 = false →
    (no = [] → exec (.unfence via a m) s = .next (respond via rOk [] r)) ∧
    (no ≠ [] → no.length = rs.length → exec (.unfence via a m) s =
      .next (respond via (if no.any fun q => decide (q.2 = rFenced) then rFenced else rBusy) [] r)) ∧
    (no ≠ [] → no.length ≠ rs.length → exec (.unfence via a m) s =
      .next (respond via rPartial (codedCores no) r))) ∧
  (∀ via (gen : BitVec 8) (links : BitVec 16) s, accepted via 0x0052 (.reopen via gen links) true s = true →
    let b := begun via 0x0052 (.reopen via gen links) s
    denied b via .opPlatVen .sealedLevel = false → gen = b.gens.chip → findUnit b (fun u => decide (u.rung = 5)) = none →
    exec (.reopen via gen links) s = .next (respond via rOk [] { b with rec_ := { b.rec_ with
      opens := b.rec_.opens ++
        [(hubGt b + 1000, (if links = 0 then b.ties.linkPresent else links &&& b.ties.linkPresent))] } })) ∧
  (∀ via s, accepted via 0x0052 (.resetRungStatus via) true s = true →
    let b := begun via 0x0052 (.resetRungStatus via) s
    denied b via .opPlatVen .sealedLevel = false →
    ∃ links, links.length = 16 ∧ exec (.resetRungStatus via) s = .next (respond via rOk
      ([pk [(48, 16, b.rec_.last.toNat), (0, 8, b.gens.chip.toNat)],
        pk ((List.range 8).map fun p => (8 * p, 8, (partGen b p).toNat))] ++ links) b))

/-- RESET_RUNG APPLY completes for each of the six rungs (R389, R390): where `rungChecks` refuses nothing, rung 1 is applied
to each named core (one that runs no abortable work counts as done), 2 to each named engine, 3 to each named core, 4 to each
named partition, 5 to the chip; rung 6 leaves the tray's request and its reason on the sideband and waits for the tray under
its RUNG_ID. `applyRung`, in which each is stated, enters a record with the next RUNG_ID, the rung and the hub's GT, makes that
number the last one and steps the next one, answers PENDING with it, ends the loan of the named cores' engines (but for rung
2), and then runs the rung's own act and `rungSettle` on the result. -/
def Obligations.RungsComplete : Prop :=
  (∀ via (p : RungParams) s,
    (accepted via 0x0052 (.contextAbort via p) true s = true →
      let b := begun via 0x0052 (.contextAbort via p) s
      firstCode (rungChecks via 1 p b) = none →
      exec (.contextAbort via p) s = .next (applyRung via 1 p (fun id s => (coresIn s p.addr p.mask).foldl
        (fun s c => if abortable s c then applyRung1 id c s else modRung id (creditUnits [coreAddr c]) s) s) b)) ∧
    (accepted via 0x0052 (.engineReset via p) true s = true →
      let b := begun via 0x0052 (.engineReset via p) s
      firstCode (rungChecks via 2 p b) = none →
      exec (.engineReset via p) s = .next (applyRung via 2 p (fun id s => (enginesIn s p.addr p.mask).foldl
        (fun s q => applyRung2 id [engAddr q.1 q.2] q.1 q.2 s) s) b)) ∧
    (accepted via 0x0052 (.coreFenceAndReset via p) true s = true →
      let b := begun via 0x0052 (.coreFenceAndReset via p) s
      firstCode (rungChecks via 3 p b) = none →
      exec (.coreFenceAndReset via p) s = .next (applyRung via 3 p (fun id s => (coresIn s p.addr p.mask).foldl
        (fun s c => applyRung3 id [coreAddr c] c s) s) b)) ∧
    (accepted via 0x0052 (.partitionReset via p) true s = true →
      let b := begun via 0x0052 (.partitionReset via p) s
      firstCode (rungChecks via 4 p b) = none →
      exec (.partitionReset via p) s = .next (applyRung via 4 p (fun id s => (partsIn s p.addr p.mask).foldl
        (fun s q => applyRung4 id [coreAddr (q * 1024)] q s) s) b)) ∧
    (accepted via 0x0052 (.chipComputeReset via p) true s = true →
      let b := begun via 0x0052 (.chipComputeReset via p) s
      firstCode (rungChecks via 5 p b) = none →
      exec (.chipComputeReset via p) s = .next (applyRung via 5 p (fun id s => applyRung5 id [0] s) b)) ∧
    (accepted via 0x0052 (.trayPowerCycle via p) true s = true →
      let b := begun via 0x0052 (.trayPowerCycle via p) s
      firstCode (rungChecks via 6 p b) = none →
      ∃ t, exec (.trayPowerCycle via p) s = .next t ∧ t.rec_.tray.request = trayRequest b p.reason ∧
        t.rec_.tray.reason = some p.reason ∧ (t.rec_.tray.waits.map Prod.fst) = some b.rec_.next)) ∧
  (∀ via k p act s, ∃ (r : Rung) (x : State), r.id = s.rec_.next ∧ r.rung = k ∧ r.accept = hubGt s ∧
    x = respond via rPending [s.rec_.next.setWidth 64] { s with rec_ := { s.rec_ with
      next := nextSeq s.rec_.next, last := s.rec_.next, rungs := s.rec_.rungs ++ [r] } } ∧
    applyRung via k p act s = rungSettle s.rec_.next (act s.rec_.next
      (if k = 2 then x else modCores (coresIn x p.addr p.mask) (fun co => { co with lent := false }) x)))

/-- TIME_CAL and its exchanges complete (R57, R59 to R61, R64, R65, R69, R470).
A START that names this hub is `rootCal`, on the GT of ROOT_GT where SETROOT is given in FREE; one that names another chip of
the torus answers PENDING and begins a calibration on `childPort`, or with no trained port ends at once in `treeDone`. A LINK of
this hub's parent port begins a calibration that answers when it ends; a LINK of another chip's tree link answers OK with free
words; a SWEEP is `rootCal` on a root, begins a calibration on a child and ends at once with no parent. `rootCal` leaves a hub
at depth 0, root, calibrated, with no slew, LOCKED unless its reference is lost; it answers PENDING, and then ends in `treeDone`
or waits as root for its tree.
While one runs on a port, TIME_EXCHANGE sends the next of sixteen requests once 4,000 GT have passed since the last and keeps
its number, and does nothing otherwise; a trained port of a serving hub answers TIME_REQ_RECEIVE with its T2 and T3, any other
does nothing; TIME_RSP_RECEIVE of an outstanding request, from a LOCKED neighbour or for a link only measured, keeps one
exchange, the sixteenth runs `finishCal`, any other response does nothing; TIME_CAL_TIMEOUT before the deadline does nothing,
and from then on ends the calibration through `abortCal`, with TIMEOUT where a command waits for it. -/
def Obligations.TimeCalibrationComplete : Prop :=
  ((∀ via root setroot rootGt s, accepted via 0x0060 (.timeCalStart via root setroot rootGt) false s = true →
    let b := begun via 0x0060 (.timeCalStart via root setroot rootGt) s
    let n := { b with time := { b.time with root := false, parentPort := none } }
    denied b via .opPlat .sealedLevel = false → inTorus b root = true → b.time.cal = none →
    (root = chipOf b → exec (.timeCalStart via root setroot rootGt) s =
      .next (rootCal 0 via (if setroot && decide (b.time.state = .free) then setRootGt rootGt b else b))) ∧
    (root ≠ chipOf b → childPort b.free n = none → exec (.timeCalStart via root setroot rootGt) s =
      .next (treeDone 0 (treeWords 0 b.free [unreachedEntry n 0] 0 0 n) (ownerOf n via) none
        (respond via rPending [] { n with free := b.free + 1 }))) ∧
    (∀ p, root ≠ chipOf b → childPort b.free n = some p → exec (.timeCalStart via root setroot rootGt) s =
      .next (beginCal 0 none (ownerOf n via) p false false (respond via rPending [] n)))) ∧
  (∀ via chip port s, accepted via 0x0060 (.timeCalLink via chip port) false s = true →
    let b := begun via 0x0060 (.timeCalLink via chip port) s
    denied b via .opPlat .sealedLevel = false → b.time.cal = none →
    (chip = chipOf b → b.time.parentPort = some port →
      exec (.timeCalLink via chip port) s = .next (beginCal 1 (some via) (ownerOf b via) port.toNat false false b)) ∧
    (chip ≠ chipOf b → inTorus b chip = true → Config.calIsTreeLink b.free = true →
      ∃ ws, exec (.timeCalLink via chip port) s =
        .next (respond via rOk ws { b with free := b.free + 1, time := { b.time with result := ws } }))) ∧
  (∀ via s, accepted via 0x0060 (.timeCalSweep via) false s = true →
    let b := begun via 0x0060 (.timeCalSweep via) s
    denied b via .opPlat .sealedLevel = false → b.time.cal = none →
    (b.time.root = true → exec (.timeCalSweep via) s = .next (rootCal 2 via b)) ∧
    (b.time.root = false → b.time.parentPort = none → exec (.timeCalSweep via) s =
      .next (treeDone 2 (treeWords 2 b.free [] 0 0 b) (ownerOf b via) none
        (respond via rPending [] { b with free := b.free + 1 }))) ∧
    (∀ p, b.time.root = false → b.time.parentPort = some p → exec (.timeCalSweep via) s =
      .next (beginCal 2 none (ownerOf b via) p.toNat false false (respond via rPending [] b)))) ∧
  (∀ mode via s, ∃ x : State, x.time.root = true ∧ x.time.depth = 0 ∧ x.time.calibrated = true ∧ x.time.slew = 0 ∧
    (s.time.refLost = false → x.time.state = .locked) ∧ (s.time.refLost = true → x.time.state = s.time.state) ∧
    let y := respond via rPending [] x
    (rootCal mode via s = treeDone mode (treeWords mode s.free [] 0 0 y) (ownerOf s via) none y ∨
      ∃ c : Calibration, c.isRoot = true ∧ rootCal mode via s = { y with time := { y.time with cal := some c } }))) ∧
  ((∀ port depart s c, s.time.cal = some c →
    let now := hubAt s depart
    (c.port = port → c.isRoot = false → c.nextExch < 16 → basic s = false → (∀ t, c.lastSend = some t → t + 4000 ≤ now) →
      exec (.timeExchange port depart) s = .next (sendAt now port.toNat false
        (mkFrame s (portOf s port.toNat).neighbour 0x20 0 2 [wn c.nextExch, 0] 16)
        { s with time := { s.time with cal := some { c with
          nextExch := c.nextExch + 1, lastSend := some now, sent := c.sent ++ [BitVec.ofNat 4 c.nextExch] } } })) ∧
    (c.port ≠ port ∨ c.isRoot = true ∨ 16 ≤ c.nextExch ∨ basic s = true ∨ (∃ t, c.lastSend = some t ∧ now < t + 4000) →
      exec (.timeExchange port depart) s = .next s)) ∧
  (∀ port depart s, s.time.cal = none → exec (.timeExchange port depart) s = .next s) ∧
  (∀ (port : BitVec 3) exch t1 arrive depart s,
    (serving s = true → trained s port.toNat = true →
      ∃ f : Frame, exec (.timeReqReceive port exch t1 arrive depart) s = .next (sendAt (hubAt s depart) port.toNat false f
        { s with iz := { s.iz with timeAnswers := s.iz.timeAnswers + 1 } }) ∧ f.hdr.resp = true ∧ f.hdr.type = 0x21 ∧
        f.payload = [pk [(0, 4, exch.toNat), (8, 4, timeStateCode s.time.state), (16, 8, s.time.depth.toNat)], t1,
          wn (hubAt s arrive), 0, (s.time.asym.getD port.toNat 0).setWidth 64]) ∧
    (serving s = false ∨ trained s port.toNat = false → exec (.timeReqReceive port exch t1 arrive depart) s = .next s)) ∧
  (∀ port exch pst depth (t1 t2 t3 : Word) corr arrive pre s c, s.time.cal = some c → c.port = port → exch ∈ c.sent →
    pst = 2 ∨ c.measureOnly = true →
    ∃ (e : Exchange) (c' : Calibration), e.fwd = (t2.toNat : Int) - t1.toNat ∧ e.rev = (hubAt s arrive : Int) - t3.toNat ∧
      c' = { c with got := c.got ++ [e], sent := c.sent.filter (· ≠ exch), depth := depth } ∧
      (c.got.length < 15 → exec (.timeRspReceive port exch pst depth t1 t2 t3 corr arrive pre) s =
        .next { s with time := { s.time with cal := some c' } }) ∧
      (15 ≤ c.got.length → exec (.timeRspReceive port exch pst depth t1 t2 t3 corr arrive pre) s =
        .next (nextRetrained (finishCal c' s)))) ∧
  (∀ port exch (pst : BitVec 4) depth t1 t2 t3 corr arrive pre s,
    (s.time.cal = none ∨ (∃ c, s.time.cal = some c ∧ (c.port ≠ port ∨ exch ∉ c.sent ∨ (pst ≠ 2 ∧ c.measureOnly = false)))) →
    exec (.timeRspReceive port exch pst depth t1 t2 t3 corr arrive pre) s = .next s) ∧
  (∀ s, s.time.cal = none → exec .timeCalTimeout s = .next s) ∧
  (∀ s c, s.time.cal = some c →
    (hubGt s < c.deadline → exec .timeCalTimeout s = .next s) ∧
    (c.deadline ≤ hubGt s → c.automatic = true → exec .timeCalTimeout s = .next (nextRetrained (abortCal s))) ∧
    (c.deadline ≤ hubGt s → c.automatic = false → ∀ v, c.via = some v → exec .timeCalTimeout s =
      .next (nextRetrained (respond v rTimeout [] (abortCal s)))) ∧
    (c.deadline ≤ hubGt s → c.automatic = false → c.via = none → ∃ ws, exec .timeCalTimeout s =
      .next (nextRetrained (treeDone c.mode.toNat ws c.owner (if c.mode = 0 then some rTimeout else none) (abortCal s))))))

/-- WINDOW_OPEN, WINDOW_CLOSE and REMOTE complete (R461 to R467). An accepted WINDOW_OPEN of a closed window with no write in
it gives the window its base, size and allowed set, WGEN one higher and counts of zero, and answers OK with that WGEN. An
accepted WINDOW_CLOSE of an open window marks it closed at the hub's GT with this answer owing, and `windowClosed` gives that
answer where nothing is awaited. An accepted REMOTE is `sendRemote` with the words of its OP: for CMD the command word and the
inner words, for WRITE the window, its generation, the byte count, the offset and the data. -/
def Obligations.WindowAndRemoteCommandsComplete : Prop :=
  (∀ via (win : BitVec 6) (base size : Word) aaddr amask s,
    accepted via 0x0061 (.windowOpen via win base size aaddr amask) false s = true →
    let b := begun via 0x0061 (.windowOpen via win base size aaddr amask) s
    let g := (windowOf b win).wgen + 1
    levelThree b via = false → denied b via .opPlat .sealedLevel = false →
    base.toNat % 4096 = 0 → size.toNat % 4096 = 0 → size ≠ 0 → size.toNat ≤ 2 ^ 40 → setBadArg b aaddr amask 4 true = false →
    (amask >>> 16 = 0 ∨ inTorus b ((aaddr >>> 16).setWidth 16) = true) →
    (windowOf b win).isOpen = false → (windowOf b win).closing = none → (windowOf b win).admitted = 0 →
    exec (.windowOpen via win base size aaddr amask) s = .next (respond via rOk [g.setWidth 64] (modWindow win (fun w => { w with
      wgen := g, isOpen := true, everOpened := true, base := base, size := size, aaddr := aaddr, amask := amask
      completed := 0, rejected := 0 }) b))) ∧
  (∀ via win s, accepted via 0x0062 (.windowClose via win) false s = true →
    let b := begun via 0x0062 (.windowClose via win) s
    levelThree b via = false → denied b via .opPlat .sealedLevel = false → (windowOf b win).isOpen = true →
    exec (.windowClose via win) s = .next (windowClosed win (modWindow win (fun w => { w with
      isOpen := false, closedAt := hubGt b, closing := some via }) b))) ∧
  (∀ via target notify (cmd : BitVec 16) genchk gen timeout (inner : List Word) s,
    accepted via 0x0063 (.remoteCmd via target notify cmd genchk gen timeout inner) false s = true →
    let b := begun via 0x0063 (.remoteCmd via target notify cmd genchk gen timeout inner) s
    let ws := pk [(2, 1, b2n notify), (16, 16, cmd.toNat)] :: inner
    cmd ≠ 0x0001 → cmd ≠ 0x0003 → cmd ≠ 0x0063 → inner.length ≤ 443 →
    firstCode (remoteChecks via target timeout 1 false b) = none →
    exec (.remoteCmd via target notify cmd genchk gen timeout inner) s =
      .next (sendRemote via target genchk gen timeout 1 ws (8 * ws.length) b)) ∧
  (∀ via target genchk gen timeout (win : BitVec 6) (wgen : BitVec 8) (bytes : BitVec 32) (offset : Word) (data : List Word) s,
    accepted via 0x0063 (.remoteWrite via target genchk gen timeout win wgen bytes offset data) false s = true →
    let b := begun via 0x0063 (.remoteWrite via target genchk gen timeout win wgen bytes offset data) s
    let n := bytes.toNat
    1 ≤ n → n ≤ 3528 → data.length = (n + 7) / 8 → firstCode (remoteChecks via target timeout 2 false b) = none →
    exec (.remoteWrite via target genchk gen timeout win wgen bytes offset data) s =
      .next (sendRemote via target genchk gen timeout 2
        ([pk [(0, 2, 1)], pk [(32, 32, n), (8, 8, wgen.toNat), (0, 6, win.toNat)], offset] ++ data) (24 + n) b))

/-- PROTECT_PROPOSE with OP NONCE, PROTECT_PROPOSE and LIFECYCLE_ADVANCE complete (R519 to R522, R525). An accepted NONCE answers
OK with the drawn nonce and the hub's GT and keeps it beside at most three of the nonces still live, all of them where fewer
than four live. An accepted PROTECT_PROPOSE or LIFECYCLE_ADVANCE is `propose`; where the sender is an Operator or Platform, the
lifecycle is not RETURNED, and every listed check of the descriptor, its signature, its nonce and its change holds with no
proposal open, `propose` answers NEEDS_SECOND_PARTY with the next PROPOSAL_ID and the expiry, removes the nonce, opens the
proposal with its expiry 40,000,000,000 GT after the hub's GT, and steps the next PROPOSAL_ID. -/
def Obligations.ProposalsComplete : Prop :=
  (∀ via s, accepted via 0x0070 (.protectNonce via) false s = true →
    let b := begun via 0x0070 (.protectNonce via) s
    let n := Config.freeNonce b.free
    denied b via .opPlat .sealedLevel = false → b.fuses.lifecycle ≠ .returned →
    ∃ kept, exec (.protectNonce via) s = .next (respond via rOk [n.setWidth 64, (n >>> 64).setWidth 64, wn (hubGt b)]
        { b with free := b.free + 1, protect := { b.protect with nonces := kept ++ [(n, hubGt b)] } }) ∧
      kept.length ≤ 3 ∧ (∀ k ∈ kept, k ∈ liveNonces b) ∧ ((liveNonces b).length < 4 → kept = liveNonces b)) ∧
  (∀ via lifecycle d key sig extra b who, whoOf b via = some who →
    let live := liveNonces b
    let b1 := { b with protect := { b.protect with nonces := live.filter fun n => !(n.1 == descNonce d) } }
    let id := b.protect.nextProposal
    let rkey := if who = .platform ∧ descKind d = 9 then some extra else none
    let p : Proposal := {
      id := id, kind := BitVec.ofNat 8 (descKind d), proposer := principalCode who
      desc := d, extra := extra, expires := hubGt b + 40000000000 }
    holds .opPlat (some who) = true → b.fuses.lifecycle ≠ .returned → bits (descWord d 0) 47 40 = (principalCode who).toNat →
    mayPropose b via who d = true → proposalSigned b who d key sig extra = true →
    (live.any fun n => n.1 == descNonce d) = true → descWellFormed d = true →
    bits (descWord d 0) 15 0 = (chipOf b).toNat → bits (descWord d 0) 39 32 = lifecycleCode b.fuses.lifecycle →
    decide (descKind d = 10) = lifecycle → changeRefused b1 d false rkey = none → b.protect.proposal = none →
    propose via lifecycle d key sig extra b = respond via rSecondParty [id.setWidth 64, wn p.expires]
      { b1 with protect := { b1.protect with proposal := some p, nextProposal := nextSeq id } }) ∧
  (∀ via d key sig extra s, accepted via 0x0070 (.protectPropose via d key sig extra) false s = true →
    exec (.protectPropose via d key sig extra) s =
      .next (propose via false d key sig extra (begun via 0x0070 (.protectPropose via d key sig extra) s))) ∧
  (∀ via d key sig s, accepted via 0x0072 (.lifecycleAdvance via d key sig) false s = true →
    exec (.lifecycleAdvance via d key sig) s =
      .next (propose via true d key sig [] (begun via 0x0072 (.lifecycleAdvance via d key sig) s)))

/-- PROTECT_CONFIRM, FUSE_WRITE and FUSE_COMMIT complete (R511, R523, R549). A confirmation that R523 admits, of the open
proposal before its expiry and of a change that is not refused, closes the proposal and answers OK with the change applied, or,
for a change of a fused item, programs it. An accepted FUSE_WRITE of the narrow port in MANUFACTURE programs the Platform,
Vendor or firmware key hash that is not fused yet. FUSE_COMMIT takes the oldest write off, applies `commitFuse` to its item and
answers OK to its command where that still waits; with no write in progress it changes nothing. `commitFuse` fuses a Platform
key hash where there is none, and appends an Operator key hash or a security version. -/
def Obligations.ConfirmationsAndFusesComplete : Prop :=
  (∀ via id key sig extra s p who, accepted via 0x0071 (.protectConfirm via id key sig extra) false s = true →
    let b := begun via 0x0071 (.protectConfirm via id key sig extra) s
    let gone := { b with protect := { b.protect with proposal := none } }
    let rkey := if p.proposer = 2 then p.extra else extra
    whoOf b via = some who → holds .opPlat (some who) = true → b.fuses.lifecycle ≠ .returned →
    b.protect.proposal = some p → p.id = id → hubGt b < p.expires → confirmAllowed b via who p key sig = true →
    changeRefused b p.desc true (some rkey) = none →
    (fusedItem p.desc rkey = none →
      exec (.protectConfirm via id key sig extra) s = .next (respond via rOk [] (applyChange p.desc gone))) ∧
    (∀ item, fusedItem p.desc rkey = some item →
      exec (.protectConfirm via id key sig extra) s = .next (programFuse item via gone))) ∧
  (∀ via (item : BitVec 2) (hash : List Byte) s, accepted via 0x0F01 (.fuseWrite via item hash) true s = true →
    let b := begun via 0x0F01 (.fuseWrite via item hash) s
    isNarrow via = true → b.fuses.lifecycle = .manufacture → whoOf b via ≠ none → hash.length = 48 →
    (item = 1 → b.fuses.platformKey = none →
      exec (.fuseWrite via item hash) s = .next { b with fuseWrites := b.fuseWrites ++ [⟨.platformKey hash, via⟩] }) ∧
    (item = 2 → b.fuses.vendorKey = none →
      exec (.fuseWrite via item hash) s = .next { b with fuseWrites := b.fuseWrites ++ [⟨.vendorKey hash, via⟩] }) ∧
    (item = 3 → b.fuses.fwKey = none →
      exec (.fuseWrite via item hash) s = .next { b with fuseWrites := b.fuseWrites ++ [⟨.fwKey hash, via⟩] })) ∧
  (∀ s w l, s.fuseWrites = w :: l →
    let r := commitFuse w.item { s with fuseWrites := l }
    exec .fuseCommit s = .next (if (takenOf r w.via).isSome then respond w.via rOk [] r else r)) ∧
  (∀ s, s.fuseWrites = [] → exec .fuseCommit s = .next s) ∧
  (∀ s h, s.fuses.platformKey = none → (commitFuse (.platformKey h) s).fuses.platformKey = some h) ∧
  (∀ s h, (commitFuse (.opKey h) s).fuses.opKeys = s.fuses.opKeys ++ [h]) ∧
  (∀ s v, (commitFuse (.svn v) s).fuses.svn = s.fuses.svn ++ [v])

/-- LOCAL_READ, the expiries of a grant, a session and a lockout, RESPONSE, DWEP_UPDATE and NARROW_REMOTE_TIMEOUT complete (R43,
R531, R532, R535, R546, R547, R551).
An accepted LOCAL_READ of a well-formed range answers OK with the bytes and changes nothing else; of the trace buffer, its
session must have ended and its records be the reader's. Each expiry ends what it names once the hub's GT has reached its end,
and changes nothing before; with no session it changes nothing. A session that has ended has no frame waiting, and but in
MANUFACTURE it is SEALED with no principal.
With the power neither off nor limited, RESPONSE first ends a session whose time is over and captures the last response's
result. In a lockout its result is BUSY. Otherwise it consumes the challenge: one that `responseGrants` admits opens its
session, with the result OK and no failures; any other has the result DENIED, adds a failure and, from the eighth, a lockout of
40,000,000,000 GT. DWEP_UPDATE likewise first ends a session whose time is over, releases the frame offered and judges the
frame shifted in, if any. A relayed request whose time is over and whose response does not wait is answered TIMEOUT and its
tracker entry closed; before that time NARROW_REMOTE_TIMEOUT changes nothing. -/
def Obligations.NarrowSessionsComplete : Prop :=
  ((∀ via (space : BitVec 2) (offset : BitVec 32) (length : BitVec 12) s,
    accepted via 0x0F00 (.localRead via space offset length) true s = true →
    let b := begun via 0x0F00 (.localRead via space offset length) s
    let n := length.toNat
    isNarrow via = true → denied b via .opPlatVen .sealedLevel = false → space.toNat < 2 → 8 ≤ n → n ≤ 3520 → n % 8 = 0 →
    offset.toNat + n ≤ localSize b space → (space = 0 → recordsOf b (whoOf b via) = false ∧ sessionRuns b = false) →
    exec (.localRead via space offset length) s = .next (respond via rOk (wordsOf (localBytes b space offset.toNat n)) b)) ∧
  (∀ platform s g, grantOf s (some (if platform then .platform else .operator)) = some g →
    (g.notAfter.toNat ≤ hubGt s → exec (.inclGrantExpiry platform) s = .next (endGrant (if platform then 2 else 1) s)) ∧
    (hubGt s < g.notAfter.toNat → exec (.inclGrantExpiry platform) s = .next s)) ∧
  (∀ s t, s.narrow.until_ = some t →
    (t ≤ hubGt s → exec .sessionExpiry s = .next (endSession s)) ∧ (hubGt s < t → exec .sessionExpiry s = .next s)) ∧
  (∀ s, s.narrow.until_ = none → exec .sessionExpiry s = .next s) ∧
  (∀ s t, s.protect.lockedUntil = some t →
    (t ≤ hubGt s → exec .lockoutExpiry s = .next { s with protect := { s.protect with lockedUntil := none } }) ∧
    (hubGt s < t → exec .lockoutExpiry s = .next s)) ∧
  (∀ s, (endSession s).narrow.outQ = [] ∧ (s.fuses.lifecycle ≠ .manufacture →
    (endSession s).narrow.level = .sealedLevel ∧ (endSession s).narrow.who = none))) ∧
  ((∀ bs s, s.power ≠ .off → limited s = false →
    let e := expireSession s
    let n := { e.narrow with ir := 0x11, drCapture := e.narrow.respResult.setWidth 64 :: List.replicate 31 0 }
    let grants := responseGrants e (wordsOf (bs.take 64)) ((bs.drop 64).take 96) ((bs.drop 160).take 96)
    (locked e = true → exec (.response bs) s = .next { e with narrow := { n with respResult := rBusy } }) ∧
    (∀ l w t, locked e = false → grants = some (l, w, t) →
      exec (.response bs) s = .next { e with
        narrow := { n with challenge := none, level := l, who := some w, until_ := some t, respResult := rOk }
        protect := { e.protect with fails := 0 } }) ∧
    (locked e = false → grants = none →
      exec (.response bs) s = .next { e with
        narrow := { n with challenge := none, respResult := rDenied }
        protect := { e.protect with
          fails := satInc e.protect.fails
          lockedUntil := if 8 ≤ satInc e.protect.fails then some (hubGt e + 40000000000) else e.protect.lockedUntil } })) ∧
  (∀ shifted whole s, s.power ≠ .off → limited s = false →
    let e := expireSession s
    exec (.dwepUpdate shifted whole) s = .next (judgePass shifted { e with narrow := releaseOffered whole e.narrow }) ∧
    (bits (shifted.getD 0 0) 63 60 = 0 → exec (.dwepUpdate shifted whole) s =
      .next { e with narrow := releaseOffered whole e.narrow })) ∧
  (∀ seq s o dst ix t, (s.narrow.open_.find? fun o => o.seq == seq && o.remote.isSome && !o.answered) = some o →
    o.remote = some (dst, ix, t) →
    (∀ e, t ≤ hubGt s → tget ix s.iz.tracker = some e → responseWaits s ix e = false →
      exec (.narrowRemoteTimeout seq) s = .next (answerOpen o.key dst rTimeout (closeTrack ix s))) ∧
    (hubGt s < t → exec (.narrowRemoteTimeout seq) s = .next s)))

/-- The TAP rows of the narrow port complete, with the always-on power up (R532, R534, R538 to R543, R546). TAP_RESET ends the
session and selects IDCODE, TEST_LOGIC_RESET only selects it; CAPTURE_IR ends a session whose time is over and captures a byte
whose bits 0, 1 and 5 are 1, 0 and the limited power; IDCODE captures its word. In limited power CHALLENGE, DSTATUS,
DWEP_CAPTURE and RESPONSE select their codes and capture a zero word as BYPASS does. Otherwise CHALLENGE, DSTATUS and
DWEP_CAPTURE first end a session whose time is over. CHALLENGE captures eight words: out of a lockout with a drawn nonce and the
hub's GT, kept as the challenge for 40,000,000,000 GT; in a lockout with a zero nonce and no challenge kept. DSTATUS captures one
word with the last result and the failures, and clears FULL, EVDROP and DISCARDED. DWEP_CAPTURE offers and captures the last
released frame after a REPEAT, else the oldest frame waiting. -/
def Obligations.TapRowsComplete : Prop :=
  (∀ s, s.power ≠ .off →
    exec .tapReset s = .next { endSession s with narrow := { (endSession s).narrow with ir := 0x01 } } ∧
    exec .testLogicReset s = .next { s with narrow := { s.narrow with ir := 0x01 } } ∧
    (∃ v : BitVec 8, exec .captureIr s = .next { expireSession s with
        narrow := { (expireSession s).narrow with irCapture := v } } ∧
      v.getLsbD 0 = true ∧ v.getLsbD 1 = false ∧ v.getLsbD 5 = limited (expireSession s)) ∧
    exec .idcode s = .next { s with narrow := { s.narrow with
      ir := 0x01, drCapture := [pk [(28, 4, 1), (12, 16, 0x7404), (1, 11, s.ties.tapMfr.toNat), (0, 1, 1)]] } }) ∧
  (∀ s, s.power ≠ .off → limited s = true →
    exec .challenge s = .next { s with narrow := { s.narrow with ir := 0x10, drCapture := [0] } } ∧
    exec .dstatus s = .next { s with narrow := { s.narrow with ir := 0x21, drCapture := [0] } } ∧
    exec .dwepCapture s = .next { s with narrow := { s.narrow with ir := 0x20, drCapture := [0] } } ∧
    ∀ bs, exec (.response bs) s = .next { s with narrow := { s.narrow with ir := 0x11, drCapture := [0] } }) ∧
  (∀ s, s.power ≠ .off → limited s = false →
    let e := expireSession s
    (locked e = false → ∃ w, exec .challenge s = .next { e with
        free := e.free + 1
        narrow := { e.narrow with ir := 0x10, drCapture := w, challenge := some (w, hubGt e + 40000000000) } } ∧
      w.length = 8 ∧ w.getD 1 0 = (Config.freeNonce e.free).setWidth 64 ∧
      w.getD 2 0 = (Config.freeNonce e.free >>> 64).setWidth 64 ∧ w.getD 3 0 = wn (hubGt e)) ∧
    (locked e = true → ∃ w, exec .challenge s = .next { e with narrow := { e.narrow with
        ir := 0x10, drCapture := w, challenge := none } } ∧ w.length = 8 ∧ w.getD 1 0 = 0 ∧ w.getD 2 0 = 0) ∧
    (∃ w, exec .dstatus s = .next { e with narrow := { e.narrow with
        ir := 0x21, drCapture := [w], full := false, evdrop := false, discarded := 0 } } ∧
      bits w 31 24 = e.narrow.respResult.toNat ∧ bits w 23 16 = e.protect.fails.toNat) ∧
    (∃ f, exec .dwepCapture s = .next { e with narrow := { e.narrow with
        ir := 0x20, offered := f, drCapture := (f.map (·.words)).getD [] } } ∧
      f = (if e.narrow.repeatNext then e.narrow.lastReleased else e.narrow.outQ.head?)))

/-- FW_GO, FIRMWARE_READY and the firmware's clocks complete (R475 to R480, R505, R506). A full write with GO to a serving hub is
answered; while LOADING it does no more, while RUNNING it enters basic service and starts a load, and else it starts a load; a
write without GO or with a byte not enabled is only answered. Starting a load makes the state LOADING, latches the base and
counts the load; entering basic service gives the state named and stops the firmware. FIRMWARE_READY of started firmware in
LOADING makes the state RUNNING with the image's version and state version and raises event 0x0300; then the state area is
cleared where its state version differs, and else the cuts that wait are concluded and the held test results reported; in any
other state it changes nothing. A clearing leaves no cut, hang report, test run or held result. A watchdog signal of started
firmware is kept at the hub's GT; 8,000,000 GT after the last one, and 400,000,000 GT after a start without readiness, the
firmware fails: by way of basic service where it was RUNNING, else from LOADING; before those times, and with no firmware
started, the two rows change nothing, and the signal changes nothing with none started. -/
def Obligations.FirmwareRowsComplete : Prop :=
  ((∀ w s, serving s = true → bit w 0 = true →
    let b := hrDone 0 s
    (s.fw.state = .loading → exec (.fwGo w 0xFF) s = .next b) ∧
    (s.fw.state = .running → exec (.fwGo w 0xFF) s = .next (startLoad (basicEntry .loading b))) ∧
    (s.fw.state ≠ .loading → s.fw.state ≠ .running → exec (.fwGo w 0xFF) s = .next (startLoad b))) ∧
  (∀ w strb s, serving s = true → bit w 0 = false ∨ strb ≠ 0xFF → exec (.fwGo w strb) s = .next (hrDone 0 s)) ∧
  (∀ s, (startLoad s).fw.state = .loading ∧ (startLoad s).fw.latched = s.fw.base ∧ (startLoad s).fw.load = s.fw.load + 1) ∧
  (∀ st s, (basicEntry st s).fw = { s.fw with state := st, started := false }) ∧
  (∀ s, serving s = true → s.fw.state = .loading → s.fw.started = true →
    let ver := fieldB 16 (s.fw.header.getD 3 0) 32
    let r := modFw (fun f => { f with
      state := .running, major := fieldB 16 (s.fw.header.getD 1 0) 48, minor := fieldB 16 (s.fw.header.getD 1 0) 32
      stateVer := some ver }) s
    let e := fun lost => raiseEvent 0x0300 3 [wn r.fw.major.toNat, wn r.fw.minor.toNat, wn (b2n lost)] {} 0 r
    (s.fw.stateVer ≠ some ver → exec .firmwareReady s = .next (clearStateArea (e true))) ∧
    (s.fw.stateVer = some ver → exec .firmwareReady s = .next (reportHeld (concludeCuts (e false))))) ∧
  (∀ s, (clearStateArea s).cuts.active = [] ∧ (clearStateArea s).cuts.ended = [] ∧ (clearStateArea s).hang.reports = [] ∧
    (clearStateArea s).test.runs = [] ∧ (clearStateArea s).test.held = []) ∧
  (∀ s, s.fw.state ≠ .loading ∨ s.fw.started = false ∨ serving s = false → exec .firmwareReady s = .next s)) ∧
  ((∀ s, s.fw.started = true →
    exec .firmwareWatchdogSignal s = .next { s with fw := { s.fw with lastSignal := hubGt s } } ∧
    (hubGt s < s.fw.lastSignal + 8000000 → exec .firmwareWatchdog s = .next s) ∧
    (s.fw.lastSignal + 8000000 ≤ hubGt s → exec .firmwareWatchdog s = .next (failFirmware s))) ∧
  (∀ s, s.fw.started = true → s.fw.state = .loading →
    (hubGt s < s.fw.startGt + 400000000 → exec .firmwareStartTimeout s = .next s) ∧
    (s.fw.startGt + 400000000 ≤ hubGt s → exec .firmwareStartTimeout s = .next (failFirmware s))) ∧
  (∀ s, s.fw.state = .running → failFirmware s = basicEntry .failed s) ∧
  (∀ s, s.fw.state = .loading → s.fw.started = true → failFirmware s = endLoadFw .failed s) ∧
  (∀ s, s.fw.started = false → exec .firmwareWatchdogSignal s = .next s ∧ exec .firmwareWatchdog s = .next s ∧
    exec .firmwareStartTimeout s = .next s))


/-- The host's rows of check unit 1 complete while the hub serves (R331 to R335, Table 10.9). A feed or a RUN write with every
byte enabled is answered, and queued while OWNER is 1 and fewer than 16 wait, dropped with OVERRUN where 16 wait, counted in
IGNORED while OWNER is 0. CTRL sets ALGO and HOST, and OWNER stays while HOST is set or a feed waits; a write of OVERRUN clears
it where its bit is set. Each of these with a byte not enabled is only answered. The grant raises OWNER while HOST asks, and
else changes nothing. A read of STATUS answers IGNORED, OVERRUN and OWNER and clears IGNORED. A read of RUN or RESULT applies
every queued feed first, and has zero in [63:32] in CRC-32C mode; with none queued, HOST set and CRC-64 it answers RUN. -/
def Obligations.HostChecksumUnitRowsComplete : Prop :=
  (∀ w s, serving s = true →
    let k := s.check
    let b := hrDone 0 s
    let fed (f : CkFeed) : State := { b with check :=
      if k.owner = false then { k with ignored := satInc k.ignored }
      else if 16 ≤ k.queue.length then { k with overrun := true } else { k with queue := k.queue ++ [f] } }
    exec (.ckRun w 0xFF) s = .next (fed (.run w)) ∧
    exec (.ckFeedB w 0xFF) s = .next (fed (.bytes k.crc64 ((wordBytes w).take 1))) ∧
    exec (.ckFeedH w 0xFF) s = .next (fed (.bytes k.crc64 ((wordBytes w).take 2))) ∧
    exec (.ckFeedW w 0xFF) s = .next (fed (.bytes k.crc64 ((wordBytes w).take 4))) ∧
    exec (.ckCtrlHost w 0xFF) s = .next { b with check := { k with
      crc64 := bit w 1, host := bit w 0, owner := k.owner && (bit w 0 || !k.queue.isEmpty) } } ∧
    exec (.ckOverrunClear w 0xFF) s = .next { b with check := { k with overrun := k.overrun && !bit w 9 } }) ∧
  (∀ w strb s, serving s = true → strb ≠ 0xFF →
    ∀ i ∈ [Instr.ckRun w strb, .ckFeedB w strb, .ckFeedH w strb, .ckFeedW w strb, .ckCtrlHost w strb, .ckOverrunClear w strb],
      exec i s = .next (hrDone 0 s)) ∧
  (∀ s, serving s = true →
    let k := s.check
    (k.host = true → exec .ckHostGrant s = .next { s with check := { k with owner := true } }) ∧
    (k.host = false → exec .ckHostGrant s = .next s) ∧
    (∃ v, exec .ckStatusRead s = .next { hrDone v s with check := { k with ignored := 0 } } ∧ bits v 63 32 = k.ignored.toNat ∧
      bit v 9 = k.overrun ∧ bit v 8 = k.owner) ∧
    (k.queue = [] → k.host = true → k.crc64 = true → ∀ r, exec (.ckResultRead r) s = .next (hrDone k.run s)) ∧
    (∀ r, ∃ v, exec (.ckResultRead r) s = .next { hrDone v s with check := drainAll k } ∧ (drainAll k).queue = [] ∧
      (k.crc64 = false → bits v 63 32 = 0)))

/-- The register rows of the host port complete while the hub serves, with every byte enabled (R10, R45, R503, R607): a RATE
inside its range is taken, one outside sets RATE_ERR and leaves RATE; RATE_ERR, the interrupt lines and the ring fault are
cleared where the write has their bits; IRQ_TEST sets the lines it has; REGISTER_WRITE writes the lines' enables at 0x4008 and
the image base at 0x20, and changes nothing at 0x4018 and 0x4100; each access is answered. A hub that does not serve takes no
REGISTER_WRITE. -/
def Obligations.RegisterRowsComplete : Prop :=
  (∀ w s, serving s = true →
    let b := hrDone 0 s
    let r := fieldB 40 w 0
    (0x27FDF3B646#40 ≤ r → r ≤ 0x28020C49BA#40 → exec (.timeRateWrite w 0xFF) s = .next { b with time := { s.time with rate := r } }) ∧
    (r < 0x27FDF3B646#40 ∨ 0x28020C49BA#40 < r →
      exec (.timeRateWrite w 0xFF) s = .next { b with time := { s.time with rateErr := true } }) ∧
    exec (.rateErrClear w 0xFF) s = .next { b with time := { s.time with rateErr := s.time.rateErr && !bit w 4 } } ∧
    exec (.irqStatusClear w 0xFF) s = .next { b with events := { s.events with
      line := s.events.line &&& ~~~ fieldB 4 w 0, ringFault := s.events.ringFault && !bit w 8 } } ∧
    exec (.irqTest w 0xFF) s = .next { b with events := { s.events with line := s.events.line ||| fieldB 4 w 0 } } ∧
    exec (.registerWrite 0x00801 w 0xFF) s = .next { b with events := { s.events with en := fieldB 4 w 0 } } ∧
    exec (.registerWrite 0x00803 w 0xFF) s = .next b ∧ exec (.registerWrite 0x00820 w 0xFF) s = .next b ∧
    exec (.registerWrite 0x00004 w 0xFF) s = .next { b with fw := { s.fw with base := fieldB 52 w 12 } }) ∧
  (∀ a w strb s, serving s = false → exec (.registerWrite a w strb) s = .next s)

/-- R585. Outside the mailboxes a write with a byte not enabled is answered and changes nothing; within a mailbox the enabled
bytes take the written ones and the others keep theirs, every byte masked by the bits its word has (R9), except at a SEAL word,
where a write with a byte not enabled is answered and changes nothing. -/
def Obligations.WritesTakeTheirByteEnables : Prop :=
  (∀ w strb s, serving s = true → strb ≠ 0xFF →
    (∀ i ∈ [Instr.timeRateWrite w strb, .rateErrClear w strb, .irqStatusClear w strb, .irqTest w strb, .fwGo w strb,
        .ckRun w strb, .ckFeedB w strb, .ckFeedH w strb, .ckFeedW w strb, .ckCtrlHost w strb, .ckOverrunClear w strb],
      exec i s = .next (hrDone 0 s)) ∧
    (∀ a : BitVec 17, a.toNat < 0x2000 ∨ 0x4000 ≤ a.toNat → exec (.registerWrite a w strb) s = .next (hrDone 0 s))) ∧
  (∀ (a : BitVec 17) w strb s, serving s = true → 0x2000 ≤ a.toNat → a.toNat < 0x4000 →
    let off := 8 * (a.toNat - 0x2000)
    (off % 4096 = 0 → strb ≠ 0xFF → exec (.registerWrite a w strb) s = .next (hrDone 0 s)) ∧
    (off % 4096 ≠ 0 ∨ strb = 0xFF → memWf s.mb.mem = true → ∃ m,
      exec (.registerWrite a w strb) s = .next { hrDone 0 s with mb := { s.mb with mem := m } } ∧
      ∀ x, memRead x m = if off ≤ x ∧ x < off + 8 then
          (if strb.getLsbD (x - off) = true then (w >>> (8 * (x - off))).setWidth 8 else memRead x s.mb.mem) &&&
            (mailboxBits off >>> (8 * (x - off))).setWidth 8
        else memRead x s.mb.mem))

/-- The power rows complete (R15, R17, R37, R510, R561, R563, R565, R574). With tie-offs of R15, OBS_RESET_RELEASE in ON or
PARTIAL and OBS_POWER_UP outside OFF and LAST_GASP leave the chip ON or PARTIAL by the gated partitions, serving, with `pf_shed`
and `pf_obs_off` low; each core of the tie-offs has them and is FENCED where its defect tie-off is set, else ACTIVE; the fuses,
the staging and last record, GT, RATE, the tray's sequence number and the protection but for its proposals are kept; the
firmware is absent and no cut is active. In the other modes the two rows change nothing. Tie-offs that R15 does not allow end in
the fault of that name. AO_POWER_UP keeps the fuses, takes the valid record of the greatest SEQ as the last one, continues its
numbering or starts at 1, sets the debug level by the lifecycle, and resets the mode, the time and the cores. AO_POWER_LOSS
leaves the reset state in OFF but for the fuses, the level and session that their lifecycle gives, the tie-offs, and the model's
own queue and counter of free values. PART_GATED_CHANGE sets its bit; in ON and PARTIAL the mode follows, in the other powered
modes nothing else changes, and in OFF nothing does. -/
def Obligations.PowerRowsComplete : Prop :=
  ((∀ t s, tieOffsOk t = true →
    let r := obsRelease t s
    (s.power = .on ∨ s.power = .partialOn → exec (.obsResetRelease t) s = .next r) ∧
    (s.power = .off ∨ s.power = .lastGasp ∨ s.power = .retained → exec (.obsResetRelease t) s = .next s) ∧
    (s.power = .off ∨ s.power = .lastGasp → exec (.obsPowerUp t) s = .next s) ∧
    (s.power = .on ∨ s.power = .partialOn ∨ s.power = .retained → exec (.obsPowerUp t) s = .next r) ∧
    r.power = (if s.pw.gated = 0 then .on else .partialOn) ∧ r.pw.shed = false ∧ r.pw.obsOff = false ∧ serving r = true ∧
    r.fuses = s.fuses ∧ r.pw.staging = s.pw.staging ∧ r.pw.last = s.pw.last ∧ hubGt r = hubGt s ∧ r.time.rate = s.time.rate ∧
    r.rec_.tray.seq = s.rec_.tray.seq ∧ r.protect = { s.protect with proposal := none, nextProposal := 1 } ∧
    r.fw.state = .absent ∧ r.cuts.active = [] ∧
    ∀ k ∈ t.cores, ∃ co, coreOf r k.core.toNat = some co ∧ co.ties = k ∧ co.fence = k.defect ∧
      co.st = (if k.defect then .fenced else .active)) ∧
  (∀ t s, tieOffsOk t = false →
    exec (.obsResetRelease t) s = .fault .noSuchConfiguration ∧ exec (.obsPowerUp t) s = .fault .noSuchConfiguration)) ∧
  ((∀ slots s, ∃ t, exec (.aoPowerUp slots) s = .next t ∧ t.fuses = s.fuses ∧ t.pw.last = selectRecord slots ∧
    (selectRecord slots = none → t.pw.nextSeq = 1) ∧ (∀ ws, selectRecord slots = some ws → t.pw.nextSeq = recordSeq ws + 1 ∧
      recordValid ws = true ∧ ∀ v ∈ slots, recordValid v = true → recordSeq v ≤ recordSeq ws) ∧
    t.power = State.reset.power ∧ t.time = State.reset.time ∧ t.cores = [] ∧
    t.protect.debug = (match s.fuses.lifecycle with | .manufacture => .invasive | .provision => .observe | _ => .sealedLevel)) ∧
  (∀ s, exec .aoPowerLoss s = .next { State.reset with
    power := .off, fuses := s.fuses, ties := s.ties, pending := s.pending, free := s.free
    protect := { debug := resetDebug s.fuses.lifecycle }, narrow := freshSession s.fuses.lifecycle {} }) ∧
  (∀ part g s, (s.power = .on ∨ s.power = .partialOn) →
    let v := setBit s.pw.gated part.toNat g
    v.getLsbD part.toNat = g ∧ exec (.partGatedChange part g) s =
      .next { s with pw := { s.pw with gated := v }, power := if v = 0 then .on else .partialOn }) ∧
  (∀ part g s, (s.power = .lastGasp ∨ s.power = .retained) →
    exec (.partGatedChange part g) s = .next { s with pw := { s.pw with gated := setBit s.pw.gated part.toNat g } }) ∧
  (∀ part g s, s.power = .off → exec (.partGatedChange part g) s = .next s))


/-- The last-gasp rows complete (R567 to R580). In ON and PARTIAL with a device, PF_WARN_RECOGNISE and
RETENTION_REQUEST_RECOGNISE start LAST_GASP: `pf_shed` and `pf_obs_off` raised, a body of 1,020 words with the next SEQ being
written to the slot of that SEQ modulo 2, its CAUSE 1 or 3, or 2 with the tray's reason where a rung 6 runs; after a warning
`pf_lg_done` is low, the warning is kept, one flush is counted and the hub no longer serves. Without a device the chip is
RETAINED at once with `pf_lg_done` high and NV_FAILED, and after a warning the next SEQ is one higher and the last record valid.
In OFF, LAST_GASP and RETAINED neither changes anything. In LAST_GASP, NV_DURABLE seals the record after the body and counts the
seal's flush, and ends the sequence after the seal; NV_FLUSH_TIMEOUT ends it with NV_FAILED; an end leaves the chip RETAINED with
the sealed record as the last one and the next SEQ one higher than its. Elsewhere these two change nothing. -/
def Obligations.LastGaspRowsComplete : Prop :=
  (∀ s, (s.power = .on ∨ s.power = .partialOn) →
    (∃ t, exec (.pfWarnRecognise true) s = .next t ∧ t.power = .lastGasp ∧ t.pw.phase = .body ∧ t.pw.shed = true ∧
      t.pw.obsOff = true ∧ t.pw.lgDone = false ∧ t.pw.warn = true ∧ t.pw.flushes = s.pw.flushes + 1 ∧
      t.pw.slot = s.pw.nextSeq.toNat % 2 ∧ recordSeq t.pw.record = s.pw.nextSeq ∧ t.pw.record.length = 1020 ∧
      (s.rec_.tray.reason = none → recordCause t.pw.record = 1) ∧ serving t = false) ∧
    (∃ t, exec (.retentionRequestRecognise true) s = .next t ∧ t.power = .lastGasp ∧ t.pw.phase = .body ∧ t.pw.shed = true ∧
      t.pw.obsOff = true ∧ t.pw.slot = s.pw.nextSeq.toNat % 2 ∧ t.pw.record.length = 1020 ∧
      (s.rec_.tray.reason = none → recordCause t.pw.record = 3) ∧
      (∀ r, s.rec_.tray.reason = some r → recordCause t.pw.record = 2 ∧ recordReason t.pw.record = r.toNat)) ∧
    (∃ t, exec (.pfWarnRecognise false) s = .next t ∧ t.power = .retained ∧ t.pw.lgDone = true ∧ t.pw.nvFailed = true ∧
      t.pw.phase = .idle ∧ t.pw.nextSeq = s.pw.nextSeq + 1 ∧ ∃ ws, t.pw.last = some ws ∧ recordValid ws = true) ∧
    (∃ t, exec (.retentionRequestRecognise false) s = .next t ∧ t.power = .retained ∧ t.pw.lgDone = true ∧
      t.pw.nvFailed = true)) ∧
  (∀ s, s.power = .off ∨ s.power = .lastGasp ∨ s.power = .retained →
    ∀ nv, exec (.pfWarnRecognise nv) s = .next s ∧ exec (.retentionRequestRecognise nv) s = .next s) ∧
  (∀ s, s.power = .lastGasp → s.pw.phase = .body →
    let sealed := sealRecord (hubGt s) s.pw.record
    exec .nvDurable s = .next { s with pw := { s.pw with phase := .sealing, record := sealed, flushes := s.pw.flushes + 1 } } ∧
    exec .nvFlushTimeout s = .next { s with
      power := .retained
      pw := { s.pw with lgDone := true, phase := .idle, record := [], last := some sealed, nvFailed := true
                        nextSeq := recordSeq sealed + 1 } }) ∧
  (∀ s, s.power = .lastGasp → s.pw.phase = .sealing → ∀ i failed, (i, failed) = (Instr.nvDurable, false) ∨
      (i, failed) = (Instr.nvFlushTimeout, true) →
    exec i s = .next { s with
      power := .retained
      pw := { s.pw with lgDone := true, phase := .idle, record := [], last := some s.pw.record, nvFailed := failed
                        nextSeq := recordSeq s.pw.record + 1 } }) ∧
  (∀ s, s.power ≠ .lastGasp ∨ s.pw.phase = .idle → exec .nvDurable s = .next s ∧ exec .nvFlushTimeout s = .next s)

/-- The tray rows complete (R414, R415, R578, R600, R601). With always-on power a Block Write of an offset that is no multiple of
128 up to 8,064 is NACKed, and any other is acknowledged and sets the offset where its PEC holds. A Block Read replies VERSION 1, a
status and 128 bytes: zeros with status 2 in LAST_GASP and with status 1 where there is no last record, else status 0 and the
bytes at the offset. While a serving hub waits for the tray, a good status of VERSION 1 under the request's SEQ ends rung 6 with OK
and the tray's two figures where it says ACCEPTED, with DENIED where it says REJECTED; a status under another SEQ or with a bad PEC
changes nothing; from the deadline on TRAY_TIMEOUT ends it with TIMEOUT, and before it changes nothing. An end leaves the hub
waiting no more, and keeps the tray's reason only where it is OK. -/
def Obligations.TrayRowsComplete : Prop :=
  (∀ (offset : BitVec 16) pecOk s, s.power ≠ .off →
    (offset.toNat % 128 ≠ 0 ∨ 8064 < offset.toNat →
      exec (.trayBlockWrite offset pecOk) s = .next { s with pw := { s.pw with trayNack := true } }) ∧
    (offset.toNat % 128 = 0 → offset.toNat ≤ 8064 → exec (.trayBlockWrite offset pecOk) s = .next { s with pw := { s.pw with
      trayNack := false, trayOffset := if pecOk then offset else s.pw.trayOffset } })) ∧
  (∀ s, s.power ≠ .off → ∃ reply, exec .trayBlockRead s = .next { s with pw := { s.pw with trayReply := reply } } ∧
    reply.getD 0 0 = 1 ∧ (s.power = .lastGasp → reply = 1 :: 2 :: List.replicate 128 0) ∧
    (s.power ≠ .lastGasp → s.pw.last = none → reply = 1 :: 1 :: List.replicate 128 0) ∧
    (s.power ≠ .lastGasp → ∀ ws, s.pw.last = some ws →
      reply = 1 :: 0 :: bytesOf ((ws.drop (s.pw.trayOffset.toNat / 8)).take 16))) ∧
  (∀ (status : List Byte) s id due, s.rec_.tray.waits = some (id, due) → serving s = true →
    let seq := (bytesWord ((status.drop 2).take 4)).setWidth 32
    (byteAt status 0 = 1 → byteAt status 1 = 1 → seq = s.rec_.tray.seq → ∃ figures,
      exec (.trayStatusPoll status true) s = .next (trayDone id rOk [figures] s) ∧
      bits figures 15 0 = byteAt status 6 + 256 * byteAt status 7 ∧ bits figures 31 16 = byteAt status 8 + 256 * byteAt status 9) ∧
    (byteAt status 0 = 1 → byteAt status 1 = 2 → seq = s.rec_.tray.seq →
      exec (.trayStatusPoll status true) s = .next (trayDone id rDenied [] s)) ∧
    (seq ≠ s.rec_.tray.seq → exec (.trayStatusPoll status true) s = .next s) ∧
    exec (.trayStatusPoll status false) s = .next s ∧
    (due ≤ hubGt s → exec .trayTimeout s = .next (trayDone id rTimeout [] s)) ∧
    (hubGt s < due → exec .trayTimeout s = .next s)) ∧
  (∀ id code extra s, (trayDone id code extra s).rec_.tray.waits = none ∧
    (trayDone id code extra s).rec_.tray.reason = if code = rOk then s.rec_.tray.reason else none)

/-- The rows of the reset handshakes of rungs 4 and 5 and of the rungs' deadlines complete (R38, R387, R395, R615). In a serving hub
a done signal that rises under its request lowers the request; where an entry waits for it, the domain's generation is advanced,
its cores leave RESETTING (`domainLeaves`) and the entry is finished. With no request the rising row changes nothing. When a done
signal falls, the request is high again exactly where an entry still waits, and nothing else changes. RUNG_TIMEOUT of a rung
applies `unitTimeout` to its units whose time is over and settles it; of no rung it changes nothing. -/
def Obligations.ResetHandshakesComplete : Prop :=
  (∀ (part : PartIx) s, serving s = true → s.rec_.partReq.getLsbD part.toNat = true → s.rec_.partDone.getLsbD part.toNat = false →
    let p := part.toNat
    let b := { s with rec_ := { s.rec_ with
      partDone := setBit s.rec_.partDone p true, partReq := setBit s.rec_.partReq p false } }
    (findUnit b (fun u => decide (u.rung = 4 ∧ u.part = p)) = none → exec (.partitionResetDone part) s = .next b) ∧
    (∀ id u, findUnit b (fun u => decide (u.rung = 4 ∧ u.part = p)) = some (id, u) → exec (.partitionResetDone part) s =
      .next (finishUnit id u ((coresOfPart b p).foldl domainLeaves (advPartGen 4 p b))))) ∧
  (∀ s, serving s = true → s.rec_.chipReq = true → s.rec_.chipDone = false →
    let b := { s with rec_ := { s.rec_ with chipDone := true, chipReq := false } }
    (findUnit b (fun u => decide (u.rung = 5)) = none → exec .chipResetDone s = .next b) ∧
    (∀ id u, findUnit b (fun u => decide (u.rung = 5)) = some (id, u) → exec .chipResetDone s =
      .next (finishUnit id u ((allCores b).foldl domainLeaves (advChipGen 5 b))))) ∧
  (∀ (part : PartIx) s, s.rec_.partReq.getLsbD part.toNat = false → exec (.partitionResetDone part) s = .next s) ∧
  (∀ s, s.rec_.chipReq = false → exec .chipResetDone s = .next s) ∧
  (∀ (part : PartIx) s, s.rec_.partDone.getLsbD part.toNat = true → ∃ t, exec (.resetDoneLower (some part)) s = .next t ∧
    t = { s with rec_ := { s.rec_ with partDone := t.rec_.partDone, partReq := t.rec_.partReq } } ∧
    t.rec_.partDone = setBit s.rec_.partDone part.toNat false ∧ t.rec_.partReq.getLsbD part.toNat =
      (findUnit s fun u => decide (u.rung = 4 ∧ u.part = part.toNat)).isSome) ∧
  (∀ s, s.rec_.chipDone = true → exec (.resetDoneLower none) s = .next { s with rec_ := { s.rec_ with
    chipDone := false, chipReq := (findUnit s fun u => decide (u.rung = 5)).isSome } }) ∧
  (∀ id s r, serving s = true → Machine.rungOf s id = some r → exec (.rungTimeout id) s = .next (rungSettle id
    ((r.units.filter fun u => decide (u.due ≤ hubGt s ∧ (u.phase = .abort ∨ u.phase = .reset))).foldl (unitTimeout id) s))) ∧
  (∀ id s, Machine.rungOf s id = none → exec (.rungTimeout id) s = .next s)

/-- TS_CMD_BEGIN, TS_CMD_END and ENGINE_STATE_CHANGE complete (R88 to R90, R101, R129), at a core that takes its rows, for a
present engine out of reset. `b` is the state after the cycles since the core's last row. A begin, with or without an end in its
cycle, leaves the engine with the command's tags and the marks of its context, zero command counters and the shown state; with no
end, no command before it, no hold and BUSY or STALLED shown it counts no violation. An end of a command with a defined status
leaves none in flight and keeps it as the last one; a SOFT_STOPPING engine is then STOPPED. A state change leaves the shown state.
Stall reason and channel are kept only where they are valid, and else 0. No other core changes at a begin, and but for the
stopping end nothing outside the cores, the lost-account counts and the counter of free values does. No cycles, no change of
`tapAdvance`. The cycles (R90, R125 to R129): CC advances by them; after QUIET or with the clock frozen no counter does; in flight,
BUSY counts in the command's busy counter and STALLED in its stalled one, and in the full set of twenty STALLED counts with its
reason. A row changes nothing at a core that takes none, and after QUIET only counts its events as discarded (R117). -/
def Obligations.EngineCommandRowsCountCycles : Prop :=
  ((∀ (core : CoreIx) (eng : EngIx) dc ctx layer op seq st stall chan endSt s,
    let c := core.toNat
    let e := eng.toNat
    let b := rowState c dc s
    coresWhole s = true → portTaken s c = true → engLive s c e = true → ∃ t co,
      exec (.tsCmdBegin core eng dc ctx layer op seq st stall chan endSt) s = .next t ∧
      coreOf t c = some co ∧ t = { b with cores := t.cores, ao := t.ao, free := t.free } ∧
      (∀ k, k ≠ c → coreOf t k = coreOf b k) ∧
      let en := engOf co e
      en.cur = some (tagsNow b ctx layer op seq) ∧ en.cmdBusy = 0 ∧ en.cmdStall = 0 ∧ en.rep = st ∧
      en.stall = (if st = 2 then stall else 0) ∧ en.chan = (if st = 2 ∧ (stall = 2 ∨ stall = 3) then chan else 0) ∧
      (∀ co0, coreOf b c = some co0 → endSt = none → (engOf co0 e).cur = none → (engOf co0 e).hold = false → st = 1 ∨ st = 2 →
        co.violations = co0.violations)) ∧
  (∀ (core : CoreIx) (eng : EngIx) dc (st : BitVec 2) s co0 t0,
    let c := core.toNat
    let e := eng.toNat
    let b := rowState c dc s
    coresWhole s = true → portTaken s c = true → engLive s c e = true → coreOf b c = some co0 → (engOf co0 e).cur = some t0 →
    st ≠ 3 →
    ∃ t co, exec (.tsCmdEnd core eng dc st) s = .next t ∧ coreOf t c = some co ∧ (engOf co e).cur = none ∧
      (engOf co e).last = some t0 ∧ ((engOf co0 e).st = .softStopping → (engOf co e).st = .stopped) ∧
      ((engOf co0 e).st ≠ .softStopping → (engOf co e).st = (engOf co0 e).st ∧
        t = { b with cores := t.cores, ao := t.ao, free := t.free })) ∧
  (∀ (core : CoreIx) (eng : EngIx) dc st stall chan s,
    let c := core.toNat
    let e := eng.toNat
    let b := rowState c dc s
    coresWhole s = true → portTaken s c = true → engLive s c e = true → ∃ t co,
      exec (.engineStateChange core eng dc st stall chan) s = .next t ∧
      coreOf t c = some co ∧ (engOf co e).rep = st ∧ (engOf co e).stall = (if st = 2 then stall else 0) ∧
      (engOf co e).chan = (if st = 2 ∧ (stall = 2 ∨ stall = 3) then chan else 0) ∧
      t = { b with cores := t.cores, ao := t.ao })) ∧
  ((∀ c s, tapAdvance c 0 s = s) ∧
  (∀ dc co, (tickCore dc co).cc = co.cc + BitVec.ofNat 32 dc) ∧
  (∀ dc co e, co.quietDone = true ∨ co.funcClkEn = false →
    (advCore dc co).2 = [] ∧ (engOf (advCore dc co).1 e).cmdBusy = (engOf co e).cmdBusy ∧
    (engOf (advCore dc co).1 e).cmdStall = (engOf co e).cmdStall ∧ (engOf (advCore dc co).1 e).full = (engOf co e).full ∧
    (advCore dc co).1.coreBusy = co.coreBusy) ∧
  (∀ n en, en.rstN = true → en.cur.isSome = true → en.rep = 1 → (countCycles false n en).cmdBusy = en.cmdBusy + BitVec.ofNat 48 n ∧
    (countCycles false n en).cmdStall = en.cmdStall) ∧
  (∀ n en, en.rstN = true → en.cur.isSome = true → en.rep = 2 → (countCycles false n en).cmdStall = en.cmdStall + BitVec.ofNat 48 n ∧
    (countCycles false n en).cmdBusy = en.cmdBusy) ∧
  (∀ n en, en.rstN = true → en.fullEn = true → en.full.length = 20 → en.rep = 2 → en.cur.isSome = true →
    (countCycles false n en).full.getD 1 0 = en.full.getD 1 0 + BitVec.ofNat 48 n ∧
    (countCycles false n en).full.getD (4 + en.stall.toNat) 0 = en.full.getD (4 + en.stall.toNat) 0 + BitVec.ofNat 48 n) ∧
  (∀ dc n s c act, tapLive s c = false → discards s c = false → tapRow c dc n act s = s) ∧
  (∀ dc n s c act, serving s = true → railOff s c = false → discards s c = true →
    tapRow c dc n act s = modCore c (fun x => { x with discarded := x.discarded + n }) (tapAdvance c dc s)))

/-- The rows of steering, the epoch and the keep-alive complete (R92, R96, R99, R104, R105, R119), at a core that takes its rows;
`b` is the state after the cycles since the core's last row. An arrival at a present unit is recorded and shown; the rows of an
absent unit change nothing more. A firing of a free unit with both levels high, of a core not fenced and with no stop armed, is
recorded and the next pair shown; of a released unit it also holds the unit again and reports the step done. Every firing of a
present unit shows the next pair, is counted, and marks whether its pair was half present. The epoch shown already changes
nothing more; another is shown with its word upward, and while the epoch is held it counts as a violation and ends the step. An
epoch request is recorded and ends a step that runs. A keep-alive word enters the queue at the fourth cycle after the last word
while the queue takes thinned words, and else nothing more changes. -/
def Obligations.SteeringAndEpochRowsComplete : Prop :=
  ∀ (core : CoreIx) dc s co,
    let c := core.toNat
    let b := rowState c dc s
    portTaken s c = true → coreOf b c = some co →
    (∀ unit tok dat old, steerLive co unit = true → exec (.steeringArrival core dc unit tok dat old) s =
      .next (modCore c (fun x => showSteer unit tok dat old (arrive unit tok dat x)) b)) ∧
    (∀ unit tok dat old, steerLive co unit = false →
      exec (.steeringArrival core dc unit tok dat old) s = .next b ∧ exec (.steeringFire core dc unit tok dat old) s = .next b) ∧
    (∀ (unit : BitVec 2) tok dat old, steerLive co unit = true →
      co.stHold.getLsbD unit.toNat = false → co.tok.getLsbD unit.toNat = true →
      co.dat.getLsbD unit.toNat = true → fencedAcked co = false → co.arm = none →
      let f := modCore c (fire unit false tok dat old) b
      let fired := setBit co.stFired unit.toNat true
      (co.stReleased.getLsbD unit.toNat = false → exec (.steeringFire core dc unit tok dat old) s = .next f) ∧
      (co.stReleased.getLsbD unit.toNat = true → exec (.steeringFire core dc unit tok dat old) s =
        .next (upPush c (.stepDone none fired) (modCore c (fun x => { x with
          stHold := setBit x.stHold unit.toNat true, stReleased := setBit x.stReleased unit.toNat false, stFired := fired }) f)))) ∧
    (∀ (unit : BitVec 2) tok dat old, steerLive co unit = true → ∃ t co', exec (.steeringFire core dc unit tok dat old) s = .next t ∧
      coreOf t c = some co' ∧ co'.tok.getLsbD unit.toNat = tok ∧ co'.dat.getLsbD unit.toNat = dat ∧
      co'.firings = co.firings.modify unit.toNat (· + 1) ∧
      co'.halfFired.getLsbD unit.toNat = !(co.tok.getLsbD unit.toNat && co.dat.getLsbD unit.toNat)) ∧
    exec (.epochChange core dc co.epoch) s = .next b ∧
    (∀ epoch, epoch ≠ co.epoch → co.epochHold = false →
      exec (.epochChange core dc epoch) s = .next (upPush c (.epoch co.epoch epoch false co.tok co.dat (oldTokens co))
        (modCore c (fun x => { x with epoch := epoch, epochReq := false }) b))) ∧
    (∀ epoch, epoch ≠ co.epoch → co.epochHold = true →
      exec (.epochChange core dc epoch) s = .next (epochStops c (upPush c (.epoch co.epoch epoch true co.tok co.dat (oldTokens co))
        (modCore c (fun x => { x with epoch := epoch, epochReq := false }) (violate c 8 none b))))) ∧
    exec (.epochRequest core dc) s = .next (epochStops c (modCore c (fun x => { x with epochReq := true }) b)) ∧
    (co.sinceWord < 4 ∨ 48 ≤ co.upQ.length → exec (.keepAlive core dc) s = .next b) ∧
    (4 ≤ co.sinceWord → co.upQ.length < 48 → exec (.keepAlive core dc) s =
      .next (modCore c (fun x => upPut { cc := x.cc, kind := .keepAlive } x) b))

/-- The rows of slots, stores, errors and the program and data streams complete (R91, R93 to R96, R123, R183, R187, R213, R340,
R344), at a core that takes its rows, for a present engine out of reset; `b` is the state after the cycles since the core's last
row, and a word carries the tags of the command that the cycle belongs to. A slot operation is judged against the fence; a DRAIN or
PEEK of an empty slot and a FILL of a full one write their mark upward, any other its word. A store beat with the store stream off
is a violation and with no capture changes nothing more; under a capture a beat that spans blocks is a violation, each element that
does not fit is one, and the beat's elements go upward, those left out counted. An error of a positive count is counted and written
upward, one of count 0 changes nothing more. Retired code, judged against the fence, and data accesses of the selected engine are
written upward where the trace session or a comparator wants them; else, and for no retired code, nothing more changes. -/
def Obligations.CoreStreamRowsComplete : Prop :=
  ∀ (core : CoreIx) (eng : EngIx) dc s co,
    let c := core.toNat
    let e := eng.toNat
    let b := rowState c dc s
    let tags := cycleTags (engOf co e)
    let j := judgeFenced c (some e) co b
    portTaken s c = true → engLive s c e = true → coreOf b c = some co →
    (∀ (op : BitVec 2) full slot peer pv,
      (op = 1 ∨ op = 2 → full = false → exec (.slotOperation core dc op full slot eng peer pv) s =
        .next (upPush c (.slotMark eng tags false slot peer pv) j)) ∧
      (op = 0 → full = true → exec (.slotOperation core dc op full slot eng peer pv) s =
        .next (upPush c (.slotMark eng tags true slot peer pv) j)) ∧
      ((op = 1 ∨ op = 2 → full = true) → (op = 0 → full = false) →
        exec (.slotOperation core dc op full slot eng peer pv) s = .next (upPush c (.slotOp eng tags op full slot) j))) ∧
    (∀ cnt idx data scale, co.soEn = false → exec (.storeBeat core dc eng cnt idx data scale) s = .next (violate c 10 (some e) b)) ∧
    (∀ cnt idx data scale, co.soEn = true → capOf b (clusterOf c) = none →
      exec (.storeBeat core dc eng cnt idx data scale) s = .next b) ∧
    (∀ (cnt : BitVec 7) idx data scale x, co.soEn = true → capOf b (clusterOf c) = some x →
      let r := beatElems x.p c eng tags cnt.toNat idx data scale
      let v := violateN c 12 (some e) (cnt.toNat - elemsPerBeat x.p.elfmt)
        (if spansBlocks x.p cnt.toNat idx then violate c 9 (some e) b else b)
      exec (.storeBeat core dc eng cnt idx data scale) s =
        .next (upPushAll c r.1 (modCore c (fun y => { y with dropElems := y.dropElems + r.2 }) v))) ∧
    (∀ cls n code addr, n ≠ 0 → exec (.coreErrorReport core dc cls n eng code addr) s =
      .next (upPush c (.error eng tags cls n code addr) (countError c cls n.toNat b))) ∧
    (∀ cls code addr, exec (.coreErrorReport core dc cls 0 eng code addr) s = .next b) ∧
    (∀ (ret : BitVec 2) br tgt, ret ≠ 0 →
      let wanted := (sessionNames j (hubSession j) c e && kindIn (hubSession j) 1) || comparatorOn j c 1 (some e)
      (wanted = true → exec (.programRetire core eng dc ret br tgt) s = .next (upPush c (.prog eng tags ret br tgt) j)) ∧
      (wanted = false → exec (.programRetire core eng dc ret br tgt) s = .next j)) ∧
    (∀ br tgt, exec (.programRetire core eng dc 0 br tgt) s = .next b) ∧
    (∀ wr size addr data co0, coreOf s c = some co0 → co0.daSel = eng →
      let wanted := (hubTracedCore b c && kindIn (hubSession b) 2) || comparatorOn b c 2 none
      (wanted = true → exec (.dataAccess core dc wr size addr data) s = .next (upPush c (.data eng tags wr size addr data) b)) ∧
      (wanted = false → exec (.dataAccess core dc wr size addr data) s = .next b))

/-- The rows of stretch, gating and wake complete (R35, R99, R115 to R118, R388), at a core that takes its rows; `b` is the state
after the cycles since the core's last row. The stretch shown already changes nothing more; another is recorded; with a stop
armed its first change is written upward, and the shim of a core in service stops a core of the scan group that is stopped hard,
and else raises its holds. A notice standing already changes nothing more; a new one raises the core's holds and writes the notice
with the engines in flight, and where the power controller waits the QUIET word follows with the final values and `enterQuiet`. A
wake in a serving hub with the core's rail on runs `wakeRetained` or `wakeLost`, lowers the gating marks and writes the WAKE word
with the events discarded; else it changes nothing. `wakeRetained` makes a QUIET core ACTIVE with its engines in RUN, and STOPPED
under a cut in force that names it. -/
def Obligations.CorePowerNoticesComplete : Prop :=
  (∀ (core : CoreIx) dc s co,
    let c := core.toNat
    let b := rowState c dc s
    portTaken s c = true → coreOf b c = some co →
    exec (.stretchChange core dc co.stretch) s = .next b ∧
    (co.arm = none → exec (.stretchChange core dc (!co.stretch)) s =
      .next (modCore c (fun x => { x with stretch := !co.stretch }) b)) ∧
    (∀ n hard id, co.arm = some (n, hard, id) →
      let m := modCore c (fun x => { x with stretch := !co.stretch }) b
      let w := if co.armStretch then m else upPush c .stretchChange (modCore c (fun x => { x with armStretch := true }) m)
      exec (.stretchChange core dc (!co.stretch)) s = .next (if !coreInService co then w
        else if hard && decide (c ∈ scanGroup w) then stopCore c hard false (cutT w id) none w
        else modCore c (fun x => { raiseHolds x with holdsUp := true }) w)) ∧
    (co.gateWarn = true → ∀ w, exec (.gateWarn core dc w) s = .next b) ∧
    (co.gateWarn = false →
      let n := upPush c (.gateNotice (inflightMask co)) (modCore c (fun x => { raiseHolds x with gateWarn := true }) b)
      exec (.gateWarn core dc false) s = .next n ∧
      exec (.gateWarn core dc true) s = .next (enterQuiet c (linkDrains 1 c
        (upPush c (.quiet (inflightMask co) co.coreBusy co.cc false (finalValues co))
          (modCore c (fun x => { x with gateOk := true, quietDone := true }) (linkDrains 7 c n))))))) ∧
  (∀ (core : CoreIx) s co,
    let c := core.toNat
    coreOf s c = some co → serving s = true → railOff s c = false →
    let r := modCore c wakeMarks (wakeRetained c (modCore c (fun x => { x with gateWarn := false }) s))
    let l := modCore c wakeMarks (wakeLost c s)
    exec (.coreWake core true) s = .next (upPush c (.wake true co.discarded (((coreOf r c).map (·.cc)).getD 0) none) r) ∧
    exec (.coreWake core false) s = .next (upPush c (.wake false co.discarded (((coreOf l c).map (·.cc)).getD 0) none) l)) ∧
  (∀ (core : CoreIx) ret s, coreOf s core.toNat = none ∨ serving s = false ∨ railOff s core.toNat = true →
    exec (.coreWake core ret) s = .next s) ∧
  (∀ co, (wakeMarks co).gateWarn = false ∧ (wakeMarks co).gateOk = false ∧ (wakeMarks co).quietDone = false ∧
    (wakeMarks co).discarded = 0) ∧
  (∀ c s co, coreOf s c = some co → co.st = .quiet →
    let r := modCore c (fun x => { x with
      st := .active, engs := x.engs.map fun en => { en with st := .run, released := false, stepBegun := false } }) s
    (stopsOnReturn r c = none → wakeRetained c s = modCore c lowerHolds r) ∧
    (∀ x, stopsOnReturn r c = some x → wakeRetained c s = enterStopped c x 4 r))

/-- The rows of a core's acknowledgements and resets complete (R107, R108, R112 to R114, R396, R402); `b` is the state after the
cycles since the core's last row. The first acknowledgement of a fence settles the fence, and a rung 3 that waits for it goes on to
its reset; any other changes nothing more. An acknowledged abort lowers its holds, finishes its unit of a rung 1 and lets the next
abort begin; with none requested nothing more changes. A state access that stands ends with the word answered, after cycle 1,024
with TIMEOUT and a violation, and with none standing the acknowledgement is a violation; STATE_ACCESS_TIMEOUT ends it with TIMEOUT
once 1,024 cycles have passed, and else changes nothing more. ENGINE_RESET_ASSERT of a present engine out of reset is
`assertEngine`, which leaves it in reset with no request, no command and IDLE shown, and of any other changes nothing; its release
lets the engine out and finishes a rung 2 that waits. CORE_RESET_ASSERT out of reset is the same for every engine, with the core in
reset, its epoch and epoch request 0; its release lets core and engines out and finishes a rung 3 or a test's closing that waits;
both change nothing where the line stands so already. FENCE_ACK_TIMEOUT acts in a serving hub from a deadline on: it settles the
fence, and a rung 3 whose deadline it is escalates, fails where it may reach rung 4, or goes on to its reset. -/
def Obligations.CoreAcknowledgementsComplete : Prop :=
  (∀ (core : CoreIx) dc s co,
    let c := core.toNat
    let b := rowState c dc s
    portTaken s c = true → coreOf b c = some co →
    (co.fence = true → co.fenceAck = false →
      let f := fenceSettled c false (modCore c (fun x => { x with fenceAck := true, fenceDue := none }) b)
      (findUnit f (fun u => decide (u.rung = 3 ∧ u.core = c ∧ u.phase = .fence)) = none →
        exec (.fenceAck core dc) s = .next f) ∧
      (∀ id u, findUnit f (fun u => decide (u.rung = 3 ∧ u.core = c ∧ u.phase = .fence)) = some (id, u) →
        exec (.fenceAck core dc) s = .next (rungSettle id (rung3Reset id u f)))) ∧
    (co.fence = false ∨ co.fenceAck = true → exec (.fenceAck core dc) s = .next b) ∧
    (co.abortReq = false → exec (.abortAck core dc) s = .next b) ∧
    (co.abortReq = true →
      let l := modCore c lowerAbortHolds b
      ((co.abortQ.head?).bind (·.2) = none → exec (.abortAck core dc) s = .next (pumpAborts c l)) ∧
      (∀ id u, (co.abortQ.head?).bind (·.2) = some id →
        ((Machine.rungOf l id).bind fun r => r.units.find? fun u => decide (u.rung = 1 ∧ u.core = c)) = some u →
        exec (.abortAck core dc) s = .next (pumpAborts c (finishUnit id u l)))) ∧
    (∀ rdata err,
      (co.saReq = true → (co.cc - co.saSince).toNat ≤ 1024 →
        exec (.stateAccessAck core dc rdata err) s = .next (accessEnds c rdata (saCode err) false 2 co b)) ∧
      (co.saReq = true → 1024 < (co.cc - co.saSince).toNat →
        exec (.stateAccessAck core dc rdata err) s = .next (violate c 11 none (accessEnds c 0 rTimeout true 17 co b))) ∧
      (co.saReq = false → exec (.stateAccessAck core dc rdata err) s =
        .next (violate c (if co.saTimedOut then 11 else 10) none b))) ∧
    (co.saReq = true → 1024 ≤ (co.cc - co.saSince).toNat →
      exec (.stateAccessTimeout core dc) s = .next (accessEnds c 0 rTimeout true 17 co b)) ∧
    (co.saReq = false ∨ (co.cc - co.saSince).toNat < 1024 → exec (.stateAccessTimeout core dc) s = .next b)) ∧
  (∀ (core : CoreIx) (eng : EngIx) dc s co,
    let c := core.toNat
    let e := eng.toNat
    let b := rowState c dc s
    portTaken s c = true → coreOf s c = some co →
    (engLive s c e = true → exec (.engineResetAssert core eng dc) s = .next (assertEngine c b e)) ∧
    (engLive s c e = false → exec (.engineResetAssert core eng dc) s = .next s) ∧
    (engPresent co e = true → (engOf co e).rstN = false →
      let r := modEng c e (fun en => { en with rstN := true }) b
      (findUnit r (fun u => decide (u.rung = 2 ∧ u.core = c ∧ u.eng = e)) = none →
        exec (.engineResetRelease core eng dc) s = .next r) ∧
      (∀ id u, findUnit r (fun u => decide (u.rung = 2 ∧ u.core = c ∧ u.eng = e)) = some (id, u) →
        exec (.engineResetRelease core eng dc) s = .next (finishUnit id u (leaveEngineReset c e (advEngineGen 2 c e r))))) ∧
    (engPresent co e = false ∨ (engOf co e).rstN = true → exec (.engineResetRelease core eng dc) s = .next s) ∧
    (co.rstN = true → exec (.coreResetAssert core dc) s = .next (modCore c (fun x => { x with
      rstN := false, rstReq := false, epoch := 0, epochReq := false }) ((enginesOf co).foldl (assertEngine c) b))) ∧
    (co.rstN = false → exec (.coreResetAssert core dc) s = .next s) ∧
    (co.rstN = true → exec (.coreResetRelease core dc) s = .next s) ∧
    (co.rstN = false →
      let r := modCore c (fun x => { x with rstN := true, engs := x.engs.map fun en => { en with rstN := true } }) b
      let waits := findUnit r fun u => decide (u.rung = 3 ∧ u.core = c ∧ u.phase ≠ .fence)
      (waits = none → closingOn r c = false → exec (.coreResetRelease core dc) s = .next r) ∧
      (waits = none → closingOn r c = true → exec (.coreResetRelease core dc) s = .next (closeTest c (reset3Ends c r))) ∧
      (∀ id u, waits = some (id, u) → exec (.coreResetRelease core dc) s = .next (finishUnit id u (reset3Ends c r))))) ∧
  (∀ c e s co, coresWhole s = true → coreOf s c = some co → e < 8 → ∃ co', coreOf (assertEngine c s e) c = some co' ∧
    (engOf co' e).rstN = false ∧ (engOf co' e).rstReq = false ∧ (engOf co' e).cur = none ∧ (engOf co' e).rep = 0) ∧
  (∀ (core : CoreIx) s co,
    let c := core.toNat
    let now := hubGt s
    let late := (co.fenceDue.map fun d => decide (d ≤ now)).getD false
    let waits := s.rec_.fences.any fun w => decide (c ∈ w.waiting ∧ w.due ≤ now)
    let f := fenceSettled c late (modCore c (fun x => { x with fenceDue := if late then none else x.fenceDue }) s)
    let found := findUnit f fun u => decide (u.rung = 3 ∧ u.core = c ∧ u.phase = .fence ∧ u.due ≤ now)
    coreOf s c = some co →
    (serving s = false ∨ (late || waits) = false → exec (.fenceAckTimeout core) s = .next s) ∧
    (serving s = true → (late || waits) = true →
      (found = none → exec (.fenceAckTimeout core) s = .next f) ∧
      (∀ id u, found = some (id, u) →
        let g := modRung id (fun r => { r with noack := true }) f
        (Machine.rungOf g id = none → exec (.fenceAckTimeout core) s = .next g) ∧
        (∀ r, Machine.rungOf g id = some r →
          (∀ h, escalateUnit r u g = some h → exec (.fenceAckTimeout core) s = .next (rungSettle id h)) ∧
          (escalateUnit r u g = none → mayReach r 4 = true →
            exec (.fenceAckTimeout core) s = .next (rungSettle id (modRung id (unitFailed u false) g))) ∧
          (escalateUnit r u g = none → mayReach r 4 = false →
            exec (.fenceAckTimeout core) s = .next (rungSettle id (rung3Reset id u g)))))))

/-- The leaf's own rows complete (R50, R74, R75, R133, R135, R164, R178, R185, R285). With the leaf's interpolator valid, a stall
that has lasted 256 GT and is not in the crock yet is put there once, stamped at its start; a PROG record whose 64 cycles have passed
is closed. In a serving hub with the interpolator valid, a word taken from the observation link is merged under the stamp of
`wordStamp`; with none to take nothing changes. CLOCK_STOP_DETECT of a silent link takes the core's clock as stopped, or where
INFLIGHT of a QUIET is known brings QUIET under the last stamp; a link that is not silent, a clock already stopped, or a core
already quiet changes nothing. At a core that takes its rows, the crossing of a watched counter of a present engine that has
reached its threshold and not crossed is marked and written upward, and else only the cycles pass. The oldest account adds its
cycles to a defined context and counts its end there; with the context not defined only an end counts, as unattributed; with no
account nothing changes. -/
def Obligations.LeafRowsComplete : Prop :=
  (∀ (core : CoreIx) (eng : EngIx) cyc s co,
    let c := core.toNat
    let e := eng.toNat
    let en := engOf co e
    let inc := ((tget (clusterOf c) s.leaves).map (·.interp.inc)).getD 0
    coreOf s c = some co → leafValid s (clusterOf c) = true →
    (en.lRep = 2 → en.stallLogged = false → en.lReason + 256 ≤ leafGt s (clusterOf c) cyc →
      exec (.crockStallEntry core eng cyc) s = .next (modEng c e (fun x => { x with stallLogged := true })
        (crockPut c e 3 en.lCur (en.lStall.toNat * 2 ^ 32 + en.lChan.toNat) en.lReason s))) ∧
    (en.lRep ≠ 2 ∨ en.stallLogged = true ∨ leafGt s (clusterOf c) cyc < en.lReason + 256 →
      exec (.crockStallEntry core eng cyc) s = .next s) ∧
    (∀ p, en.prog = some p → p.first + 64 * inc / 65536 ≤ leafGt s (clusterOf c) cyc →
      exec (.progRecordTimeout core eng cyc) s = .next (traceFlush (clusterOf c) (closeProg c e none s))) ∧
    (∀ p, en.prog = some p → leafGt s (clusterOf c) cyc < p.first + 64 * inc / 65536 → exec (.progRecordTimeout core eng cyc) s = .next s) ∧
    (en.prog = none → exec (.progRecordTimeout core eng cyc) s = .next s)) ∧
  (∀ (core : CoreIx) cyc s co,
    let c := core.toNat
    let cl := clusterOf c
    coreOf s c = some co → serving s = true →
    (upTake co = none → exec (.obsLinkWordRead core cyc) s = .next s) ∧
    (∀ w rest, upTake co = some (w, rest) → leafValid s cl = true →
      let g := (wordStamp s cl cyc co w).1
      let k := mergedKind s c co w.kind
      let r := modCore c (fun _ => { rest with
        lastStamp := g, clockStopped := false, reads := (wordStamp s cl cyc co w).2, readAt := linkStamp s cl cyc
        lastFin := match w.kind with | .fin e _ _ _ _ _ _ => some e | _ => none
        map := mapTake w.cc g (if co.clockStopped then {} else rest.map) }) s
      exec (.obsLinkWordRead core cyc) s = .next (leafMerge cl (addEvent cl g (.word c k) (readKind c k co.lastStamp g
        (if co.clockStopped then restartBlock c r else r))))) ∧
    (leafValid s cl = false → exec (.obsLinkWordRead core cyc) s = .next s) ∧
    (linkSilent s cl cyc co = false ∨ co.clockStopped = true ∨ co.quietStamp.isSome = true →
      exec (.clockStopDetect core cyc) s = .next s) ∧
    (linkSilent s cl cyc co = true → co.clockStopped = false → co.quietStamp = none →
      (synthInflight s c co = none → exec (.clockStopDetect core cyc) s =
        .next (leafMerge cl (withdrawCore c (skimGap c false (modCore c (fun x => { x with clockStopped := true }) s))))) ∧
      (∀ infl, synthInflight s c co = some infl →
        let k := UpKind.quiet infl 0 0 true []
        exec (.clockStopDetect core cyc) s = .next (leafMerge cl (addEvent cl co.lastStamp (.word c k)
          (readKind c k co.lastStamp co.lastStamp
            (enterQuiet c (modCore c (fun x => { x with quietDone := true, pailLoss := 0xF }) s)))))))) ∧
  (∀ (core : CoreIx) (eng : EngIx) dc (i : BitVec 4) s co,
    let c := core.toNat
    let e := eng.toNat
    let b := rowState c dc s
    let blk := newestBlock b (clusterOf c)
    portTaken s c = true → coreOf b c = some co →
    (engPresent co e = true → cmpCounter blk i.toNat c e = true → slotReached blk i.toNat co e = true →
      (engOf co e).crossed.getLsbD i.toNat = false → exec (.counterCrossing core eng dc i) s =
        .next (upPush c (.crossing i eng (cycleTags (engOf co e)))
          (modEng c e (fun en => { en with crossed := setBit en.crossed i.toNat true }) b))) ∧
    (engPresent co e = false ∨ cmpCounter blk i.toNat c e = false ∨ slotReached blk i.toNat co e = false ∨
      (engOf co e).crossed.getLsbD i.toNat = true → exec (.counterCrossing core eng dc i) s = .next b)) ∧
  (∀ s, s.accounts = [] → exec .accountWord s = .next s) ∧
  (∀ s a l x, s.accounts = a :: l → serving s = true → tget a.ctx.toNat s.ctxs = some x → x.defined = true →
    ∃ t y, t = { s with accounts := l, ctxs := t.ctxs } ∧ tget a.ctx.toNat t.ctxs = some y ∧
      (a.ended = none → exec .accountWord s = .next t ∧ y = { x with busy := x.busy + wn a.cycles, accrued := true }) ∧
      (∀ st, a.ended = some st → exec .accountWord s = .next (contextEnded a.ctx.toNat t) ∧
        y = countEnd st { x with busy := x.busy + wn a.cycles, accrued := true })) ∧
  (∀ s a l, s.accounts = a :: l → serving s = true → ctxDefined s a.ctx.toNat = false →
    exec .accountWord s = .next { s with
      accounts := l, ao := if a.ended.isSome then { s.ao with unattrib := s.ao.unattrib + 1 } else s.ao })

/-- The rows of the beats and the reference complete (R46 to R49, R54, R56, R63, R78). With always-on power a beat moves the time
base to its next multiple of 1,024, gives the hub's interpolator and every leaf's that GT with DELAY added, modulo 2^64, slews, and
brings what it brings (`beatBrings`); with RATE below 2^42, no adjustment pending and the base far from its wrap the new GT is in
the next block of 1,024 and less than a RATE into it. A beat takes 1 GT off the slew that remains and adjusts by its sign. Two lost
beats leave the interpolator of the instance named with no beat, and so not valid. A lost or stopped reference brings HOLDOVER on
the always-on oscillator; its return leaves HOLDOVER for FREE on a hub that is no root and never was calibrated, and else only
clears the two marks. Without always-on power none of the four rows changes anything. -/
def Obligations.BeatAndReferenceRowsComplete : Prop :=
  (∀ obs hub tp s, s.power ≠ .off →
    let t := timeToBeat s.time
    let a := beatAll (gtWrap ((t.acc.toNat >>> 32) + s.time.delay.toNat)) obs hub tp { s with time := t }
    exec (.timeBeat obs hub tp) s = .next (beatBrings { a with time := slewBeat a.time })) ∧
  (∀ b obs hub tp s, (beatAll b obs hub tp s).time.hub.beat = b ∧
    ∀ c l, tget c s.leaves = some l → ∃ l', tget c (beatAll b obs hub tp s).leaves = some l' ∧ l'.interp.beat = b) ∧
  (∀ t : Time, t.adjust = 0 → 0 < t.rate.toNat → t.rate.toNat < 2 ^ 42 → t.acc.toNat + 2 ^ 43 < 2 ^ 96 →
    let old := t.acc.toNat >>> 32
    let new := (timeToBeat t).acc.toNat >>> 32
    new / 1024 = old / 1024 + 1 ∧ new < 1024 * (old / 1024 + 1) + t.rate.toNat / 2 ^ 32 + 1) ∧
  (∀ t : Time, t.slew ≠ 0 → (slewBeat t).slew.natAbs = t.slew.natAbs - 1 ∧ (slewBeat t).adjust = t.slew.sign) ∧
  (∀ s, exec (.beatsLost none none) s = .next { s with time := { s.time with hub := { s.time.hub with beats := 0, lost := true } } }) ∧
  (∀ (p : BitVec 4) cl s, exec (.beatsLost (some p) cl) s = .next { s with time := { s.time with
    tp := s.time.tp.modify p.toNat fun i => { i with beats := 0, lost := true } } }) ∧
  (∀ (cl : ClusterIx) s, exec (.beatsLost none (some cl)) s = .next (modLeaf cl.toNat (fun l => { l with
    interp := { l.interp with beats := 0, lost := true } }) s)) ∧
  (∀ i : Interp, interpValid { i with beats := 0 } = false) ∧
  (∀ s, s.power ≠ .off →
    exec .refLostAssert s = .next { s with time := { s.time with refLost := true, state := .holdover, onAo := true } } ∧
    exec .referenceStopDetect s = .next { s with time := { s.time with refStopped := true, state := .holdover, onAo := true } } ∧
    (s.time.state = .holdover → s.time.calibrated = false → s.time.root = false → exec .refLostDeassert s =
      .next { s with time := { s.time with refLost := false, refStopped := false, state := .free, onAo := false } }) ∧
    (s.time.state ≠ .holdover ∨ s.time.calibrated = true ∨ s.time.root = true → exec .refLostDeassert s =
      .next { s with time := { s.time with refLost := false, refStopped := false } })) ∧
  (∀ s, s.power = .off → exec .refLostAssert s = .next s ∧ exec .refLostDeassert s = .next s ∧
    exec .referenceStopDetect s = .next s ∧ ∀ obs hub tp, exec (.timeBeat obs hub tp) s = .next s)

/-- R48, in the order modulo 2^64 that R41's count has (`gtBelow`; the model's choice, log entry 79). At a beat of a GT `b` an
interpolator whose local value is below it takes it, and any other keeps its own; afterwards it shows the greater of that and the
beat's value with its advance. Where no value reaches 2^63 this is the order of numbers: it never falls from one cycle to a later
one. -/
def Obligations.InterpolatorsNeverFallBack : Prop :=
  ∀ (b n : Nat) (i : Interp),
    let l := interpAt i n
    let j := interpBeat b n i
    let at' := fun (c : Nat) => b + j.inc * c / 65536
    b < 2 ^ 64 →
    (gtBelow l b = true → interpAt j 0 = b) ∧ (gtBelow l b = false → interpAt j 0 = l) ∧
    (∀ c, interpAt j c = gtMax (interpAt j 0) (at' c % 2 ^ 64)) ∧
    (∀ d, l < 2 ^ 63 → at' d < 2 ^ 63 →
      (l < b → interpAt j 0 = b) ∧ (b ≤ l → interpAt j 0 = l) ∧
      (at' d ≤ interpAt j 0 → interpAt j d = interpAt j 0) ∧ (interpAt j 0 < at' d → interpAt j d = at' d) ∧
      (∀ c, c ≤ d → interpAt j c ≤ interpAt j d))

/-- A stop's rows at the leaf and the shim complete (R97 to R102, R254, R255). At a core of the cut that is not heard, from 256 GT
before T with the leaf's interpolator valid, a core out of service is excluded from T on and left alone before; else, where it is
not armed yet, the leaf answers for a core whose clock is stopped and sends any other the arm of its stop cycle, kind and cut; in
all other cases the leaf does nothing. At a core that takes its rows, `b` the state after the cycles since its last: with no arm at
the head of its downward queue, or one read in this cycle already, nothing more changes. A stop arm of no active cut is only read;
one whose cycle has come excludes a core out of service and stops any other on arrival; one still to come is latched. A restart arm
raises the holds. A sample arm waits for its cycle, marked where that has passed. With an arm latched, from cycle N - 4 the holds of
a core in service that is not to be frozen are raised; at N a core out of service is excluded and any other stopped; before, and
with none latched, nothing more changes. A core that takes no row changes nothing. -/
def Obligations.StopRowsAtTheCoreComplete : Prop :=
  (∀ (core : CoreIx) cyc id n s x co,
    let c := core.toNat
    let g := leafGt s (clusterOf c) cyc
    let due := c ∈ x.unheard ∧ co.claim = some id ∧ leafValid s (clusterOf c) = true ∧ x.t ≤ g + 256
    activeCut s id = some x → coreOf s c = some co →
    (¬ due → exec (.leafStopArm core cyc id n) s = .next s) ∧
    (due → excludedNow co = true → x.t ≤ g →
      exec (.leafStopArm core cyc id n) s = .next (excludeCore id c (coreReports co) (modCore c dropArm s))) ∧
    (due → excludedNow co = true → g < x.t → exec (.leafStopArm core cyc id n) s = .next s) ∧
    (due → excludedNow co = false → c ∉ x.unarmed → exec (.leafStopArm core cyc id n) s = .next s) ∧
    (due → excludedNow co = false → c ∈ x.unarmed → co.clockStopped = true →
      exec (.leafStopArm core cyc id n) s = .next (answerCore id c co x.t s)) ∧
    (due → excludedNow co = false → c ∈ x.unarmed → co.clockStopped = false → exec (.leafStopArm core cyc id n) s =
      .next (modCut id (fun x => { x with unarmed := x.unarmed.filter (· ≠ c) })
        (downPush c (.stopArm (stopCycle co x.t n) x.hard id) s)))) ∧
  (∀ (core : CoreIx) cyc id n s, activeCut s id = none ∨ coreOf s core.toNat = none →
    exec (.leafStopArm core cyc id n) s = .next s) ∧
  (∀ (core : CoreIx) dc s co,
    let c := core.toNat
    let b := tapAdvance c dc s
    let p := modCore c (fun x => { downPop x with downRead := true }) b
    let next := if co.downRead = true then none else co.downQ.head?
    tapLive s c = true → coreOf b c = some co →
    ((∀ w, next = some w → isArm w = false) → exec (.shimArmReceive core dc) s = .next b) ∧
    (∀ n hard id, next = some (.stopArm n hard id) →
      (activeCut p id = none → exec (.shimArmReceive core dc) s = .next p) ∧
      ((activeCut p id).isSome = true → ccReached co.cc n = false → exec (.shimArmReceive core dc) s =
        .next (modCore c (fun x => { x with arm := some (n, hard, id), holdsUp := false }) p)) ∧
      ((activeCut p id).isSome = true → ccReached co.cc n = true → exec (.shimArmReceive core dc) s =
        .next (if excludedNow co = true then excludeArmed c id p else stopCore c hard true (cutT p id) none p))) ∧
    (∀ id, next = some (.restartArm id) → exec (.shimArmReceive core dc) s = .next (modCore c raiseHolds p)) ∧
    (∀ n set k, next = some (.sampleArm n set k) → exec (.shimArmReceive core dc) s =
      .next (modCore c (fun x => { x with sampleArms := x.sampleArms ++ [(n, set, k, ccReached co.cc n)] }) p)) ∧
    (∀ n hard id, co.arm = some (n, hard, id) →
      let raises := ccReached (co.cc + 4) n && !(hard && decide (c ∈ scanGroup b)) && coreInService co
      (raises = true → exec (.shimHoldRaise core dc) s = .next (modCore c (fun x => { raiseHolds x with holdsUp := true }) b)) ∧
      (raises = false → exec (.shimHoldRaise core dc) s = .next b) ∧
      (∀ cyc, (ccReached co.cc n = false → exec (.shimStopCycle core dc cyc) s = .next b) ∧
        (ccReached co.cc n = true → exec (.shimStopCycle core dc cyc) s = .next (if excludedNow co = true then excludeArmed c id b
          else stopCore c hard false (cutT b id) (some (leafGt b (clusterOf c) cyc)) b)))) ∧
    (co.arm = none → ∀ cyc, exec (.shimHoldRaise core dc) s = .next b ∧ exec (.shimStopCycle core dc cyc) s = .next b)) ∧
  (∀ (core : CoreIx) dc cyc s, tapLive s core.toNat = false → exec (.shimArmReceive core dc) s = .next s ∧
    exec (.shimHoldRaise core dc) s = .next s ∧ exec (.shimStopCycle core dc cyc) s = .next s)

/-- The rows that end a cut, a step and a resume at the hub complete (R248, R249, R265 to R277). An awaited leaf report is taken
off the cut's, the last one completes this chip's part, and any other changes nothing. From T plus the watchdog on, each engine of
the cut that is SOFT_STOPPING is marked INCOMPLETE, the cut's wait ends and its leaves go on; before, nothing changes. 4,000,000 GT
later the origin of a system cut not complete, out of basic service, raises its event with the chips refused or not heard counted as
missing; before, nothing changes. A step's bound marks its begun engines INCOMPLETE and gives the others NO_BEGIN, each once its own
time is over, gives its steering units their outcomes once the bound is, and runs `stepFinish`; with no step it changes nothing. A
TIME step's release and a resume's, once their instants have come and never before, release the cores named, take them off the cut
and end it where it is over; a TIME step's cores pass to the new cut, and a resume that owes an event raises it. -/
def Obligations.CutInstantsComplete : Prop :=
  (∀ (cluster : ClusterIx) id s x, activeCut s id = some x → serving s = true →
    let cl := cluster.toNat
    let b := noteT id (modCut id (fun y => { y with
      reports := y.reports.filter (· ≠ cl), leaves := y.leaves.filter (· ≠ cl) }) s)
    (cl ∉ x.reports → exec (.leafCutReport cluster id) s = .next s) ∧
    (cl ∈ x.reports → x.leaves.filter (· ≠ cl) ≠ [] → exec (.leafCutReport cluster id) s = .next b) ∧
    (cl ∈ x.reports → x.leaves.filter (· ≠ cl) = [] →
      exec (.leafCutReport cluster id) s = .next (endIfOver id (completeCut id b)))) ∧
  (∀ id s x, activeCut s id = some x →
    let late := x.soft.filter fun q => ((coreOf s q.1).map fun co => decide ((engOf co q.2).st = .softStopping)).getD false
    (x.t + x.watchdog ≤ hubGt s → exec (.stopWatchdogExpiry id) s = .next (x.leaves.foldl (fun s cl => cutProgress id cl s)
      (modCut id (fun y => { y with soft := [], engStopped := y.engStopped + late.length, watchdogDone := true })
        (late.foldl (fun s q => markIncomplete id q.1 q.2 7 1 s) (noteT id s))))) ∧
    (hubGt s < x.t + x.watchdog → exec (.stopWatchdogExpiry id) s = .next s)) ∧
  (∀ id s x, keptCut s id = some x → x.origin = true → x.system = true → x.complete = false → basic s = false →
    (hubGt s < x.t + x.watchdog + 4000000 → exec (.cutReportDeadline id) s = .next s) ∧
    (x.t + x.watchdog + 4000000 ≤ hubGt s → exec (.cutReportDeadline id) s = .next (raiseCut id (modCut id (fun y => { y with
      missing := y.refused + (y.named.filter fun c => !decide (c ∈ y.reported)).length }) s)))) ∧
  (∀ id s x r, activeCut s id = some x → x.step = some r →
    let now := hubGt s
    let e := (r.engs.filter fun q => decide (q.2.2 ≤ now)).foldl (fun s q =>
      if ((coreOf s q.1).map fun co => (engOf co q.2.1).stepBegun).getD false = true then
        modStep id (fun z => { z with
          incomplete := true, engs := z.engs.filter (fun y => decide (¬ (y.1 = q.1 ∧ y.2.1 = q.2.1))) })
          (markIncomplete id q.1 q.2.1 1 0 s)
      else engineOutcome id q.1 q.2.1 12 0 true s) s
    exec (.stepBoundExpiry id) s = .next (stepFinish id (if r.release + r.bound ≤ now
      then r.fires.foldl (fun s c => steerOutcome id c s) e else e))) ∧
  (∀ id s x, activeCut s id = some x → x.step = none → exec (.stepBoundExpiry id) s = .next s) ∧
  (∀ id s x new a m r, activeCut s id = some x → x.timeStep = some (new, a, m, r) →
    let cs := stoppedIn s x a m
    (hubGt s < r → exec (.timeStepRelease id) s = .next s) ∧
    (r ≤ hubGt s → exec (.timeStepRelease id) s = .next (endIfOver id (modCut id (fun y => { y with
        stopped := y.stopped.filter (fun c => !decide (c ∈ cs)), cores := y.cores.filter (fun c => !decide (c ∈ cs))
        timeStep := none }) (takeOver id new cs (cs.foldl (fun s c => releaseCore 1 false r c s) s)))))) ∧
  (∀ id s x, keptCut s id = some x → (∀ q ∈ x.resumes, hubGt s < q.2.2.1) → exec (.resumeRelease id) s = .next s) ∧
  (∀ id s x q, keptCut s id = some x → x.resumes.find? (fun q => decide (q.2.2.1 ≤ hubGt s)) = some q →
    let r := modCut id (fun y => { y with resumes := eraseFirst (fun z => z == q) y.resumes })
      ((stoppedIn s x q.1 q.2.1).foldl (fun s c => releaseCore 2 true q.2.2.1 c (modCut id (fun y => { y with
        stopped := y.stopped.filter (· ≠ c), cores := y.cores.filter (· ≠ c) }) s)) s)
    (q.2.2.2 = none → exec (.resumeRelease id) s = .next (endIfOver id r)) ∧
    (∀ o, q.2.2.2 = some o → exec (.resumeRelease id) s =
      .next (endIfOver id (raiseEvent 0x0012 0 [id.setWidth 64, wn q.2.2.1] o 0 r))))

/-- The rows of the rind complete (R79, R256 to R259, R410 to R412, R595, R596, R598), on a present link of a serving hub. A packet
takes the verdict of `rindVerdict`: dropped on a closed link; held on one that has held, and where it is tagged and a cut of the
rind holds it (its stamp at or after T, or the rind's GT not valid); dropped where it is a reply of an old generation on a link
that checks it; else passed. The link then has that verdict, is held from the first hold on, keeps a passed tag with its GT, and
counts drops while closed and drops by generation; each active cut of the rind counts the holds and the untagged packets of an open
link. A departing packet is counted on a closed link, and changes nothing on an open one. On an absent link neither row changes
anything. RIND_LINKS_OPEN opens every link named at an instant that has come and keeps the other instants. -/
def Obligations.RindRowsComplete : Prop :=
  (∀ (link : BitVec 4) tagged tag reply (echo : BitVec 16) (dpart : PartIx) g s,
    let n := link.toNat
    let l := s.rind.links.getD n {}
    let tg := tagged && !s.ties.linkUntagged.getLsbD n
    let cutHolds := tg && (rindCuts s).any fun x => !tpValid s n || postTag g x.t tag
    let stale := reply && !s.ties.linkNogen.getLsbD n && decide (echo ≠ s.gens.chip ++ partGen s dpart.toNat)
    let v := rindVerdict s n tg tag reply echo dpart g
    s.ties.linkPresent.getLsbD n = true → serving s = true →
    (exec (.rindPacket link tagged tag reply echo dpart g) s = .next (countLink n (fun k => { k with
        held := if v.1 = 1 then satInc k.held else k.held
        untagged := if tg = false ∧ l.closed = false then satInc k.untagged else k.untagged })
      (modRind n (fun y => { y with
        verdict := BitVec.ofNat 2 v.1
        held := y.held || decide (v.1 = 1)
        lastTag := if tg = true ∧ v.1 = 0 then some tag else y.lastTag
        lastG := if tg = true ∧ v.1 = 0 then g else y.lastG
        closedDrop := if l.closed = true then satInc y.closedDrop else y.closedDrop
        genDrop := if v.2 = true then satInc y.genDrop else y.genDrop }) s))) ∧
    (l.closed = true → v = (2, false)) ∧
    (l.closed = false → l.held = true → v = (1, false)) ∧
    (l.closed = false → l.held = false → cutHolds = true → v = (1, false)) ∧
    (l.closed = false → l.held = false → cutHolds = false → stale = true → v = (2, true)) ∧
    (l.closed = false → l.held = false → cutHolds = false → stale = false → v = (0, false))) ∧
  (∀ link tagged tag reply echo dpart g s, s.ties.linkPresent.getLsbD (BitVec.toNat link) = false →
    exec (.rindPacket link tagged tag reply echo dpart g) s = .next s ∧ exec (.rindTxDrop link) s = .next s) ∧
  (∀ (link : BitVec 4) s, s.ties.linkPresent.getLsbD link.toNat = true → serving s = true → exec (.rindTxDrop link) s =
    .next (modRind link.toNat (fun l => if l.closed then { l with closedDrop := satInc l.closedDrop } else l) s)) ∧
  (∀ s, ∃ t, exec .rindLinksOpen s = .next t ∧ t = { s with rec_ := { s.rec_ with opens := t.rec_.opens }, rind := t.rind } ∧
    t.rec_.opens = s.rec_.opens.filter (fun q => decide (hubGt s < q.1)) ∧ t.rind.links.length = s.rind.links.length ∧
    (∀ n l, s.rind.links[n]? = some l → t.rind.links[n]? = some (if (s.rec_.opens.any fun q =>
      decide (q.1 ≤ hubGt s) && q.2.getLsbD n) = true then { l with closed := false } else l)))

/-- The pail's rows and the extension of counters complete (R131, R136 to R148). An unconfigured set, and one before its instant,
takes no sample. From the instant on in a serving hub the set's open sample is closed first (`pailClose`); then a set that is
configured and not faulted, with no configuration waiting, skips for want of space where the largest sample does not fit above READ,
and else opens the sample of its k and instant with the records it expects, at the set's write offset, and writes its header; a
faulted set skips. The leaf, its interpolator valid, writes the header-only record of an arm that an away core cannot spend, at its
instant; else for the sample the core is not armed for it sends the sample arm from 256 GT before the instant on, and for an away
core the header-only record from the instant on; before, and with nothing to arm, it does nothing. The shim takes the record of the
oldest arm whose cycle has come, and with none only the cycles pass. A record that is due leaves the flight and extends its core's
counters (but in basic service and for a header-only one); one of the open sample is written, and the last one expected closes the
sample. Housekeeping extends every light counter and enabled full set, and in basic service nothing. -/
def Obligations.PailRowsComplete : Prop :=
  (∀ i read s, (pailSet s i).cfg = none → exec (.pailSampleInstant i read) s = .next s) ∧
  (∀ i (read : Word) s p0, (pailSet s i).cfg = some p0 →
    (serving s = false ∨ hubGt s < sampleInstant (pailSet s i) p0 → exec (.pailSampleInstant i read) s = .next s) ∧
    (serving s = true → sampleInstant (pailSet s i) p0 ≤ hubGt s →
      let b := pailClose i s
      let ps := pailSet b i
      (ps.cfg = none → exec (.pailSampleInstant i read) s = .next b) ∧
      (∀ p, ps.cfg = some p →
        (ps.fault.isSome = true → exec (.pailSampleInstant i read) s = .next (pailSkip i b)) ∧
        (ps.fault = none → ps.next.isSome = true → exec (.pailSampleInstant i read) s = .next b) ∧
        (ps.fault = none → ps.next = none → freeBytes ps p read.toNat < largestSample (readMetered b) p →
          exec (.pailSampleInstant i read) s = .next (pailSkipFull i p (readMetered b))) ∧
        (ps.fault = none → ps.next = none → largestSample (readMetered b) p ≤ freeBytes ps p read.toNat →
          let m := readMetered b
          let n := if p.kind = 2 then (pailCtxs m p ps.domain).length else (coresIn m p.addr p.mask).length
          let o := modSet i (fun q => { q with
            read := read.toNat, nextK := ps.nextK + 1, missed := 0
            sample := some { k := ps.nextK, instant := sampleInstant ps p, expected := n, offset := ps.write } }) m
          let h := pailAppend i [pk [(4, 4, p.kind.toNat), (8, 4, i.toNat)], wn (sampleInstant ps p),
            pk [(48, 16, satN 16 ps.missed), (37, 1, b2n p.cmd), (36, 1, b2n p.ext), (32, 4, timeStateCode o.time.state),
                (0, 32, ps.nextK)]] o
          exec (.pailSampleInstant i read) s =
            .next (if p.kind = 2 then pailClose i (pailContexts i p ps.domain h) else h))))) ∧
  (∀ i (core : CoreIx) cyc n s co,
    let c := core.toNat
    let now := leafGt s (clusterOf c) cyc
    let unspent := if coreAway co = true then unspentArm i co else none
    coreOf s c = some co →
    (leafValid s (clusterOf c) = false → exec (.pailLeafArm i core cyc n) s = .next s) ∧
    (leafValid s (clusterOf c) = true →
      (∀ k, unspent = some k →
        (now < co.pailArmed.getD i.toNat 0 → exec (.pailLeafArm i core cyc n) s = .next s) ∧
        (co.pailArmed.getD i.toNat 0 ≤ now →
          exec (.pailLeafArm i core cyc n) s = .next (headerOnly i c k co (modCore c (withdrawArms i) s)))) ∧
      (unspent = none → armsCore s i c = none → exec (.pailLeafArm i core cyc n) s = .next s) ∧
      (∀ q k at_, unspent = none → armsCore s i c = some (q, k, at_) →
        let a := modCore c (fun x => { x with pailArmed := x.pailArmed.set i.toNat at_ }) s
        (now + (if coreAway co = true then 0 else 256) < at_ → exec (.pailLeafArm i core cyc n) s = .next s) ∧
        (coreAway co = true → at_ ≤ now → exec (.pailLeafArm i core cyc n) s = .next (headerOnly i c k co a)) ∧
        (coreAway co = false → at_ ≤ now + 256 →
          exec (.pailLeafArm i core cyc n) s = .next (downPush c (.sampleArm (stopCycle co at_ n) i k) a))))) ∧
  (∀ (core : CoreIx) dc cyc s co,
    let c := core.toNat
    let b := tapAdvance c dc s
    tapLive s c = true → coreOf b c = some co →
    (co.sampleArms.find? (fun q => ccReached co.cc q.1) = none → exec (.pailShimSample core dc cyc) s = .next b) ∧
    (∀ n i k read, co.sampleArms.find? (fun q => ccReached co.cc q.1) = some (n, i, k, read) → ∃ skew : Int,
      exec (.pailShimSample core dc cyc) s = .next (modCore c (fun x => { spendFlags i x with
        sampleArms := eraseFirst (fun q => q == (n, i, k, read)) x.sampleArms })
        { b with pail := { b.pail with
          flight := b.pail.flight ++ [takeSample co c (fullSet b i) i k (read || decide (co.cc ≠ n)) skew] } }))) ∧
  (∀ i s, s.pail.flight.find? (recordDue s i) = none → exec (.pailRecordArrival i) s = .next s) ∧
  (∀ i s r, s.pail.flight.find? (recordDue s i) = some r →
    let f := { s with pail := { s.pail with flight := eraseFirst (fun q => q == r) s.pail.flight } }
    let m := if basic s = true ∨ r.absent = true then f else modCore r.core (fun co =>
      r.engs.foldl (fun co q => modEngC q.1 (extendFull q.2.1) co) (extendLight r.light co)) f
    ((pailSet m i).cfg = none ∨ coreOf m r.core = none ∨ (∀ o, (pailSet m i).sample = some o → o.k ≠ r.k) →
      exec (.pailRecordArrival i) s = .next m) ∧
    (∀ p o co, (pailSet m i).cfg = some p → (pailSet m i).sample = some o → coreOf m r.core = some co → o.k = r.k →
      let a := modSet i (fun q => { q with sample := q.sample.map fun x => { x with records := x.records + 1 } })
        (pailAppend i (pailWords (basic m) p co r) m)
      exec (.pailRecordArrival i) s = .next (if o.expected ≤ o.records + 1 then pailClose i a else a))) ∧
  (∀ s, serving s = true → basic s = false → exec .housekeepingSample s =
    .next { s with cores := tmap (fun _ co => extendLight (co.coreBusy :: co.errs)
      { co with engs := co.engs.map fun en => if en.fullEn then extendFull en.full en else en }) s.cores }) ∧
  (∀ s, serving s = false ∨ basic s = true → exec .housekeepingSample s = .next s)

/-- The rows of trace transport and of triggers at the hub complete (R168 to R176, R194, R200 to R203). In a serving hub the milk
run moves one beat of records of its next leaf that has any to the hub, and with none nothing; a record at the hub goes to the
sink, and a session that has ended goes on to its end (`traceFinish`); READ of the host ring is read while a session runs on it and
the window has room. With no stop request nothing changes; the oldest one becomes a cut where the level suffices, out of basic
service, with no core claimed, the system free and a cut free, and is else discarded with event 0x0200 and its code. The oldest
raise is merged into one less than 256 GT old, or delivered, and a local raise of a channel with chips also sent on out of basic
service. A pulse is merged by the leaf it reaches, once that leaf's interpolator is valid. -/
def Obligations.TraceTransportAndTriggerRowsComplete : Prop :=
  (∀ (part : PartIx) s, serving s = true →
    let p := part.toNat
    let order := (List.range 64).map fun k => p * 64 + (s.trace.milkNext.getD p 0 + k) % 64
    let ready := fun cl => ((tget cl s.leaves).map fun l => !l.stream.out.isEmpty).getD false
    (order.find? ready = none → exec (.milkRunBeat part) s = .next s) ∧
    (∀ cl l, order.find? ready = some cl → tget cl s.leaves = some l →
      let r := beatOf l.stream.out
      exec (.milkRunBeat part) s = .next { modLeaf cl (fun l => { l with stream := { l.stream with out := r.2 } }) s with
        trace := { s.trace with
          hubQ := s.trace.hubQ ++ r.1.map fun w => (cl, w)
          milkNext := s.trace.milkNext.set p ((cl + 1) % 64) } } ∧ l.stream.out = r.1 ++ r.2)) ∧
  (∀ s, serving s = true → (s.trace.hubQ = [] → exec .traceSinkWrite s = .next (traceFinish (ringPump s))) ∧
    (∀ cl r l, s.trace.hubQ = (cl, r) :: l → exec .traceSinkWrite s =
      .next (traceFinish (ringPump (sinkTake cl r { s with trace := { s.trace with hubQ := l } }))))) ∧
  (∀ (read : Word) s,
    let polls := serving s && sessionRuns s && decide (sinkOf s = 2) && readFits s
    (polls = true → exec (.traceReadPoll read) s =
      .next (traceFinish (ringPump { readMetered s with trace := { s.trace with read := read.toNat } }))) ∧
    (polls = false → exec (.traceReadPoll read) s = .next s)) ∧
  (∀ s, s.triggers.stops = [] → exec .triggerStopRequest s = .next s) ∧
  (∀ s x l, s.triggers.stops = x :: l → serving s = true →
    let b := { s with triggers := { s.triggers with stops := l } }
    let u := stopSet b x
    let low := decide (levelRank (if x.mailbox then s.protect.debug else s.narrow.level) <
      levelRank (if x.hard then .invasive else .observe))
    let busy := claimed b u.1 u.2 || systemBusy b (namesOther b u.1 u.2)
    let refuse := fun (code : BitVec 8) => raiseEvent 0x0200 2 [(fullAddr b (clusterAddr x.cluster)).setWidth 64, wn x.seq,
      wn x.state, x.value.setWidth 64, wn x.stamp, code.setWidth 64] {} 0 (seqDrop x.cluster x.seq b)
    (low = false → basic s = false → busy = false → s.cuts.active.length < 16 →
      exec .triggerStopRequest s = .next (originateCut u.1 u.2 x.hard x.t 4000000 {} x.owner b)) ∧
    (low = true → exec .triggerStopRequest s = .next (refuse rDenied)) ∧
    (low = false → basic s = true → exec .triggerStopRequest s = .next (refuse rDegraded)) ∧
    (low = false → basic s = false → busy = true → exec .triggerStopRequest s = .next (refuse rBusy)) ∧
    (low = false → basic s = false → busy = false → 16 ≤ s.cuts.active.length →
      exec .triggerStopRequest s = .next (refuse rNoResource))) ∧
  (∀ s, s.triggers.raises = [] → exec .crossTriggerRaise s = .next s) ∧
  (∀ s ch g origin l, s.triggers.raises = (ch, g, origin) :: l → serving s = true →
    let b := { s with triggers := { s.triggers with raises := l } }
    let k := s.triggers.channels.getD ch {}
    (∀ t, k.last = some t → hubGt s < t + 256 → exec .crossTriggerRaise s = .next { b with triggers := { b.triggers with
      channels := s.triggers.channels.modify ch (fun x => { x with merged := x.merged + 1 }) } }) ∧
    ((∀ t, k.last = some t → t + 256 ≤ hubGt s) →
      let d := deliverChannel ch origin b
      (k.chips = false ∨ origin ≠ none ∨ basic d = true → exec .crossTriggerRaise s = .next d) ∧
      (k.chips = true → origin = none → basic d = false → exec .crossTriggerRaise s =
        .next (originateFlood (mkFrame d 0 0x11 0 3 [wn ch, wn g, k.haddr ++ k.hmask] 24) d)))) ∧
  (∀ (cluster : ClusterIx) cyc s, s.triggers.deliveries.find? (fun d => decide (d.1 = cluster.toNat)) = none →
    exec (.crossTriggerDeliver cluster cyc) s = .next s) ∧
  (∀ (cluster : ClusterIx) cyc s d, s.triggers.deliveries.find? (fun d => decide (d.1 = cluster.toNat)) = some d →
    let cl := cluster.toNat
    (leafValid s cl = false → exec (.crossTriggerDeliver cluster cyc) s = .next s) ∧
    (leafValid s cl = true → exec (.crossTriggerDeliver cluster cyc) s = .next (leafMerge cl (addEvent cl (leafGt s cl cyc)
      (.pulse d.2.1 d.2.2.1 d.2.2.2)
      { s with triggers := { s.triggers with deliveries := eraseFirst (fun x => x == d) s.triggers.deliveries } }))))

/-- The rows of the host memory port, its governor and the credits of dumps complete (R296, R299 to R303, R590, R592). In a
serving hub a response that matches a request in flight answers it, with OK, a translation fault (of a request that is not physical)
or an error; a beat that is not the last is kept with it; an answer that matches none is counted where its tag is late, and a beat
that matches none and is not the last changes nothing. A request 4,000,000 GT old ends as an error and its tag is late; before,
nothing changes. A later window of 4,000 GT than the current one starts with no byte used and issues what waits, and none else
changes anything. A credit turn first moves the dumps on (`pumpDumps`); the section whose turn it is is omitted where it has a cause,
left where the partition has no credit, and else read under one credit, the turns of leaf and core moved past it. A scan pass under
way writes the captured words upward and leaves scan configuration, with the clock enabled but for a HARD_STOPPED core; with none
under way nothing changes. -/
def Obligations.HostMemoryAndDumpRowsComplete : Prop :=
  (∀ tag (code : BitVec 2) s r, serving s = true → hmFind s tag true = some r →
    exec (.hostMemoryWriteResponse tag code) s = .next (hmAnswered r (hmCode r code) s)) ∧
  (∀ tag beat (code : BitVec 2) s r, serving s = true → hmFind s tag false = some r →
    let r1 := { r with got := r.got ++ padWords 8 beat }
    exec (.hostMemoryReadBeat tag beat true code) s = .next (hmAnswered r1 (hmCode r code) s) ∧
    exec (.hostMemoryReadBeat tag beat false code) s =
      .next { s with hm := { s.hm with out := modFirst (fun q => q.tag == tag) (fun _ => r1) s.hm.out } }) ∧
  (∀ r, hmCode r 0 = 0 ∧ (r.phys = false → hmCode r 1 = 1) ∧ (r.phys = true → hmCode r 1 = 2) ∧ hmCode r 2 = 2 ∧ hmCode r 3 = 2) ∧
  (∀ tag beat code s, serving s = true → hmFind s tag true = none → hmFind s tag false = none →
    let late := if tag ∈ s.hm.lateTags then { s with ao := { s.ao with hmLate := s.ao.hmLate + 1 } } else s
    exec (.hostMemoryWriteResponse tag code) s = .next late ∧ exec (.hostMemoryReadBeat tag beat true code) s = .next late ∧
    exec (.hostMemoryReadBeat tag beat false code) s = .next s) ∧
  (∀ tag s r, serving s = true → s.hm.out.find? (fun r => r.tag == tag) = some r →
    (r.issued + 4000000 ≤ hubGt s → exec (.hostMemoryTimeout tag) s =
      .next (hmAnswered r 2 { s with hm := { s.hm with lateTags := tag :: s.hm.lateTags } })) ∧
    (hubGt s < r.issued + 4000000 → exec (.hostMemoryTimeout tag) s = .next s)) ∧
  (∀ s, (s.hm.window < hubGt s / 4000 → exec .governorWindow s = .next (pumpHm (s.hm.waiting.length + 1)
      { s with hm := { s.hm with window := hubGt s / 4000, used := 0, dumped := 0 } })) ∧
    (hubGt s / 4000 ≤ s.hm.window → exec .governorWindow s = .next s)) ∧
  (∀ (part : PartIx) s, serving s = true →
    let b := pumpDumps s
    let p := part.toNat
    (firstTurn b p (creditTurns b p) = none → exec (.dumpCreditGrant part) s = .next b) ∧
    (∀ id i x d co, firstTurn b p (creditTurns b p) = some (id, i, x) → dumpOf b id = some d → coreOf b x.core = some co →
      (∀ cause, omitCause b x co = some cause → exec (.dumpCreditGrant part) s =
        .next (pumpDump id (omitSection id cause b (x, i)))) ∧
      (omitCause b x co = none → b.dumps.credits.getD p 0 = 0 → exec (.dumpCreditGrant part) s = .next b) ∧
      (omitCause b x co = none → b.dumps.credits.getD p 0 ≠ 0 → exec (.dumpCreditGrant part) s =
        .next (readChunk d i x co { b with dumps := { b.dumps with
          credits := b.dumps.credits.modify p (· - 1)
          nextLeaf := b.dumps.nextLeaf.set p (clusterOf x.core + 1)
          nextCore := tset (clusterOf x.core) (x.core + 1) b.dumps.nextCore } })))) ∧
  (∀ part s, serving s = false → exec (.dumpCreditGrant part) s = .next s) ∧
  (∀ (core : CoreIx) chunk s co, coreOf s core.toNat = some co →
    (co.scan = none ∨ co.scanRun = none → exec (.scanPassComplete core chunk) s = .next s) ∧
    (co.scan ≠ none → co.scanRun ≠ none → ∃ si, exec (.scanPassComplete core chunk) s =
      .next (upPush core.toNat (.scanData chunk) (modCore core.toNat (fun x => { x with
        scanRun := none, scanMode := false, scanSe := false, funcClkEn := decide (x.st ≠ .hardStopped), scanSi := si }) s))))

/-- The error rows complete (R341, R345, R347 to R351, R504, R612). In a serving hub the oldest record on its way is queued while
fewer than 4,096 wait and counted in the window, which begins storm mode once more than 1,024 records came in the window or 3,072
wait; with none on its way or no room nothing changes. The oldest queued record is logged; a TRIGGER record also counts its slot's
fire and, out of basic service, has its slot's action. An interval of a leaf ends 4,000 GT after its start and not before. In storm
mode the leaf's notice ends its interval without a record and carries its counts into the window's, once. A window that has ended
empties every leaf's counts and starts the next at the multiple of 40,000 GT reached; in storm mode it first logs the partitions'
summaries and counts quiet windows, and then, in basic service, logs the latched records, and else leaves storm mode after three
quiet windows. A leaf's SRAM error is reported under the leaf's GT with source 3 and class 0 or 1; the hub's is logged, and an
uncorrected one raises event 0x0303 and is handled. -/
def Obligations.ErrorRowsComplete : Prop :=
  (∀ s, s.errors.flight = [] → exec .errorRecordArrival s = .next s) ∧
  (∀ s r l, s.errors.flight = r :: l → serving s = true →
    let b := { s with errors := { s.errors with
      flight := l, queue := s.errors.queue ++ [r], winRecords := s.errors.winRecords + 1 } }
    let due := decide (1024 < b.errors.winRecords ∨ 3072 ≤ b.errors.queue.length)
    (4096 ≤ s.errors.queue.length → exec .errorRecordArrival s = .next s) ∧
    (s.errors.queue.length < 4096 → due = false ∨ s.errors.storm = true → exec .errorRecordArrival s = .next b) ∧
    (s.errors.queue.length < 4096 → due = true → s.errors.storm = false → exec .errorRecordArrival s = .next (enterStorm b))) ∧
  (∀ s, s.errors.queue = [] → ∀ w, exec (.intakeLogMove w) s = .next s) ∧
  (∀ s r l w, s.errors.queue = r :: l → serving s = true →
    let b := logRecord r { s with errors := { s.errors with queue := l } }
    let i := bits r.w2 63 56
    let f := { b with autofence := { b.autofence with fires := b.autofence.fires.modify i satInc } }
    (bits r.w1 63 60 ≠ 10 → exec (.intakeLogMove w) s = .next b) ∧
    (bits r.w1 63 60 = 10 → f.autofence.slots.getD i none = none → exec (.intakeLogMove w) s = .next f) ∧
    (∀ p, bits r.w1 63 60 = 10 → f.autofence.slots.getD i none = some p → exec (.intakeLogMove w) s =
      .next (if basic f = true then f else triggered i (bits r.w1 47 32 / 8) p w f))) ∧
  (∀ (cluster : ClusterIx) cyc s l t, tget cluster.toNat s.leaves = some l → l.err.start = some t →
    leafValid s cluster.toNat = true →
    (t + 4000 ≤ leafGt s cluster.toNat cyc → exec (.coalesceIntervalEnd cluster cyc) s = .next (endInterval cluster.toNat s)) ∧
    (leafGt s cluster.toNat cyc < t + 4000 → exec (.coalesceIntervalEnd cluster cyc) s = .next s)) ∧
  (∀ (cluster : ClusterIx) cyc s, s.errors.storm = false → exec (.stormNoticeReceive cluster cyc) s = .next s) ∧
  (∀ (cluster : ClusterIx) cyc s, s.errors.storm = true → exec (.stormNoticeReceive cluster cyc) s =
    .next (modErr cluster.toNat (fun y => if y.storm then y else { y with
      storm := true, start := none, cores := 0, counts := List.replicate 4 0
      window := (y.window.zip y.counts).map fun p => p.1 + p.2 }) s)) ∧
  (∀ s, hubGt s / 40000 * 40000 ≤ s.errors.winStart ∨ serving s = false → exec .stormWindowEnd s = .next s) ∧
  (∀ s, serving s = true → s.errors.winStart < hubGt s / 40000 * 40000 →
    let total := (s.leaves.map fun q => windowTotal q.2.err).foldl (· + ·) 0
    let sums := if s.errors.storm = true then (List.range 8).filterMap (summaryRec s) else []
    let l := sums.foldl (fun s r => logRecord r s) s
    let e := { l with
      leaves := tmap (fun _ y => { y with err := { y.err with window := List.replicate 4 0 } }) l.leaves
      errors := { l.errors with
        winStart := hubGt s / 40000 * 40000, winRecords := 0, summaries := l.errors.summaries + sums.length
        quiet := if l.errors.storm && decide (total < 64) && !stormDue s then l.errors.quiet + 1 else 0 } }
    exec .stormWindowEnd s = .next (if e.errors.storm = false then e
      else if basic e = true then (latched e).foldl (fun s r => logRecord r s) (clearLatches e)
      else if 3 ≤ e.errors.quiet then exitStorm e else e)) ∧
  (∀ (cluster : ClusterIx) cyc code (addr : BitVec 32) corrected s, ∃ r,
    exec (.leafSramError cluster cyc code addr corrected) s = .next (leafReport cluster.toNat r 1 none s) ∧
    r.w0 = wn (leafGt s cluster.toNat cyc) ∧ bits r.w1 63 60 = 3 ∧ bits r.w1 59 58 = (if corrected then 0 else 1)) ∧
  (∀ (code : BitVec 16) (addr : BitVec 32) s, serving s = true →
    exec (.hubSramError code addr true) s = .next (hubError 4 0 code.toNat addr.toNat 0 s) ∧
    exec (.hubSramError code addr false) s = .next (sramHandled code.toNat addr.toNat
      (raiseEvent 0x0303 3 [wn code.toNat, wn addr.toNat] {} 0 (hubError 4 1 code.toNat addr.toNat 0 s))))

/-- The rows of hang detection complete (R357 to R369, R378, R379, R381). With the leaf's interpolator valid, a channel stall of an
engine whose edges are allowed, not RESETTING, that has lasted BLOCK_GT raises the engine's edge once, with the channel, fullness,
generation and start of the stall under the next serial; before, and in every other case, nothing changes. In a serving hub the
oldest message on its way reaches the walker: an edge of the current generation is taken, a withdrawal of it removes the edge of its
serial (with no edge it still counts as withdrawn, with another serial it changes nothing more), and one of an old generation is
counted. A sweep runs in a serving hub once for each multiple of PERIOD: the progress sweep, and then, out of basic service and of
FALLBACK, the knots where they are enabled, and else no candidate stays; in FALLBACK it starts the resend of every cluster where
none runs and at most 24,576 edges are held. In a resend out of basic service a cluster's standing edges are taken; the last
cluster's end FALLBACK with event 0x0114; otherwise nothing changes. An ABORT action of a standing report is taken, out of basic
service, from the end of ACT_WAIT on and not before. -/
def Obligations.HangDetectionRowsComplete : Prop :=
  (∀ (core : CoreIx) (eng : EngIx) cyc s co,
    let c := core.toNat
    let e := eng.toNat
    let en := engOf co e
    let ripe := max en.lSince en.blockFrom + s.hang.blockGt
    coreOf s c = some co →
    (edgesAllowed co = false ∨ en.st = .resetting ∨ chanStall en = false ∨ leafValid s (clusterOf c) = false ∨
      leafGt s (clusterOf c) cyc < ripe ∨ en.edge ≠ none → exec (.waitEdgeRaise core eng cyc) s = .next s) ∧
    (edgesAllowed co = true → en.st ≠ .resetting → chanStall en = true → leafValid s (clusterOf c) = true →
      ripe ≤ leafGt s (clusterOf c) cyc → en.edge = none → ∃ w, exec (.waitEdgeRaise core eng cyc) s =
      .next { modEng c e (fun x => { x with edge := some w, serial := w.serial }) s with
        hang := { s.hang with flight := s.hang.flight ++ [.edge c e w] } } ∧
      w.chan = en.lChan ∧ w.full = decide (en.lStall = 3) ∧ w.serial = en.serial + 1 ∧ w.gen = engGen s c e ∧ w.since = en.lSince)) ∧
  (∀ s, s.hang.flight = [] → exec .waitEdgeReceive s = .next s) ∧
  (∀ s c e w l, s.hang.flight = .edge c e w :: l → serving s = true →
    let b := { s with hang := { s.hang with flight := l } }
    (w.gen = engGen s c e → exec .waitEdgeReceive s = .next (takeEdge (c * 8 + e) w b)) ∧
    (w.gen ≠ engGen s c e → exec .waitEdgeReceive s =
      .next { b with hang := { b.hang with staleEdge := satInc s.hang.staleEdge } })) ∧
  (∀ s c e gen serial l, s.hang.flight = .withdraw c e gen serial :: l → serving s = true →
    let b := { s with hang := { s.hang with flight := l } }
    (gen ≠ engGen s c e → exec .waitEdgeReceive s =
      .next { b with hang := { b.hang with staleEdge := satInc s.hang.staleEdge } }) ∧
    (gen = engGen s c e →
      (tget (c * 8 + e) s.hang.edges = none → exec .waitEdgeReceive s = .next (edgeWithdrawn (c * 8 + e) b)) ∧
      (∀ w, tget (c * 8 + e) s.hang.edges = some w → w.serial = serial → exec .waitEdgeReceive s =
        .next (edgeWithdrawn (c * 8 + e) { b with hang := { b.hang with edges := tdel (c * 8 + e) s.hang.edges } })) ∧
      (∀ w, tget (c * 8 + e) s.hang.edges = some w → w.serial ≠ serial → exec .waitEdgeReceive s = .next b))) ∧
  (∀ read s, serving s = false ∨ hubGt s / s.hang.period * s.hang.period ≤ s.hang.lastSweep →
    exec (.knotSweep read) s = .next s) ∧
  (∀ read s,
    let g := hubGt s / s.hang.period * s.hang.period
    let b := progressSweep g { s with hang := { s.hang with lastSweep := g } }
    let none_ := { b with hang := { b.hang with cands := [] } }
    serving s = true → s.hang.lastSweep < g →
    (basic b = true → exec (.knotSweep read) s = .next none_) ∧
    (basic b = false → b.hang.fallback = true → b.hang.resend = none → b.hang.edges.length ≤ 24576 → exec (.knotSweep read) s =
      .next { b with hang := { b.hang with resend := some (allClusters b) } }) ∧
    (basic b = false → b.hang.fallback = true → b.hang.resend ≠ none ∨ 24576 < b.hang.edges.length →
      exec (.knotSweep read) s = .next b) ∧
    (basic b = false → b.hang.fallback = false → b.hang.knots = true → exec (.knotSweep read) s = .next (knotSweep g read b)) ∧
    (basic b = false → b.hang.fallback = false → b.hang.knots = false → exec (.knotSweep read) s = .next none_)) ∧
  (∀ (cluster : ClusterIx) s, s.hang.resend = none → exec (.fallbackResendDone cluster) s = .next s) ∧
  (∀ (cluster : ClusterIx) s cls, s.hang.resend = some cls →
    let cl := cluster.toNat
    let t := (s.cores.filter fun q => decide (clusterOf q.1 = cl)).foldl (fun s q => q.2.engs.zipIdx.foldl (fun s x =>
      match x.1.edge with | none => s | some w => takeEdge (q.1 * 8 + x.2) w s) s) s
    let left := cls.filter (· ≠ cl)
    (cl ∉ cls ∨ basic s = true → exec (.fallbackResendDone cluster) s = .next s) ∧
    (cl ∈ cls → basic s = false → left ≠ [] → exec (.fallbackResendDone cluster) s =
      .next { t with hang := { t.hang with resend := some left } }) ∧
    (cl ∈ cls → basic s = false → left = [] → exec (.fallbackResendDone cluster) s =
      .next (raiseEvent 0x0114 1 [wn (hubGt t)] {} 0 { t with hang := { t.hang with
        fallback := false, resend := none, cands := [] } }))) ∧
  (∀ id s, (s.hang.standing.find? (fun k => k.id == id)).bind (·.abort) = none → exec (.hangAbortTimeout id) s = .next s) ∧
  (∀ id s k ctx due, s.hang.standing.find? (fun k => k.id == id) = some k → k.abort = some (ctx, due) →
    (hubGt s < due ∨ basic s = true → exec (.hangAbortTimeout id) s = .next s) ∧
    (due ≤ hubGt s → basic s = false → exec (.hangAbortTimeout id) s = .next (takeAbort id s)))

/-- The rows of an Iazan port's link complete (R439, R442 to R446), in a serving hub on one of the six ports. A PHY that rises
starts training on a usable port, one that falls takes a port that is not DOWN down (`goDown`), and one that stands so already
changes nothing. On a LIVE port a silence of 40,000 GT takes it down, and so do 16 failed checks within 4,000,000 GT, counted as a
retraining with a hub error; before, and in other states, nothing changes. A FENCED port trains again after 4,000,000,000 GT and
not before. With the PHY up and the port not DOWN, a link flit with a failed check counts one failure and restarts the flit count;
a good one keeps its GT, its chip and its AVOID, floods the link state where AVOID turned, and then goes to `trainFlit` or
`liveFlit` by the state; one that is sent is the port's `linkFlitOf`, returns at most 255 of the freed flits of each kind, and makes
a port LIVE that is due. Otherwise, and on other port numbers, nothing changes. -/
def Obligations.IazanPortRowsComplete : Prop :=
  (∀ (port : BitVec 3) s, serving s = true → port.toNat < 6 →
    let p := port.toNat
    let q := portOf s p
    (q.phy = false →
      let b := modPort p (fun q => { q with phy := true }) s
      (portUsable b p = true → exec (.iazanPhyUp port) s = .next (enterTraining p b)) ∧
      (portUsable b p = false → exec (.iazanPhyUp port) s = .next b) ∧ exec (.iazanPhyDown port) s = .next s) ∧
    (q.phy = true → p < s.iz.ports.length →
      let b := modPort p (fun q => { q with phy := false }) s
      (q.st = .down → exec (.iazanPhyDown port) s = .next b) ∧ (q.st ≠ .down → exec (.iazanPhyDown port) s = .next (goDown p b)) ∧
      exec (.iazanPhyUp port) s = .next s) ∧
    (q.st = .live →
      (q.lastFlit + 40000 ≤ hubGt s → exec (.linkFlitTimeout port) s = .next (goDown p s)) ∧
      (hubGt s < q.lastFlit + 40000 → exec (.linkFlitTimeout port) s = .next s) ∧
      ((q.failures.filter fun g => decide (hubGt s < g + 4000000)).length < 16 → exec (.checkFailureLimit port) s = .next s) ∧
      (16 ≤ (q.failures.filter fun g => decide (hubGt s < g + 4000000)).length → exec (.checkFailureLimit port) s =
        .next (goDown p (hubError 6 3 0 0 0 (modPort p (fun q => { q with
          retrainPulses := q.retrainPulses + 1, retrain := satInc q.retrain }) s))))) ∧
    (q.st ≠ .live → exec (.linkFlitTimeout port) s = .next s ∧ exec (.checkFailureLimit port) s = .next s) ∧
    (q.st = .fenced →
      (q.fencedAt + 4000000000 ≤ hubGt s → exec (.iazanFencedRetry port) s = .next (enterTraining p s)) ∧
      (hubGt s < q.fencedAt + 4000000000 → exec (.iazanFencedRetry port) s = .next s)) ∧
    (q.st ≠ .fenced → exec (.iazanFencedRetry port) s = .next s) ∧
    (q.phy = true → q.st ≠ .down →
      (∀ f, f.checkOk = false → exec (.linkFlitReceive port f) s = .next (modPort p (fun q => { q with rxFlits := 0 }) (checkFailed p s))) ∧
      (∀ f, f.checkOk = true →
        let m := modPort p (fun q => { q with lastFlit := hubGt s, neighbour := f.chip, navoid := f.avoid }) s
        let r := if q.navoid ≠ f.avoid then floodLinkState m else m
        ((portOf r p).st = .training → exec (.linkFlitReceive port f) s = .next (trainFlit p f r)) ∧
        ((portOf r p).st = .live → exec (.linkFlitReceive port f) s = .next (liveFlit p f r)) ∧
        ((portOf r p).st ≠ .training → (portOf r p).st ≠ .live → exec (.linkFlitReceive port f) s = .next r)) ∧
      (let b := modPort p (fun q => { q with
        lastSent := hubGt s, sentFlit := some (linkFlitOf s p), tx := [linkFlitWords (linkFlitOf s p)], nakDue := false
        freed := q.freed.map (· - 255), txAfter := if q.checked then q.txAfter + 1 else q.txAfter }) s
      exec (.linkFlitSend port) s = .next (if liveDue (portOf b p) then goLive p (portOf b p).agreed b else b))) ∧
    (q.phy = false ∨ q.st = .down → ∀ f, exec (.linkFlitReceive port f) s = .next s ∧ exec (.linkFlitSend port) s = .next s)) ∧
  (∀ (port : BitVec 3) f s, serving s = false ∨ 6 ≤ port.toNat → exec (.iazanPhyUp port) s = .next s ∧
    exec (.iazanPhyDown port) s = .next s ∧ exec (.linkFlitReceive port f) s = .next s ∧ exec (.linkFlitSend port) s = .next s)

/-- The rows of frames and of the torus's link state complete (R202, R441 to R443, R447 to R450, R452, R454, R457), in a serving
hub. On a LIVE port a frame whose CHECK holds against the next HOPSEQ and whose LEN is at most 3,552 advances HOPSEQ, ends the
rejection, gives its flits back and is accepted; any other makes a port reject, with one NAK and one failed check, and changes
nothing on a port that rejects; on a port not LIVE nothing changes. A frame accepted of an unknown type, or of 192 hops, is counted
and dropped; a flood goes to `receiveFlood`, a TIME frame does nothing here, and any other goes to this chip or on. Frames that have waited 400,000 GT
are dropped from the port's queue and counted. The oldest trigger frame is taken off, and joins the raises where it names this chip
out of basic service. The hub floods its own entry 400,000,000 GT after the last time and not before, and when it becomes AVOID,
once. The oldest link state is kept as its sender's entry, unless the entry held was heard within 1,200,000,000 GT and is later by
its sequence number. An entry not heard for that long has its ports taken as down, and none before. -/
def Obligations.IazanFramesAndLinkStateComplete : Prop :=
  ((∀ (port : BitVec 3) lane f check arrive s, serving s = true → port.toNat < 6 → (portOf s port.toNat).st = .live →
    let p := port.toNat
    let q := portOf s p
    (check = frameCheck f q.rxSeq → f.len.toNat ≤ 3552 → exec (.iazanFrameReceive port lane f check arrive) s =
      .next (acceptFrame p lane f arrive (modPort p (fun q => { q with
        rxSeq := q.rxSeq + 1, rejecting := false
        freed := q.freed.modify (2 * (frameClass f.hdr.type).toNat + b2n lane) (· + flitsOf f) }) s))) ∧
    (check ≠ frameCheck f q.rxSeq ∨ 3552 < f.len.toNat →
      (q.rejecting = true → exec (.iazanFrameReceive port lane f check arrive) s = .next s) ∧
      (q.rejecting = false → exec (.iazanFrameReceive port lane f check arrive) s =
        .next (modPort p (fun q => { q with rejecting := true, nakDue := true }) (checkFailed p s))))) ∧
  (∀ port lane f check arrive s, (portOf s (BitVec.toNat port)).st ≠ .live →
    exec (.iazanFrameReceive port lane f check arrive) s = .next s) ∧
  (∀ p lane f arrive s, knownType f.hdr.type = false →
    acceptFrame p lane f arrive s = modPort p (fun q => { q with badType := satInc q.badType }) s) ∧
  (∀ p lane f arrive s, knownType f.hdr.type = true → 192 ≤ f.hdr.hops.toNat →
    acceptFrame p lane f arrive s = modPort p (fun q => { q with hopsDrop := satInc q.hopsDrop }) s) ∧
  (∀ p lane f arrive s, knownType f.hdr.type = true → f.hdr.hops.toNat < 192 → floodType f.hdr.type = true →
    acceptFrame p lane f arrive s = receiveFlood p f arrive s) ∧
  (∀ p lane f arrive s, knownType f.hdr.type = true → f.hdr.hops.toNat < 192 → floodType f.hdr.type = false →
    timeType f.hdr.type = true → acceptFrame p lane f arrive s = s) ∧
  (∀ p lane f arrive s, knownType f.hdr.type = true → f.hdr.hops.toNat < 192 → floodType f.hdr.type = false →
    timeType f.hdr.type = false → (f.hdr.dst = chipOf s → acceptFrame p lane f arrive s = receiveLocal (some (BitVec.ofNat 3 p)) f arrive s) ∧
    (f.hdr.dst ≠ chipOf s → acceptFrame p lane f arrive s = transitFrame p lane f s)) ∧
  (∀ (port : BitVec 3) s, serving s = true → ∃ t, exec (.iazanFrameAged port) s = .next t ∧
    t = { s with iz := { s.iz with ports := t.iz.ports } } ∧
    (∀ f ∈ (portOf t port.toNat).txQ, hubGt s < f.since + 400000) ∧
    (port.toNat < s.iz.ports.length → (portOf t port.toNat).aged = satInc (portOf s port.toNat).aged
      ((portOf s port.toNat).txQ.filter fun f => decide (f.since + 400000 ≤ hubGt s)).length))) ∧
  ((∀ s x b, takeLocal (fun f => decide (f.hdr.type = 0x11)) s = some (x, b) →
    (basic b = false → namesHere b (floodAddr x) (floodMask x) = true → exec .triggerFrameReceive s =
      .next { b with triggers := { b.triggers with
        raises := b.triggers.raises ++ [(bits (wordOf x 0) 2 0, (wordOf x 1).toNat, some x.frame.hdr.src)] } }) ∧
    (basic b = true ∨ namesHere b (floodAddr x) (floodMask x) = false → exec .triggerFrameReceive s = .next b)) ∧
  (∀ s, takeLocal (fun f => decide (f.hdr.type = 0x11)) s = none → exec .triggerFrameReceive s = .next s) ∧
  (∀ s, serving s = true →
    (s.iz.lastLinkFlood + 400000000 ≤ hubGt s → exec .linkStatePeriodic s = .next (floodLinkState s)) ∧
    (hubGt s < s.iz.lastLinkFlood + 400000000 → exec .linkStatePeriodic s = .next s) ∧
    (s.iz.avoid = false → exec .avoidEntry s = .next (floodLinkState { s with iz := { s.iz with avoid := true } })) ∧
    (s.iz.avoid = true → exec .avoidEntry s = .next s)) ∧
  (∀ s x b, takeLocal (fun f => decide (f.hdr.type = 0x12)) s = some (x, b) →
    let src := x.frame.hdr.src.toNat
    let e := entryOf (x.frame.payload.getD 0 0) (hubGt b)
    let kept := { b with iz := { b.iz with links := tset src e b.iz.links } }
    (tget src b.iz.links = none → exec .linkStateReceive s = .next kept) ∧
    (∀ o, tget src b.iz.links = some o →
      (staleEntry b o = true ∨ (e.seq - o.seq).toNat < 2 ^ 15 → exec .linkStateReceive s = .next kept) ∧
      (staleEntry b o = false → 2 ^ 15 ≤ (e.seq - o.seq).toNat → exec .linkStateReceive s = .next b))) ∧
  (∀ s, takeLocal (fun f => decide (f.hdr.type = 0x12)) s = none → exec .linkStateReceive s = .next s) ∧
  (∀ (chip : BitVec 16) s, tget chip.toNat s.iz.links = none → exec (.linkStateStale chip) s = .next s) ∧
  (∀ (chip : BitVec 16) s e, tget chip.toNat s.iz.links = some e →
    (hubGt s < e.heard + 1200000000 → exec (.linkStateStale chip) s = .next s) ∧
    (e.heard + 1200000000 ≤ hubGt s → exec (.linkStateStale chip) s = .next { s with iz := { s.iz with
      links := tset chip.toNat { e with ports := List.replicate 6 (0, 0, false) } s.iz.links } })))

/-- The rows of the STOP_FLOOD operations complete (R246, R253, R262, R266, R271, R275, R313, R455, R456, R474). The oldest flood
of the operation is taken off; with none nothing changes, and in basic service it is applied to nothing. ARM of an id that no cut
has, naming this chip, is accepted as a cut, or refused where 16 are active. CANCEL of an active cut cancels it before it is in force
and counts as ignored after; RESUME of one adds its instant where it is not busy; STEP of one with no step under way arms the new cut
of word 5 with T at the release instant and DELTA, or refuses it where 16 are active; each does nothing more where the new id is
taken or the flood does not name this chip, and of no active cut. CHURN that names this chip starts its dump. FLOOD_RECORD_EXPIRY
keeps the flood records of less than 4,194,304 GT. -/
def Obligations.FloodRowsComplete : Prop :=
  (∀ op read s, takeLocal (fun f => decide (f.hdr.type = 0x10) && decide (bits (f.payload.getD 0 0) 63 56 = op)) s = none →
    (op = 0 → exec .floodArm s = .next s) ∧ (op = 1 → exec .floodCancel s = .next s) ∧ (op = 2 → exec .floodResume s = .next s) ∧
    (op = 3 → exec .floodStepTime s = .next s) ∧ (op = 4 → exec (.floodChurn read) s = .next s)) ∧
  (∀ op x b s, takeLocal (fun f => decide (f.hdr.type = 0x10) && decide (bits (f.payload.getD 0 0) 63 56 = op)) s = some (x, b) →
    let id := floodId x
    let a := floodAddr x
    let m := floodMask x
    (basic b = true → ∀ read, (op = 0 → exec .floodArm s = .next b) ∧ (op = 1 → exec .floodCancel s = .next b) ∧
      (op = 2 → exec .floodResume s = .next b) ∧ (op = 3 → exec .floodStepTime s = .next b) ∧
      (op = 4 → exec (.floodChurn read) s = .next b)) ∧
    (basic b = false → op = 0 →
      let k := bareCut id a m (bit (wordOf x 0) 55) (wordOf x 1).toNat (bits (wordOf x 3) 31 0) {} false true none b
      (keptCut b id = none → namesHere b a m = true →
        exec .floodArm s = .next (if 16 ≤ b.cuts.active.length then refuseCut k b else acceptCut k b)) ∧
      ((keptCut b id).isSome = true ∨ namesHere b a m = false → exec .floodArm s = .next b)) ∧
    (basic b = false → activeCut b id = none → (op = 1 → exec .floodCancel s = .next b) ∧
      (op = 2 → exec .floodResume s = .next b) ∧ (op = 3 → exec .floodStepTime s = .next b)) ∧
    (∀ k, basic b = false → activeCut b id = some k →
      (op = 1 → cutInForce b k = false → exec .floodCancel s = .next (cancelCut k.id b)) ∧
      (op = 1 → cutInForce b k = true → exec .floodCancel s =
        .next { b with iz := { b.iz with cancelIgnored := b.iz.cancelIgnored + 1 } }) ∧
      (op = 2 → resumeBusy b k a m = false → exec .floodResume s = .next (modCut k.id (fun y => { y with
        resumes := y.resumes ++ [(a, m, (wordOf x 1).toNat, none)] }) b)) ∧
      (op = 2 → resumeBusy b k a m = true → exec .floodResume s = .next b) ∧
      (op = 3 →
        let new := fieldB 32 (wordOf x 5) 0
        let y := bareCut new a m k.hard ((wordOf x 1).toNat + (wordOf x 4).toNat) (bits (wordOf x 3) 31 0) {} false true none b
        let free := k.step.isNone && k.timeStep.isNone && (keptCut b new).isNone && namesHere b y.addr y.mask
        (free = false → exec .floodStepTime s = .next b) ∧
        (free = true → exec .floodStepTime s = .next (if 16 ≤ b.cuts.active.length then refuseCut y b
          else armTimeStep k.id new y.addr y.mask (wordOf x 1).toNat y b)))) ∧
    (∀ read, basic b = false → op = 4 →
      (namesHere b a m = true → exec (.floodChurn read) s = .next (churnDump (fieldB 32 (wordOf x 4) 32) id
        (fieldB 6 (wordOf x 5) 0) (fieldB 4 (wordOf x 5) 8) (bit (wordOf x 5) 12) (fieldB 32 (wordOf x 5) 32) {} none read b)) ∧
      (namesHere b a m = false → exec (.floodChurn read) s = .next b))) ∧
  (∀ s, exec .floodRecordExpiry s = .next { s with iz := { s.iz with
    floods := s.iz.floods.filter fun x => decide (hubGt s < x.2.2 + 4194304) } })

/-- The rows of tagged requests from other chips complete (R464, R465, R468, R471, R472). With no such frame nothing changes; a
request seen before is taken off and gets its stored answer again, if it has one. A new REMOTE request of an undefined OP is answered
BAD_ARG, one refused by its generation the code that R14 puts first, and any other is taken as a command of its path. A new window
write is answered in the order of R468: DEGRADED in basic service, DENIED without authority, GENERATION, then for its window
WINDOW_CLOSED with a rejection counted, DENIED outside its allowed set, BAD_ARG outside its size, and else it is admitted; the
window's close is looked at after. A new streamed dump frame is answered DEGRADED in basic service; it reserves its stream where it
starts one, is answered NO_RESOURCE where no stream takes it, and is else written. -/
def Obligations.TaggedRequestsComplete : Prop :=
  (∀ p act s, takeLocal p s = none → takeTagged p act s = s) ∧
  (∀ p act s x b r, takeLocal p s = some (x, b) → respRecord b x.frame = some r →
    takeTagged p act s = (match r.frame with | some f => sendFrame f b | none => b)) ∧
  (∀ s x b, takeLocal (fun f => decide (f.hdr.type = 0x30) && decide (bits (f.payload.getD 0 0) 1 0 ≠ 1)) s = some (x, b) →
    respRecord b x.frame = none →
    let f := x.frame
    let entry : RespRec := { src := f.hdr.src, tag := f.hdr.tag, frame := none, at_ := hubGt b }
    let c := { b with iz := { b.iz with responses := pushRing 1024 entry b.iz.responses } }
    (2 ≤ bits (wordOf x 0) 1 0 → exec .remoteReqReceive s = .next (sendResponse f.hdr.src f.hdr.tag 0x31 1 rBadArg [] c)) ∧
    (bits (wordOf x 0) 1 0 < 2 → genRefused c f = true → exec .remoteReqReceive s = .next (sendResponse f.hdr.src f.hdr.tag 0x31 1
      (innerGenCode c (.remote f.hdr.src f.hdr.tag) (fieldB 16 (wordOf x 0) 16) (remoteWho c f)) [] c)) ∧
    (bits (wordOf x 0) 1 0 < 2 → genRefused c f = false → exec .remoteReqReceive s = .next (takeRequest
      (.remote f.hdr.src f.hdr.tag) (fieldB 16 (wordOf x 0) 16) 0 (bit (wordOf x 0) 2) (remoteWho c f) c.protect.debug
      (f.payload.drop 1) none c))) ∧
  (∀ s x b, takeLocal (fun f => decide (f.hdr.type = 0x30) && decide (bits (f.payload.getD 0 0) 1 0 = 1)) s = some (x, b) →
    respRecord b x.frame = none →
    let f := x.frame
    let entry : RespRec := { src := f.hdr.src, tag := f.hdr.tag, frame := none, at_ := hubGt b }
    let c := { b with iz := { b.iz with responses := pushRing 1024 entry b.iz.responses } }
    let win := fieldB 6 (wordOf x 1) 0
    let n := bits (wordOf x 1) 63 32
    let w := windowOf c win
    (basic c = true → exec .remoteWriteReceive s = .next (answerWrite f rDegraded c)) ∧
    (basic c = false → remoteWho c f = none → exec .remoteWriteReceive s = .next (answerWrite f rDenied c)) ∧
    (basic c = false → (remoteWho c f).isSome = true → genRefused c f = true →
      exec .remoteWriteReceive s = .next (answerWrite f rGeneration c)) ∧
    (basic c = false → (remoteWho c f).isSome = true → genRefused c f = false →
      let shut := !w.everOpened || (!w.isOpen && decide (w.closedAt ≤ x.arrive)) || decide (w.wgen ≠ fieldB 8 (wordOf x 1) 8)
      let inside := inSet (f.hdr.src ++ (0 : BitVec 16)) w.aaddr (w.amask &&& 0xFFFF0000)
      (shut = true → exec .remoteWriteReceive s = .next (windowClosed win (answerWrite f rWindowClosed
        (modWindow win (fun w => { w with rejected := w.rejected + 1 }) c)))) ∧
      (shut = false → inside = false → exec .remoteWriteReceive s = .next (windowClosed win (answerWrite f rDenied c))) ∧
      (shut = false → inside = true → n = 0 ∨ 3528 < n ∨ w.size.toNat < (wordOf x 2).toNat + n →
        exec .remoteWriteReceive s = .next (windowClosed win (answerWrite f rBadArg c))) ∧
      (shut = false → inside = true → n ≠ 0 → n ≤ 3528 → (wordOf x 2).toNat + n ≤ w.size.toNat →
        exec .remoteWriteReceive s = .next (windowClosed win (admitWrite x win n c))))) ∧
  (∀ read s x b, takeLocal (fun f => decide (f.hdr.type = 0x40)) s = some (x, b) → respRecord b x.frame = none →
    let entry : RespRec := { src := x.frame.hdr.src, tag := x.frame.hdr.tag, frame := none, at_ := hubGt b }
    let c := { b with iz := { b.iz with responses := pushRing 1024 entry b.iz.responses } }
    (basic c = true → exec (.dumpStreamReceive read) s = .next (answerStream x.frame rDegraded c)) ∧
    (basic c = false →
      let r := (if bit (wordOf x 0) 15 = true then reserveStream x read c else some c).bind fun d =>
        (streamIn d x.frame.hdr.src (fieldB 32 (wordOf x 0) 32)).map fun k => (d, k)
      (r = none → exec (.dumpStreamReceive read) s = .next (answerStream x.frame rNoResource c)) ∧
      (∀ d k, r = some (d, k) → exec (.dumpStreamReceive read) s = .next (writeStream x k d))))

/-- The rows of answers, events and reports from other chips, and of what expires, complete (R265, R315, R458, R463 to R465, R472,
R551, R552). With no such frame the five receiving rows change nothing. A response whose TAG matches an open entry of its purpose
closes the entry and answers its command, a streamed section's with OK or not by its result; any other is counted as late. A remote
event takes this hub's next NUMBER, with its code, stamp, origin and at most 13 payload words. A report is dropped in basic service;
a cut's goes to `cutReported`; a churn summary ends its sender's streams of the churn that awaits it and is heard, and changes
nothing where none does. An open entry whose time is over, with no response waiting, ends (`trackEnds`; for REMOTE its command is
answered TIMEOUT), and none before. Stored responses of 4,000,000 GT are dropped. A churn ends out of basic service at its deadline,
with event 0x0021 and PARTIAL, and not before. A narrow frame that is a response goes to `narrowReturn`, a new request to
`narrowRequest`. -/
def Obligations.RemoteAnswersAndExpiriesComplete : Prop :=
  (∀ s x b, takeLocal (fun f => decide (f.hdr.type = 0x31)) s = some (x, b) →
    (trackHit b x.frame.hdr.tag = none → exec .remoteRspReceive s = .next (countLate b)) ∧
    (∀ ix e via, trackHit b x.frame.hdr.tag = some (ix, e) → e.purpose = .remote via → exec .remoteRspReceive s =
      .next (respond via x.frame.hdr.result (responseWord1 x.frame :: x.frame.payload) (closeTrack ix b))) ∧
    (∀ ix e, trackHit b x.frame.hdr.tag = some (ix, e) → (∀ via, e.purpose ≠ .remote via) →
      exec .remoteRspReceive s = .next (countLate b))) ∧
  (∀ s x b, takeLocal (fun f => decide (f.hdr.type = 0x41)) s = some (x, b) →
    (trackHit b x.frame.hdr.tag = none → exec .streamRspReceive s = .next (countLate b)) ∧
    (∀ ix e d i h, trackHit b x.frame.hdr.tag = some (ix, e) → e.purpose = .stream d i h →
      (x.frame.hdr.result = rOk → exec .streamRspReceive s = .next (sectAnswered d i h (closeTrack ix b))) ∧
      (x.frame.hdr.result ≠ rOk → exec .streamRspReceive s = .next (streamFailed d (closeTrack ix b)))) ∧
    (∀ ix e, trackHit b x.frame.hdr.tag = some (ix, e) → (∀ d i h, e.purpose ≠ .stream d i h) →
      exec .streamRspReceive s = .next (countLate b))) ∧
  (∀ s, (takeLocal (fun f => decide (f.hdr.type = 0x31)) s = none → exec .remoteRspReceive s = .next s) ∧
    (takeLocal (fun f => decide (f.hdr.type = 0x41)) s = none → exec .streamRspReceive s = .next s) ∧
    (takeLocal (fun f => decide (f.hdr.type = 0x32)) s = none → exec .remoteEventReceive s = .next s) ∧
    (takeLocal (fun f => decide (f.hdr.type = 0x33)) s = none → exec .reportReceive s = .next s)) ∧
  (∀ s x b, takeLocal (fun f => decide (f.hdr.type = 0x32)) s = some (x, b) → ∃ e, exec .remoteEventReceive s =
    .next (queueEvent e { b with events := { b.events with number := b.events.number + 1 } }) ∧
    e.number = b.events.number ∧ e.remote = true ∧ e.code.toNat = bits (wordOf x 0) 63 48 ∧ e.payload.length ≤ 13 ∧
    e.stamp = (wordOf x 1).toNat ∧ e.origin.toNat = bits (wordOf x 2) 63 48) ∧
  (∀ s x b, takeLocal (fun f => decide (f.hdr.type = 0x33)) s = some (x, b) →
    (basic b = true → exec .reportReceive s = .next b) ∧
    (basic b = false → bits (wordOf x 0) 7 0 = 0 →
      exec .reportReceive s = .next (cutReported x.frame.hdr.src (x.frame.payload.drop 1) b)) ∧
    (basic b = false → bits (wordOf x 0) 7 0 ≠ 0 → (b.dumps.churns.find? fun k => decide (x.frame.hdr.src ∈ k.awaited)) = none →
      exec .reportReceive s = .next b) ∧
    (∀ k, basic b = false → bits (wordOf x 0) 7 0 ≠ 0 →
      (b.dumps.churns.find? fun k => decide (x.frame.hdr.src ∈ k.awaited)) = some k →
      let ours := fun (t : StreamIn) => t.chip == x.frame.hdr.src && t.churn == k.id
      let d := { b with dumps := { b.dumps with streams := b.dumps.streams.filter fun t => !ours t } }
      exec .reportReceive s = .next (churnHeard x.frame.hdr.src k.id (fieldB 8 (wordOf x 1) 40)
        ((b.dumps.streams.filter ours).foldl (fun s t => publishRegion t.region s) d)))) ∧
  (∀ (ix : BitVec 14) s, tget ix.toNat s.iz.tracker = none → exec (.trackerTimeout ix) s = .next s) ∧
  (∀ (ix : BitVec 14) s e, tget ix.toNat s.iz.tracker = some e →
    (hubGt s < e.deadline ∨ responseWaits s ix.toNat e = true → exec (.trackerTimeout ix) s = .next s) ∧
    (e.deadline ≤ hubGt s → responseWaits s ix.toNat e = false → exec (.trackerTimeout ix) s = .next (trackEnds ix.toNat e s)) ∧
    (∀ via, e.purpose = .remote via → trackEnds ix.toNat e s = respond via rTimeout [] (closeTrack ix.toNat s))) ∧
  (∀ s, exec .responseRecordExpiry s = .next { s with iz := { s.iz with
    responses := s.iz.responses.filter fun r => r.frame.isNone || decide (hubGt s < r.at_ + 4000000) } }) ∧
  (∀ id s, (s.dumps.churns.find? fun k => k.id == id) = none → exec (.churnDeadline id) s = .next s) ∧
  (∀ id s k, (s.dumps.churns.find? fun k => k.id == id) = some k → basic s = false →
    (hubGt s < k.deadline → exec (.churnDeadline id) s = .next s) ∧
    (k.deadline ≤ hubGt s → exec (.churnDeadline id) s = .next (raiseEvent 0x0021 0
      [id.setWidth 64, wn k.reporting, wn k.awaited.length, wn k.notOk] k.owner rPartial
      { s with dumps := { s.dumps with churns := eraseFirst (fun k => k.id == id) s.dumps.churns } }))) ∧
  (∀ s, (s.iz.local_.find? fun x => decide (x.frame.hdr.type = 0x50)) = none → exec .narrowFrameReceive s = .next s) ∧
  (∀ s x, (s.iz.local_.find? fun x => decide (x.frame.hdr.type = 0x50)) = some x → serving s = true →
    let b := { s with iz := { s.iz with local_ := eraseFirst (fun y => y == x) s.iz.local_ } }
    (x.frame.hdr.resp = true → exec .narrowFrameReceive s = .next (narrowReturn x b)) ∧
    (x.frame.hdr.resp = false → respRecord b x.frame = none →
      let entry : RespRec := { src := x.frame.hdr.src, tag := x.frame.hdr.tag, frame := none, at_ := hubGt b }
      exec .narrowFrameReceive s =
        .next (narrowRequest x { b with iz := { b.iz with responses := pushRing 1024 entry b.iz.responses } })))
end

