-- ==== Sys2Proof/Laws/Command.lean ====
section
/-! SUPPORT. What the shared operation of every catalogue command does once it is taken up, and what a refusal of rights says of
lower levels. -/
namespace Sys2Proof.Machine
/-- A well-formed request is judged by its checks alone. -/
theorem judged_wellTaken {via s} (h : wellTaken via s = true) (code) : judged s via code = code.map fun c => (c, false) := by
  unfold judged
  rw [Option.isNone_iff_eq_none.mp h]

/-- A command taken up answers the first code its checks give, and otherwise acts (R14). -/
theorem command_accepted {via cmd i served s} (h : accepted via cmd i served s = true) (checks act) :
    command via cmd i served checks act s = match firstCode (checks (begun via cmd i s)) with
      | some c => respond via c [] (begun via cmd i s)
      | none => act (begun via cmd i s) := by
  unfold accepted begun at *
  unfold command
  cases hs : startCall via cmd i s with
  | none => simp [hs] at h
  | some s1 =>
    simp only [hs, Option.getD_some, Option.isSome_some, Bool.true_and, Bool.and_eq_true] at h ⊢
    rw [Option.isNone_iff_eq_none.mp h.1, judged_wellTaken h.2]
    cases firstCode (checks s1) <;> rfl

/-- A list of checks that all hold gives no code. -/
theorem firstCode_none : ∀ (l : List (Bool × BitVec 8)), (∀ q ∈ l, q.1 = false) → firstCode l = none
  | [], _ => rfl
  | (b, c) :: l, h => by
    have hb : b = false := h (b, c) (by simp)
    simp only [firstCode, hb]
    exact firstCode_none l fun q hq => h q (by simp [hq])

/-- A command taken up whose checks refuse nothing acts. -/
theorem command_runs {via cmd i served s} (h : accepted via cmd i served s = true) {checks act}
    (hc : ∀ q ∈ checks (begun via cmd i s), q.1 = false) : command via cmd i served checks act s = act (begun via cmd i s) := by
  rw [command_accepted h, firstCode_none _ hc]

/-- Who is not denied at a debug level is not denied at a lower one (R515). -/
theorem denied_mono {s via r l l'} (h : denied s via r l = false) (hl : levelRank l' ≤ levelRank l) : denied s via r l' = false := by
  unfold denied at *
  simp at *
  refine ⟨h.1, fun x => ?_⟩
  have := h.2 x
  omega
end Sys2Proof.Machine
end

