-- ==== Sys2Proof/Laws/Memory.lean ====
section
/-! SUPPORT. The laws of the byte memory: what a byte reads after a write, and that every write keeps the canonical form. -/
namespace Sys2Proof.Machine

@[simp] theorem memRead_nil (a : Nat) : memRead a [] = 0 := rfl

@[simp] theorem memWf_nil : memWf [] = true := rfl

/-- Below the first listed address a memory in canonical form reads zero. -/
theorem memRead_below {lo a : Nat} {m : Mem} (h : memWfFrom lo m = true) (ha : a < lo) : memRead a m = 0 := by
  cases m with
  | nil => rfl
  | cons p t =>
    obtain ⟨a', b⟩ := p
    simp [memWfFrom] at h
    have h1 : ¬ a' = a := by omega
    have h2 : a < a' := by omega
    simp [memRead, h1, h2]

theorem memWfFrom_mono {lo lo' : Nat} {m : Mem} (h : memWfFrom lo m = true) (hl : lo' ≤ lo) : memWfFrom lo' m = true := by
  cases m with
  | nil => rfl
  | cons p t =>
    obtain ⟨a, b⟩ := p
    simp [memWfFrom] at h ⊢
    exact ⟨⟨by omega, h.1.2⟩, h.2⟩

theorem memWfFrom_memWrite {lo a : Nat} (b : Byte) {m : Mem} (h : memWfFrom lo m = true) (ha : lo ≤ a) :
    memWfFrom lo (memWrite a b m) = true := by
  induction m generalizing lo with
  | nil =>
    simp only [memWrite]
    split <;> simp_all [memWfFrom]
  | cons p t ih =>
    obtain ⟨a', b'⟩ := p
    simp [memWfFrom] at h
    obtain ⟨⟨h1, h2⟩, h3⟩ := h
    simp only [memWrite]
    split
    · next hlt => simp [memWfFrom, h1, h2, ih h3 (by omega)]
    · split
      · next heq =>
        split
        · exact memWfFrom_mono h3 (by omega)
        · next hb => subst heq; simp only [memWfFrom, h3, Bool.and_true, Bool.and_eq_true, decide_eq_true_eq, ne_eq]; exact ⟨ha, hb⟩
      · split
        · simp [memWfFrom, h1, h2, h3]
        · next hb =>
          have : a + 1 ≤ a' := by omega
          simp only [memWfFrom, h3, Bool.and_true, Bool.and_eq_true, decide_eq_true_eq, ne_eq]
          exact ⟨⟨ha, hb⟩, this, h2⟩

/-- One byte written keeps the canonical form. -/
@[simp] theorem memWf_memWrite {a : Nat} {b : Byte} {m : Mem} (h : memWf m = true) : memWf (memWrite a b m) = true :=
  memWfFrom_memWrite b h (Nat.zero_le a)

/-- A run of bytes written keeps the canonical form. -/
theorem memWf_memWriteBytes {a : Nat} {bs : List Byte} {m : Mem} (h : memWf m = true) :
    memWf (memWriteBytes a bs m) = true := by
  induction bs generalizing a m with
  | nil => exact h
  | cons b bs ih => exact ih (memWf_memWrite h)

/-- Words written keep the canonical form. -/
theorem memWf_memWriteWords {a : Nat} {ws : List Word} {m : Mem} (h : memWf m = true) :
    memWf (memWriteWords a ws m) = true := memWf_memWriteBytes h

theorem memRead_memWrite_from {lo a x : Nat} (b : Byte) {m : Mem} (h : memWfFrom lo m = true) :
    memRead x (memWrite a b m) = if x = a then b else memRead x m := by
  induction m generalizing lo with
  | nil =>
    simp only [memWrite]
    split <;> simp_all [memRead] <;> (repeat' split) <;> simp_all
  | cons p t ih =>
    obtain ⟨a', b'⟩ := p
    simp [memWfFrom] at h
    obtain ⟨⟨h1, h2⟩, h3⟩ := h
    simp only [memWrite]
    split
    · next hlt =>
      simp only [memRead, ih h3]
      (repeat' split) <;> first | rfl | omega
    · split
      · next heq =>
        subst heq
        split
        · next hb =>
          simp only [memRead]
          by_cases hx : x = a'
          · subst hx; simp [memRead_below h3 (Nat.lt_succ_self x), hb]
          · have : ¬ a' = x := fun e => hx e.symm
            simp only [hx, this, if_false]
            split
            · exact memRead_below h3 (by omega)
            · rfl
        · simp only [memRead]
          (repeat' split) <;> first | rfl | omega
      · split
        · next hb =>
          simp only [memRead]
          by_cases hx : x = a
          · subst hx
            have e1 : ¬ a' = x := by omega
            have e2 : x < a' := by omega
            simp [e1, e2, hb]
          · simp [hx]
        · simp only [memRead]
          (repeat' split) <;> first | rfl | omega

/-- The byte written reads back, and every other byte reads as before. -/
theorem memRead_memWrite {a x : Nat} (b : Byte) {m : Mem} (h : memWf m = true) :
    memRead x (memWrite a b m) = if x = a then b else memRead x m := memRead_memWrite_from b h

/-- The bytes of a run read back in order, and every byte outside it reads as before. -/
theorem memRead_memWriteBytes {a x : Nat} {bs : List Byte} {m : Mem} (h : memWf m = true) :
    memRead x (memWriteBytes a bs m) =
      if a ≤ x ∧ x < a + bs.length then bs.getD (x - a) 0 else memRead x m := by
  induction bs generalizing a m with
  | nil =>
    have h0 : ¬ (a ≤ x ∧ x < a + ([] : List Byte).length) := by simp only [List.length_nil]; omega
    rw [if_neg h0]
    rfl
  | cons b bs ih =>
    simp only [memWriteBytes, ih (memWf_memWrite h), memRead_memWrite b h, List.length_cons]
    by_cases hx : x = a
    · subst hx
      have h1 : ¬ (x + 1 ≤ x ∧ x < x + 1 + bs.length) := by omega
      have h2 : x ≤ x ∧ x < x + (bs.length + 1) := by omega
      rw [if_neg h1, if_pos h2]
      simp
    · by_cases h1 : a + 1 ≤ x ∧ x < a + 1 + bs.length
      · have h2 : a ≤ x ∧ x < a + (bs.length + 1) := by omega
        have h3 : x - a = (x - (a + 1)) + 1 := by omega
        simp only [h1, h2, and_self, if_true, h3, List.getD_cons_succ]
      · have h2 : ¬ (a ≤ x ∧ x < a + (bs.length + 1)) := by omega
        rw [if_neg h1, if_neg h2, if_neg hx]

end Sys2Proof.Machine
end

