-- ==== Sys2Proof/Laws/Port.lean ====
section
/-!
SUPPORT. What a row at the tap port does, once for every row: where the core takes it, its own effect on `rowState`; where it takes
none, nothing; after QUIET, the discard.
-/
namespace Sys2Proof.Machine

theorem portTaken_tapLive {s : State} {c : Nat} (h : portTaken s c = true) : tapLive s c = true := by
  simp only [portTaken, Bool.and_eq_true] at h; exact h.1

theorem portTaken_discards {s : State} {c : Nat} (h : portTaken s c = true) : discards s c = false := by
  simp only [portTaken, Bool.and_eq_true, Bool.not_eq_true'] at h; exact h.2

/-- A row that the core takes acts on the state after the cycles since the core's last row. -/
theorem tapRow_taken {s : State} {c : Nat} (h : portTaken s c = true) (dc n : Nat) (act : State → State) :
    tapRow c dc n act s = act (rowState c dc s) := by
  simp only [tapRow, portTaken_discards h, portTaken_tapLive h, Bool.false_and, Bool.false_eq_true, if_false, if_true, rowState]

/-- A row of a core that takes none changes nothing. -/
theorem tapRow_dead {s : State} {c : Nat} (h : tapLive s c = false) (d : discards s c = false) (dc n : Nat) (act : State → State) :
    tapRow c dc n act s = s := by
  simp only [tapRow, h, d, Bool.false_and, Bool.false_eq_true, if_false]

/-- A row after QUIET counts its events as discarded. -/
theorem tapRow_discards {s : State} {c : Nat} (d : discards s c = true) (v : serving s = true) (r : railOff s c = false)
    (dc n : Nat) (act : State → State) : tapRow c dc n act s = discard c n (tapAdvance c dc s) := by
  simp only [tapRow, d, v, r, Bool.true_and, Bool.not_false, if_true]

theorem coreRow_taken {s : State} {c dc : Nat} {co : Core} (h : portTaken s c = true) (hc : coreOf (rowState c dc s) c = some co)
    (n : Nat) (act : Core → State → State) : coreRow c dc n act s = act co (rowState c dc s) := by
  simp only [coreRow, tapRow_taken h, hc]

theorem engRow_taken {s : State} {c e dc : Nat} {co : Core} (h : portTaken s c = true) (he : engLive s c e = true)
    (hc : coreOf (rowState c dc s) c = some co) (n : Nat) (act : Core → Engine → State → State) :
    engRow c e dc n act s = act co (engOf co e) (rowState c dc s) := by
  simp only [engRow, he, if_true, tapRow_taken h, hc]

theorem engLive_rstN {s : State} {c e : Nat} (he : engLive s c e = true) :
    ((coreOf s c).map fun co => (engOf co e).rstN).getD false = true := by
  unfold engLive at he
  split at he
  · exact absurd he (by simp)
  · next co hco => simp only [hco, Option.map_some, Option.getD_some]; exact (Bool.and_eq_true _ _ ▸ he).2

theorem namedRow_taken {s : State} {c e dc : Nat} {co : Core} (h : portTaken s c = true) (he : engLive s c e = true)
    (hc : coreOf (rowState c dc s) c = some co) (n : Nat) (act : Core → Engine → State → State) :
    namedRow c e dc n act s = act co (engOf co e) (rowState c dc s) := by
  simp only [namedRow, engLive_rstN he, if_true, tapRow_taken h, hc]

end Sys2Proof.Machine
end

