-- ==== Sys2Proof/Laws/State.lean ====
section
/-! SUPPORT. What each named update of the state leaves as it was, one lemma per update and field, and what it writes. -/
namespace Sys2Proof.Machine

variable (s : State)

/-! ## modCore -/
section
variable (c : Nat) (f : Core → Core)
@[simp] theorem modCore_pending : (modCore c f s).pending = s.pending := rfl
@[simp] theorem modCore_time : (modCore c f s).time = s.time := rfl
@[simp] theorem modCore_cores : (modCore c f s).cores = tmod c f s.cores := rfl
@[simp] theorem modCore_leaves : (modCore c f s).leaves = s.leaves := rfl
@[simp] theorem modCore_gens : (modCore c f s).gens = s.gens := rfl
@[simp] theorem modCore_ctxs : (modCore c f s).ctxs = s.ctxs := rfl
@[simp] theorem modCore_accounts : (modCore c f s).accounts = s.accounts := rfl
@[simp] theorem modCore_hr : (modCore c f s).hr = s.hr := rfl
@[simp] theorem modCore_ao : (modCore c f s).ao = s.ao := rfl
@[simp] theorem modCore_ties : (modCore c f s).ties = s.ties := rfl
@[simp] theorem modCore_power : (modCore c f s).power = s.power := rfl
@[simp] theorem modCore_pw : (modCore c f s).pw = s.pw := rfl
@[simp] theorem modCore_fw : (modCore c f s).fw = s.fw := rfl
@[simp] theorem modCore_mb : (modCore c f s).mb = s.mb := rfl
@[simp] theorem modCore_protect : (modCore c f s).protect = s.protect := rfl
@[simp] theorem modCore_fuses : (modCore c f s).fuses = s.fuses := rfl
@[simp] theorem modCore_fuseWrites : (modCore c f s).fuseWrites = s.fuseWrites := rfl
@[simp] theorem modCore_narrow : (modCore c f s).narrow = s.narrow := rfl
@[simp] theorem modCore_events : (modCore c f s).events = s.events := rfl
@[simp] theorem modCore_errors : (modCore c f s).errors = s.errors := rfl
@[simp] theorem modCore_hm : (modCore c f s).hm = s.hm := rfl
@[simp] theorem modCore_pail : (modCore c f s).pail = s.pail := rfl
@[simp] theorem modCore_trace : (modCore c f s).trace = s.trace := rfl
@[simp] theorem modCore_iz : (modCore c f s).iz = s.iz := rfl
@[simp] theorem modCore_triggers : (modCore c f s).triggers = s.triggers := rfl
@[simp] theorem modCore_cuts : (modCore c f s).cuts = s.cuts := rfl
@[simp] theorem modCore_rind : (modCore c f s).rind = s.rind := rfl
@[simp] theorem modCore_autofence : (modCore c f s).autofence = s.autofence := rfl
@[simp] theorem modCore_hang : (modCore c f s).hang = s.hang := rfl
@[simp] theorem modCore_dumps : (modCore c f s).dumps = s.dumps := rfl
@[simp] theorem modCore_check : (modCore c f s).check = s.check := rfl
@[simp] theorem modCore_rec_ : (modCore c f s).rec_ = s.rec_ := rfl
@[simp] theorem modCore_test : (modCore c f s).test = s.test := rfl
@[simp] theorem modCore_free : (modCore c f s).free = s.free := rfl
end

/-! ## modEng -/
section
variable (c e : Nat) (f : Engine → Engine)
@[simp] theorem modEng_pending : (modEng c e f s).pending = s.pending := rfl
@[simp] theorem modEng_time : (modEng c e f s).time = s.time := rfl
@[simp] theorem modEng_leaves : (modEng c e f s).leaves = s.leaves := rfl
@[simp] theorem modEng_gens : (modEng c e f s).gens = s.gens := rfl
@[simp] theorem modEng_ctxs : (modEng c e f s).ctxs = s.ctxs := rfl
@[simp] theorem modEng_accounts : (modEng c e f s).accounts = s.accounts := rfl
@[simp] theorem modEng_hr : (modEng c e f s).hr = s.hr := rfl
@[simp] theorem modEng_ao : (modEng c e f s).ao = s.ao := rfl
@[simp] theorem modEng_ties : (modEng c e f s).ties = s.ties := rfl
@[simp] theorem modEng_power : (modEng c e f s).power = s.power := rfl
@[simp] theorem modEng_pw : (modEng c e f s).pw = s.pw := rfl
@[simp] theorem modEng_fw : (modEng c e f s).fw = s.fw := rfl
@[simp] theorem modEng_mb : (modEng c e f s).mb = s.mb := rfl
@[simp] theorem modEng_protect : (modEng c e f s).protect = s.protect := rfl
@[simp] theorem modEng_fuses : (modEng c e f s).fuses = s.fuses := rfl
@[simp] theorem modEng_fuseWrites : (modEng c e f s).fuseWrites = s.fuseWrites := rfl
@[simp] theorem modEng_narrow : (modEng c e f s).narrow = s.narrow := rfl
@[simp] theorem modEng_events : (modEng c e f s).events = s.events := rfl
@[simp] theorem modEng_errors : (modEng c e f s).errors = s.errors := rfl
@[simp] theorem modEng_hm : (modEng c e f s).hm = s.hm := rfl
@[simp] theorem modEng_pail : (modEng c e f s).pail = s.pail := rfl
@[simp] theorem modEng_trace : (modEng c e f s).trace = s.trace := rfl
@[simp] theorem modEng_iz : (modEng c e f s).iz = s.iz := rfl
@[simp] theorem modEng_triggers : (modEng c e f s).triggers = s.triggers := rfl
@[simp] theorem modEng_cuts : (modEng c e f s).cuts = s.cuts := rfl
@[simp] theorem modEng_rind : (modEng c e f s).rind = s.rind := rfl
@[simp] theorem modEng_autofence : (modEng c e f s).autofence = s.autofence := rfl
@[simp] theorem modEng_hang : (modEng c e f s).hang = s.hang := rfl
@[simp] theorem modEng_dumps : (modEng c e f s).dumps = s.dumps := rfl
@[simp] theorem modEng_check : (modEng c e f s).check = s.check := rfl
@[simp] theorem modEng_rec_ : (modEng c e f s).rec_ = s.rec_ := rfl
@[simp] theorem modEng_test : (modEng c e f s).test = s.test := rfl
@[simp] theorem modEng_free : (modEng c e f s).free = s.free := rfl
end

/-! ## modLeaf -/
section
variable (k : Nat) (f : Leaf → Leaf)
@[simp] theorem modLeaf_pending : (modLeaf k f s).pending = s.pending := rfl
@[simp] theorem modLeaf_time : (modLeaf k f s).time = s.time := rfl
@[simp] theorem modLeaf_cores : (modLeaf k f s).cores = s.cores := rfl
@[simp] theorem modLeaf_leaves : (modLeaf k f s).leaves = tmod k f s.leaves := rfl
@[simp] theorem modLeaf_gens : (modLeaf k f s).gens = s.gens := rfl
@[simp] theorem modLeaf_ctxs : (modLeaf k f s).ctxs = s.ctxs := rfl
@[simp] theorem modLeaf_accounts : (modLeaf k f s).accounts = s.accounts := rfl
@[simp] theorem modLeaf_hr : (modLeaf k f s).hr = s.hr := rfl
@[simp] theorem modLeaf_ao : (modLeaf k f s).ao = s.ao := rfl
@[simp] theorem modLeaf_ties : (modLeaf k f s).ties = s.ties := rfl
@[simp] theorem modLeaf_power : (modLeaf k f s).power = s.power := rfl
@[simp] theorem modLeaf_pw : (modLeaf k f s).pw = s.pw := rfl
@[simp] theorem modLeaf_fw : (modLeaf k f s).fw = s.fw := rfl
@[simp] theorem modLeaf_mb : (modLeaf k f s).mb = s.mb := rfl
@[simp] theorem modLeaf_protect : (modLeaf k f s).protect = s.protect := rfl
@[simp] theorem modLeaf_fuses : (modLeaf k f s).fuses = s.fuses := rfl
@[simp] theorem modLeaf_fuseWrites : (modLeaf k f s).fuseWrites = s.fuseWrites := rfl
@[simp] theorem modLeaf_narrow : (modLeaf k f s).narrow = s.narrow := rfl
@[simp] theorem modLeaf_events : (modLeaf k f s).events = s.events := rfl
@[simp] theorem modLeaf_errors : (modLeaf k f s).errors = s.errors := rfl
@[simp] theorem modLeaf_hm : (modLeaf k f s).hm = s.hm := rfl
@[simp] theorem modLeaf_pail : (modLeaf k f s).pail = s.pail := rfl
@[simp] theorem modLeaf_trace : (modLeaf k f s).trace = s.trace := rfl
@[simp] theorem modLeaf_iz : (modLeaf k f s).iz = s.iz := rfl
@[simp] theorem modLeaf_triggers : (modLeaf k f s).triggers = s.triggers := rfl
@[simp] theorem modLeaf_cuts : (modLeaf k f s).cuts = s.cuts := rfl
@[simp] theorem modLeaf_rind : (modLeaf k f s).rind = s.rind := rfl
@[simp] theorem modLeaf_autofence : (modLeaf k f s).autofence = s.autofence := rfl
@[simp] theorem modLeaf_hang : (modLeaf k f s).hang = s.hang := rfl
@[simp] theorem modLeaf_dumps : (modLeaf k f s).dumps = s.dumps := rfl
@[simp] theorem modLeaf_check : (modLeaf k f s).check = s.check := rfl
@[simp] theorem modLeaf_rec_ : (modLeaf k f s).rec_ = s.rec_ := rfl
@[simp] theorem modLeaf_test : (modLeaf k f s).test = s.test := rfl
@[simp] theorem modLeaf_free : (modLeaf k f s).free = s.free := rfl
end

/-! ## modErr -/
section
variable (k : Nat) (f : LeafErr → LeafErr)
@[simp] theorem modErr_pending : (modErr k f s).pending = s.pending := rfl
@[simp] theorem modErr_time : (modErr k f s).time = s.time := rfl
@[simp] theorem modErr_cores : (modErr k f s).cores = s.cores := rfl
@[simp] theorem modErr_leaves : (modErr k f s).leaves = tmod k (fun l => { l with err := f l.err }) s.leaves := rfl
@[simp] theorem modErr_gens : (modErr k f s).gens = s.gens := rfl
@[simp] theorem modErr_ctxs : (modErr k f s).ctxs = s.ctxs := rfl
@[simp] theorem modErr_accounts : (modErr k f s).accounts = s.accounts := rfl
@[simp] theorem modErr_hr : (modErr k f s).hr = s.hr := rfl
@[simp] theorem modErr_ao : (modErr k f s).ao = s.ao := rfl
@[simp] theorem modErr_ties : (modErr k f s).ties = s.ties := rfl
@[simp] theorem modErr_power : (modErr k f s).power = s.power := rfl
@[simp] theorem modErr_pw : (modErr k f s).pw = s.pw := rfl
@[simp] theorem modErr_fw : (modErr k f s).fw = s.fw := rfl
@[simp] theorem modErr_mb : (modErr k f s).mb = s.mb := rfl
@[simp] theorem modErr_protect : (modErr k f s).protect = s.protect := rfl
@[simp] theorem modErr_fuses : (modErr k f s).fuses = s.fuses := rfl
@[simp] theorem modErr_fuseWrites : (modErr k f s).fuseWrites = s.fuseWrites := rfl
@[simp] theorem modErr_narrow : (modErr k f s).narrow = s.narrow := rfl
@[simp] theorem modErr_events : (modErr k f s).events = s.events := rfl
@[simp] theorem modErr_errors : (modErr k f s).errors = s.errors := rfl
@[simp] theorem modErr_hm : (modErr k f s).hm = s.hm := rfl
@[simp] theorem modErr_pail : (modErr k f s).pail = s.pail := rfl
@[simp] theorem modErr_trace : (modErr k f s).trace = s.trace := rfl
@[simp] theorem modErr_iz : (modErr k f s).iz = s.iz := rfl
@[simp] theorem modErr_triggers : (modErr k f s).triggers = s.triggers := rfl
@[simp] theorem modErr_cuts : (modErr k f s).cuts = s.cuts := rfl
@[simp] theorem modErr_rind : (modErr k f s).rind = s.rind := rfl
@[simp] theorem modErr_autofence : (modErr k f s).autofence = s.autofence := rfl
@[simp] theorem modErr_hang : (modErr k f s).hang = s.hang := rfl
@[simp] theorem modErr_dumps : (modErr k f s).dumps = s.dumps := rfl
@[simp] theorem modErr_check : (modErr k f s).check = s.check := rfl
@[simp] theorem modErr_rec_ : (modErr k f s).rec_ = s.rec_ := rfl
@[simp] theorem modErr_test : (modErr k f s).test = s.test := rfl
@[simp] theorem modErr_free : (modErr k f s).free = s.free := rfl
end

/-! ## modPort -/
section
variable (p : Nat) (f : IzPort → IzPort)
@[simp] theorem modPort_pending : (modPort p f s).pending = s.pending := rfl
@[simp] theorem modPort_time : (modPort p f s).time = s.time := rfl
@[simp] theorem modPort_cores : (modPort p f s).cores = s.cores := rfl
@[simp] theorem modPort_leaves : (modPort p f s).leaves = s.leaves := rfl
@[simp] theorem modPort_gens : (modPort p f s).gens = s.gens := rfl
@[simp] theorem modPort_ctxs : (modPort p f s).ctxs = s.ctxs := rfl
@[simp] theorem modPort_accounts : (modPort p f s).accounts = s.accounts := rfl
@[simp] theorem modPort_hr : (modPort p f s).hr = s.hr := rfl
@[simp] theorem modPort_ao : (modPort p f s).ao = s.ao := rfl
@[simp] theorem modPort_ties : (modPort p f s).ties = s.ties := rfl
@[simp] theorem modPort_power : (modPort p f s).power = s.power := rfl
@[simp] theorem modPort_pw : (modPort p f s).pw = s.pw := rfl
@[simp] theorem modPort_fw : (modPort p f s).fw = s.fw := rfl
@[simp] theorem modPort_mb : (modPort p f s).mb = s.mb := rfl
@[simp] theorem modPort_protect : (modPort p f s).protect = s.protect := rfl
@[simp] theorem modPort_fuses : (modPort p f s).fuses = s.fuses := rfl
@[simp] theorem modPort_fuseWrites : (modPort p f s).fuseWrites = s.fuseWrites := rfl
@[simp] theorem modPort_narrow : (modPort p f s).narrow = s.narrow := rfl
@[simp] theorem modPort_events : (modPort p f s).events = s.events := rfl
@[simp] theorem modPort_errors : (modPort p f s).errors = s.errors := rfl
@[simp] theorem modPort_hm : (modPort p f s).hm = s.hm := rfl
@[simp] theorem modPort_pail : (modPort p f s).pail = s.pail := rfl
@[simp] theorem modPort_trace : (modPort p f s).trace = s.trace := rfl
@[simp] theorem modPort_iz : (modPort p f s).iz = { s.iz with ports := s.iz.ports.modify p f } := rfl
@[simp] theorem modPort_triggers : (modPort p f s).triggers = s.triggers := rfl
@[simp] theorem modPort_cuts : (modPort p f s).cuts = s.cuts := rfl
@[simp] theorem modPort_rind : (modPort p f s).rind = s.rind := rfl
@[simp] theorem modPort_autofence : (modPort p f s).autofence = s.autofence := rfl
@[simp] theorem modPort_hang : (modPort p f s).hang = s.hang := rfl
@[simp] theorem modPort_dumps : (modPort p f s).dumps = s.dumps := rfl
@[simp] theorem modPort_check : (modPort p f s).check = s.check := rfl
@[simp] theorem modPort_rec_ : (modPort p f s).rec_ = s.rec_ := rfl
@[simp] theorem modPort_test : (modPort p f s).test = s.test := rfl
@[simp] theorem modPort_free : (modPort p f s).free = s.free := rfl
end

/-! ## hrDone -/
section
variable (w : Word)
@[simp] theorem hrDone_pending : (hrDone w s).pending = s.pending := rfl
@[simp] theorem hrDone_time : (hrDone w s).time = s.time := rfl
@[simp] theorem hrDone_cores : (hrDone w s).cores = s.cores := rfl
@[simp] theorem hrDone_leaves : (hrDone w s).leaves = s.leaves := rfl
@[simp] theorem hrDone_gens : (hrDone w s).gens = s.gens := rfl
@[simp] theorem hrDone_ctxs : (hrDone w s).ctxs = s.ctxs := rfl
@[simp] theorem hrDone_accounts : (hrDone w s).accounts = s.accounts := rfl
@[simp] theorem hrDone_hr : (hrDone w s).hr = { rdata := w, answered := s.hr.answered + 1 } := rfl
@[simp] theorem hrDone_ao : (hrDone w s).ao = s.ao := rfl
@[simp] theorem hrDone_ties : (hrDone w s).ties = s.ties := rfl
@[simp] theorem hrDone_power : (hrDone w s).power = s.power := rfl
@[simp] theorem hrDone_pw : (hrDone w s).pw = s.pw := rfl
@[simp] theorem hrDone_fw : (hrDone w s).fw = s.fw := rfl
@[simp] theorem hrDone_mb : (hrDone w s).mb = s.mb := rfl
@[simp] theorem hrDone_protect : (hrDone w s).protect = s.protect := rfl
@[simp] theorem hrDone_fuses : (hrDone w s).fuses = s.fuses := rfl
@[simp] theorem hrDone_fuseWrites : (hrDone w s).fuseWrites = s.fuseWrites := rfl
@[simp] theorem hrDone_narrow : (hrDone w s).narrow = s.narrow := rfl
@[simp] theorem hrDone_events : (hrDone w s).events = s.events := rfl
@[simp] theorem hrDone_errors : (hrDone w s).errors = s.errors := rfl
@[simp] theorem hrDone_hm : (hrDone w s).hm = s.hm := rfl
@[simp] theorem hrDone_pail : (hrDone w s).pail = s.pail := rfl
@[simp] theorem hrDone_trace : (hrDone w s).trace = s.trace := rfl
@[simp] theorem hrDone_iz : (hrDone w s).iz = s.iz := rfl
@[simp] theorem hrDone_triggers : (hrDone w s).triggers = s.triggers := rfl
@[simp] theorem hrDone_cuts : (hrDone w s).cuts = s.cuts := rfl
@[simp] theorem hrDone_rind : (hrDone w s).rind = s.rind := rfl
@[simp] theorem hrDone_autofence : (hrDone w s).autofence = s.autofence := rfl
@[simp] theorem hrDone_hang : (hrDone w s).hang = s.hang := rfl
@[simp] theorem hrDone_dumps : (hrDone w s).dumps = s.dumps := rfl
@[simp] theorem hrDone_check : (hrDone w s).check = s.check := rfl
@[simp] theorem hrDone_rec_ : (hrDone w s).rec_ = s.rec_ := rfl
@[simp] theorem hrDone_test : (hrDone w s).test = s.test := rfl
@[simp] theorem hrDone_free : (hrDone w s).free = s.free := rfl
end

/-! ## sendError -/
section
variable (r : ErrRec)
@[simp] theorem sendError_pending : (sendError r s).pending = s.pending := rfl
@[simp] theorem sendError_time : (sendError r s).time = s.time := rfl
@[simp] theorem sendError_cores : (sendError r s).cores = s.cores := rfl
@[simp] theorem sendError_leaves : (sendError r s).leaves = s.leaves := rfl
@[simp] theorem sendError_gens : (sendError r s).gens = s.gens := rfl
@[simp] theorem sendError_ctxs : (sendError r s).ctxs = s.ctxs := rfl
@[simp] theorem sendError_accounts : (sendError r s).accounts = s.accounts := rfl
@[simp] theorem sendError_hr : (sendError r s).hr = s.hr := rfl
@[simp] theorem sendError_ao : (sendError r s).ao = s.ao := rfl
@[simp] theorem sendError_ties : (sendError r s).ties = s.ties := rfl
@[simp] theorem sendError_power : (sendError r s).power = s.power := rfl
@[simp] theorem sendError_pw : (sendError r s).pw = s.pw := rfl
@[simp] theorem sendError_fw : (sendError r s).fw = s.fw := rfl
@[simp] theorem sendError_mb : (sendError r s).mb = s.mb := rfl
@[simp] theorem sendError_protect : (sendError r s).protect = s.protect := rfl
@[simp] theorem sendError_fuses : (sendError r s).fuses = s.fuses := rfl
@[simp] theorem sendError_fuseWrites : (sendError r s).fuseWrites = s.fuseWrites := rfl
@[simp] theorem sendError_narrow : (sendError r s).narrow = s.narrow := rfl
@[simp] theorem sendError_events : (sendError r s).events = s.events := rfl
@[simp] theorem sendError_errors : (sendError r s).errors = { s.errors with flight := s.errors.flight ++ [r] } := rfl
@[simp] theorem sendError_hm : (sendError r s).hm = s.hm := rfl
@[simp] theorem sendError_pail : (sendError r s).pail = s.pail := rfl
@[simp] theorem sendError_trace : (sendError r s).trace = s.trace := rfl
@[simp] theorem sendError_iz : (sendError r s).iz = s.iz := rfl
@[simp] theorem sendError_triggers : (sendError r s).triggers = s.triggers := rfl
@[simp] theorem sendError_cuts : (sendError r s).cuts = s.cuts := rfl
@[simp] theorem sendError_rind : (sendError r s).rind = s.rind := rfl
@[simp] theorem sendError_autofence : (sendError r s).autofence = s.autofence := rfl
@[simp] theorem sendError_hang : (sendError r s).hang = s.hang := rfl
@[simp] theorem sendError_dumps : (sendError r s).dumps = s.dumps := rfl
@[simp] theorem sendError_check : (sendError r s).check = s.check := rfl
@[simp] theorem sendError_rec_ : (sendError r s).rec_ = s.rec_ := rfl
@[simp] theorem sendError_test : (sendError r s).test = s.test := rfl
@[simp] theorem sendError_free : (sendError r s).free = s.free := rfl
end

/-! ## modCut -/
section
variable (i : BitVec 32) (f : Cut → Cut)
@[simp] theorem modCut_pending : (modCut i f s).pending = s.pending := rfl
@[simp] theorem modCut_time : (modCut i f s).time = s.time := rfl
@[simp] theorem modCut_cores : (modCut i f s).cores = s.cores := rfl
@[simp] theorem modCut_leaves : (modCut i f s).leaves = s.leaves := rfl
@[simp] theorem modCut_gens : (modCut i f s).gens = s.gens := rfl
@[simp] theorem modCut_ctxs : (modCut i f s).ctxs = s.ctxs := rfl
@[simp] theorem modCut_accounts : (modCut i f s).accounts = s.accounts := rfl
@[simp] theorem modCut_hr : (modCut i f s).hr = s.hr := rfl
@[simp] theorem modCut_ao : (modCut i f s).ao = s.ao := rfl
@[simp] theorem modCut_ties : (modCut i f s).ties = s.ties := rfl
@[simp] theorem modCut_power : (modCut i f s).power = s.power := rfl
@[simp] theorem modCut_pw : (modCut i f s).pw = s.pw := rfl
@[simp] theorem modCut_fw : (modCut i f s).fw = s.fw := rfl
@[simp] theorem modCut_mb : (modCut i f s).mb = s.mb := rfl
@[simp] theorem modCut_protect : (modCut i f s).protect = s.protect := rfl
@[simp] theorem modCut_fuses : (modCut i f s).fuses = s.fuses := rfl
@[simp] theorem modCut_fuseWrites : (modCut i f s).fuseWrites = s.fuseWrites := rfl
@[simp] theorem modCut_narrow : (modCut i f s).narrow = s.narrow := rfl
@[simp] theorem modCut_events : (modCut i f s).events = s.events := rfl
@[simp] theorem modCut_errors : (modCut i f s).errors = s.errors := rfl
@[simp] theorem modCut_hm : (modCut i f s).hm = s.hm := rfl
@[simp] theorem modCut_pail : (modCut i f s).pail = s.pail := rfl
@[simp] theorem modCut_trace : (modCut i f s).trace = s.trace := rfl
@[simp] theorem modCut_iz : (modCut i f s).iz = s.iz := rfl
@[simp] theorem modCut_triggers : (modCut i f s).triggers = s.triggers := rfl
@[simp] theorem modCut_rind : (modCut i f s).rind = s.rind := rfl
@[simp] theorem modCut_autofence : (modCut i f s).autofence = s.autofence := rfl
@[simp] theorem modCut_hang : (modCut i f s).hang = s.hang := rfl
@[simp] theorem modCut_dumps : (modCut i f s).dumps = s.dumps := rfl
@[simp] theorem modCut_check : (modCut i f s).check = s.check := rfl
@[simp] theorem modCut_rec_ : (modCut i f s).rec_ = s.rec_ := rfl
@[simp] theorem modCut_test : (modCut i f s).test = s.test := rfl
@[simp] theorem modCut_free : (modCut i f s).free = s.free := rfl
end

/-! ## modRind -/
section
variable (n : Nat) (f : RindLink → RindLink)
@[simp] theorem modRind_pending : (modRind n f s).pending = s.pending := rfl
@[simp] theorem modRind_time : (modRind n f s).time = s.time := rfl
@[simp] theorem modRind_cores : (modRind n f s).cores = s.cores := rfl
@[simp] theorem modRind_leaves : (modRind n f s).leaves = s.leaves := rfl
@[simp] theorem modRind_gens : (modRind n f s).gens = s.gens := rfl
@[simp] theorem modRind_ctxs : (modRind n f s).ctxs = s.ctxs := rfl
@[simp] theorem modRind_accounts : (modRind n f s).accounts = s.accounts := rfl
@[simp] theorem modRind_hr : (modRind n f s).hr = s.hr := rfl
@[simp] theorem modRind_ao : (modRind n f s).ao = s.ao := rfl
@[simp] theorem modRind_ties : (modRind n f s).ties = s.ties := rfl
@[simp] theorem modRind_power : (modRind n f s).power = s.power := rfl
@[simp] theorem modRind_pw : (modRind n f s).pw = s.pw := rfl
@[simp] theorem modRind_fw : (modRind n f s).fw = s.fw := rfl
@[simp] theorem modRind_mb : (modRind n f s).mb = s.mb := rfl
@[simp] theorem modRind_protect : (modRind n f s).protect = s.protect := rfl
@[simp] theorem modRind_fuses : (modRind n f s).fuses = s.fuses := rfl
@[simp] theorem modRind_fuseWrites : (modRind n f s).fuseWrites = s.fuseWrites := rfl
@[simp] theorem modRind_narrow : (modRind n f s).narrow = s.narrow := rfl
@[simp] theorem modRind_events : (modRind n f s).events = s.events := rfl
@[simp] theorem modRind_errors : (modRind n f s).errors = s.errors := rfl
@[simp] theorem modRind_hm : (modRind n f s).hm = s.hm := rfl
@[simp] theorem modRind_pail : (modRind n f s).pail = s.pail := rfl
@[simp] theorem modRind_trace : (modRind n f s).trace = s.trace := rfl
@[simp] theorem modRind_iz : (modRind n f s).iz = s.iz := rfl
@[simp] theorem modRind_triggers : (modRind n f s).triggers = s.triggers := rfl
@[simp] theorem modRind_cuts : (modRind n f s).cuts = s.cuts := rfl
@[simp] theorem modRind_rind : (modRind n f s).rind = { s.rind with links := s.rind.links.modify n f } := rfl
@[simp] theorem modRind_autofence : (modRind n f s).autofence = s.autofence := rfl
@[simp] theorem modRind_hang : (modRind n f s).hang = s.hang := rfl
@[simp] theorem modRind_dumps : (modRind n f s).dumps = s.dumps := rfl
@[simp] theorem modRind_check : (modRind n f s).check = s.check := rfl
@[simp] theorem modRind_rec_ : (modRind n f s).rec_ = s.rec_ := rfl
@[simp] theorem modRind_test : (modRind n f s).test = s.test := rfl
@[simp] theorem modRind_free : (modRind n f s).free = s.free := rfl
end

/-! ## modRung -/
section
variable (i : BitVec 16) (f : Rung → Rung)
@[simp] theorem modRung_pending : (modRung i f s).pending = s.pending := rfl
@[simp] theorem modRung_time : (modRung i f s).time = s.time := rfl
@[simp] theorem modRung_cores : (modRung i f s).cores = s.cores := rfl
@[simp] theorem modRung_leaves : (modRung i f s).leaves = s.leaves := rfl
@[simp] theorem modRung_gens : (modRung i f s).gens = s.gens := rfl
@[simp] theorem modRung_ctxs : (modRung i f s).ctxs = s.ctxs := rfl
@[simp] theorem modRung_accounts : (modRung i f s).accounts = s.accounts := rfl
@[simp] theorem modRung_hr : (modRung i f s).hr = s.hr := rfl
@[simp] theorem modRung_ao : (modRung i f s).ao = s.ao := rfl
@[simp] theorem modRung_ties : (modRung i f s).ties = s.ties := rfl
@[simp] theorem modRung_power : (modRung i f s).power = s.power := rfl
@[simp] theorem modRung_pw : (modRung i f s).pw = s.pw := rfl
@[simp] theorem modRung_fw : (modRung i f s).fw = s.fw := rfl
@[simp] theorem modRung_mb : (modRung i f s).mb = s.mb := rfl
@[simp] theorem modRung_protect : (modRung i f s).protect = s.protect := rfl
@[simp] theorem modRung_fuses : (modRung i f s).fuses = s.fuses := rfl
@[simp] theorem modRung_fuseWrites : (modRung i f s).fuseWrites = s.fuseWrites := rfl
@[simp] theorem modRung_narrow : (modRung i f s).narrow = s.narrow := rfl
@[simp] theorem modRung_events : (modRung i f s).events = s.events := rfl
@[simp] theorem modRung_errors : (modRung i f s).errors = s.errors := rfl
@[simp] theorem modRung_hm : (modRung i f s).hm = s.hm := rfl
@[simp] theorem modRung_pail : (modRung i f s).pail = s.pail := rfl
@[simp] theorem modRung_trace : (modRung i f s).trace = s.trace := rfl
@[simp] theorem modRung_iz : (modRung i f s).iz = s.iz := rfl
@[simp] theorem modRung_triggers : (modRung i f s).triggers = s.triggers := rfl
@[simp] theorem modRung_cuts : (modRung i f s).cuts = s.cuts := rfl
@[simp] theorem modRung_rind : (modRung i f s).rind = s.rind := rfl
@[simp] theorem modRung_autofence : (modRung i f s).autofence = s.autofence := rfl
@[simp] theorem modRung_hang : (modRung i f s).hang = s.hang := rfl
@[simp] theorem modRung_dumps : (modRung i f s).dumps = s.dumps := rfl
@[simp] theorem modRung_check : (modRung i f s).check = s.check := rfl
@[simp] theorem modRung_rec_ : (modRung i f s).rec_ = { s.rec_ with rungs := modFirst (fun r => r.id == i) f s.rec_.rungs } := rfl
@[simp] theorem modRung_test : (modRung i f s).test = s.test := rfl
@[simp] theorem modRung_free : (modRung i f s).free = s.free := rfl
end

/-! ## modSet -/
section
variable (i : BitVec 2) (f : PailSet → PailSet)
@[simp] theorem modSet_pending : (modSet i f s).pending = s.pending := rfl
@[simp] theorem modSet_time : (modSet i f s).time = s.time := rfl
@[simp] theorem modSet_cores : (modSet i f s).cores = s.cores := rfl
@[simp] theorem modSet_leaves : (modSet i f s).leaves = s.leaves := rfl
@[simp] theorem modSet_gens : (modSet i f s).gens = s.gens := rfl
@[simp] theorem modSet_ctxs : (modSet i f s).ctxs = s.ctxs := rfl
@[simp] theorem modSet_accounts : (modSet i f s).accounts = s.accounts := rfl
@[simp] theorem modSet_hr : (modSet i f s).hr = s.hr := rfl
@[simp] theorem modSet_ao : (modSet i f s).ao = s.ao := rfl
@[simp] theorem modSet_ties : (modSet i f s).ties = s.ties := rfl
@[simp] theorem modSet_power : (modSet i f s).power = s.power := rfl
@[simp] theorem modSet_pw : (modSet i f s).pw = s.pw := rfl
@[simp] theorem modSet_fw : (modSet i f s).fw = s.fw := rfl
@[simp] theorem modSet_mb : (modSet i f s).mb = s.mb := rfl
@[simp] theorem modSet_protect : (modSet i f s).protect = s.protect := rfl
@[simp] theorem modSet_fuses : (modSet i f s).fuses = s.fuses := rfl
@[simp] theorem modSet_fuseWrites : (modSet i f s).fuseWrites = s.fuseWrites := rfl
@[simp] theorem modSet_narrow : (modSet i f s).narrow = s.narrow := rfl
@[simp] theorem modSet_events : (modSet i f s).events = s.events := rfl
@[simp] theorem modSet_errors : (modSet i f s).errors = s.errors := rfl
@[simp] theorem modSet_hm : (modSet i f s).hm = s.hm := rfl
@[simp] theorem modSet_pail : (modSet i f s).pail = { s.pail with sets := s.pail.sets.modify i.toNat f } := rfl
@[simp] theorem modSet_trace : (modSet i f s).trace = s.trace := rfl
@[simp] theorem modSet_iz : (modSet i f s).iz = s.iz := rfl
@[simp] theorem modSet_triggers : (modSet i f s).triggers = s.triggers := rfl
@[simp] theorem modSet_cuts : (modSet i f s).cuts = s.cuts := rfl
@[simp] theorem modSet_rind : (modSet i f s).rind = s.rind := rfl
@[simp] theorem modSet_autofence : (modSet i f s).autofence = s.autofence := rfl
@[simp] theorem modSet_hang : (modSet i f s).hang = s.hang := rfl
@[simp] theorem modSet_dumps : (modSet i f s).dumps = s.dumps := rfl
@[simp] theorem modSet_check : (modSet i f s).check = s.check := rfl
@[simp] theorem modSet_rec_ : (modSet i f s).rec_ = s.rec_ := rfl
@[simp] theorem modSet_test : (modSet i f s).test = s.test := rfl
@[simp] theorem modSet_free : (modSet i f s).free = s.free := rfl
end

/-! ## modFw -/
section
variable (g : Firmware → Firmware)
@[simp] theorem modFw_pending : (modFw g s).pending = s.pending := rfl
@[simp] theorem modFw_time : (modFw g s).time = s.time := rfl
@[simp] theorem modFw_cores : (modFw g s).cores = s.cores := rfl
@[simp] theorem modFw_leaves : (modFw g s).leaves = s.leaves := rfl
@[simp] theorem modFw_gens : (modFw g s).gens = s.gens := rfl
@[simp] theorem modFw_ctxs : (modFw g s).ctxs = s.ctxs := rfl
@[simp] theorem modFw_accounts : (modFw g s).accounts = s.accounts := rfl
@[simp] theorem modFw_hr : (modFw g s).hr = s.hr := rfl
@[simp] theorem modFw_ao : (modFw g s).ao = s.ao := rfl
@[simp] theorem modFw_ties : (modFw g s).ties = s.ties := rfl
@[simp] theorem modFw_power : (modFw g s).power = s.power := rfl
@[simp] theorem modFw_pw : (modFw g s).pw = s.pw := rfl
@[simp] theorem modFw_fw : (modFw g s).fw = g s.fw := rfl
@[simp] theorem modFw_mb : (modFw g s).mb = s.mb := rfl
@[simp] theorem modFw_protect : (modFw g s).protect = s.protect := rfl
@[simp] theorem modFw_fuses : (modFw g s).fuses = s.fuses := rfl
@[simp] theorem modFw_fuseWrites : (modFw g s).fuseWrites = s.fuseWrites := rfl
@[simp] theorem modFw_narrow : (modFw g s).narrow = s.narrow := rfl
@[simp] theorem modFw_events : (modFw g s).events = s.events := rfl
@[simp] theorem modFw_errors : (modFw g s).errors = s.errors := rfl
@[simp] theorem modFw_hm : (modFw g s).hm = s.hm := rfl
@[simp] theorem modFw_pail : (modFw g s).pail = s.pail := rfl
@[simp] theorem modFw_trace : (modFw g s).trace = s.trace := rfl
@[simp] theorem modFw_iz : (modFw g s).iz = s.iz := rfl
@[simp] theorem modFw_triggers : (modFw g s).triggers = s.triggers := rfl
@[simp] theorem modFw_cuts : (modFw g s).cuts = s.cuts := rfl
@[simp] theorem modFw_rind : (modFw g s).rind = s.rind := rfl
@[simp] theorem modFw_autofence : (modFw g s).autofence = s.autofence := rfl
@[simp] theorem modFw_hang : (modFw g s).hang = s.hang := rfl
@[simp] theorem modFw_dumps : (modFw g s).dumps = s.dumps := rfl
@[simp] theorem modFw_check : (modFw g s).check = s.check := rfl
@[simp] theorem modFw_rec_ : (modFw g s).rec_ = s.rec_ := rfl
@[simp] theorem modFw_test : (modFw g s).test = s.test := rfl
@[simp] theorem modFw_free : (modFw g s).free = s.free := rfl
end

/-! ## modStaging -/
section
variable (f : Staging → Staging)
@[simp] theorem modStaging_pending : (modStaging f s).pending = s.pending := rfl
@[simp] theorem modStaging_time : (modStaging f s).time = s.time := rfl
@[simp] theorem modStaging_cores : (modStaging f s).cores = s.cores := rfl
@[simp] theorem modStaging_leaves : (modStaging f s).leaves = s.leaves := rfl
@[simp] theorem modStaging_gens : (modStaging f s).gens = s.gens := rfl
@[simp] theorem modStaging_ctxs : (modStaging f s).ctxs = s.ctxs := rfl
@[simp] theorem modStaging_accounts : (modStaging f s).accounts = s.accounts := rfl
@[simp] theorem modStaging_hr : (modStaging f s).hr = s.hr := rfl
@[simp] theorem modStaging_ao : (modStaging f s).ao = s.ao := rfl
@[simp] theorem modStaging_ties : (modStaging f s).ties = s.ties := rfl
@[simp] theorem modStaging_power : (modStaging f s).power = s.power := rfl
@[simp] theorem modStaging_pw : (modStaging f s).pw = { s.pw with staging := f s.pw.staging } := rfl
@[simp] theorem modStaging_fw : (modStaging f s).fw = s.fw := rfl
@[simp] theorem modStaging_mb : (modStaging f s).mb = s.mb := rfl
@[simp] theorem modStaging_protect : (modStaging f s).protect = s.protect := rfl
@[simp] theorem modStaging_fuses : (modStaging f s).fuses = s.fuses := rfl
@[simp] theorem modStaging_fuseWrites : (modStaging f s).fuseWrites = s.fuseWrites := rfl
@[simp] theorem modStaging_narrow : (modStaging f s).narrow = s.narrow := rfl
@[simp] theorem modStaging_events : (modStaging f s).events = s.events := rfl
@[simp] theorem modStaging_errors : (modStaging f s).errors = s.errors := rfl
@[simp] theorem modStaging_hm : (modStaging f s).hm = s.hm := rfl
@[simp] theorem modStaging_pail : (modStaging f s).pail = s.pail := rfl
@[simp] theorem modStaging_trace : (modStaging f s).trace = s.trace := rfl
@[simp] theorem modStaging_iz : (modStaging f s).iz = s.iz := rfl
@[simp] theorem modStaging_triggers : (modStaging f s).triggers = s.triggers := rfl
@[simp] theorem modStaging_cuts : (modStaging f s).cuts = s.cuts := rfl
@[simp] theorem modStaging_rind : (modStaging f s).rind = s.rind := rfl
@[simp] theorem modStaging_autofence : (modStaging f s).autofence = s.autofence := rfl
@[simp] theorem modStaging_hang : (modStaging f s).hang = s.hang := rfl
@[simp] theorem modStaging_dumps : (modStaging f s).dumps = s.dumps := rfl
@[simp] theorem modStaging_check : (modStaging f s).check = s.check := rfl
@[simp] theorem modStaging_rec_ : (modStaging f s).rec_ = s.rec_ := rfl
@[simp] theorem modStaging_test : (modStaging f s).test = s.test := rfl
@[simp] theorem modStaging_free : (modStaging f s).free = s.free := rfl
end

/-! ## modWindow -/
section
variable (w : BitVec 6) (f : Window → Window)
@[simp] theorem modWindow_pending : (modWindow w f s).pending = s.pending := rfl
@[simp] theorem modWindow_time : (modWindow w f s).time = s.time := rfl
@[simp] theorem modWindow_cores : (modWindow w f s).cores = s.cores := rfl
@[simp] theorem modWindow_leaves : (modWindow w f s).leaves = s.leaves := rfl
@[simp] theorem modWindow_gens : (modWindow w f s).gens = s.gens := rfl
@[simp] theorem modWindow_ctxs : (modWindow w f s).ctxs = s.ctxs := rfl
@[simp] theorem modWindow_accounts : (modWindow w f s).accounts = s.accounts := rfl
@[simp] theorem modWindow_hr : (modWindow w f s).hr = s.hr := rfl
@[simp] theorem modWindow_ao : (modWindow w f s).ao = s.ao := rfl
@[simp] theorem modWindow_ties : (modWindow w f s).ties = s.ties := rfl
@[simp] theorem modWindow_power : (modWindow w f s).power = s.power := rfl
@[simp] theorem modWindow_pw : (modWindow w f s).pw = s.pw := rfl
@[simp] theorem modWindow_fw : (modWindow w f s).fw = s.fw := rfl
@[simp] theorem modWindow_mb : (modWindow w f s).mb = s.mb := rfl
@[simp] theorem modWindow_protect : (modWindow w f s).protect = s.protect := rfl
@[simp] theorem modWindow_fuses : (modWindow w f s).fuses = s.fuses := rfl
@[simp] theorem modWindow_fuseWrites : (modWindow w f s).fuseWrites = s.fuseWrites := rfl
@[simp] theorem modWindow_narrow : (modWindow w f s).narrow = s.narrow := rfl
@[simp] theorem modWindow_events : (modWindow w f s).events = s.events := rfl
@[simp] theorem modWindow_errors : (modWindow w f s).errors = s.errors := rfl
@[simp] theorem modWindow_hm : (modWindow w f s).hm = s.hm := rfl
@[simp] theorem modWindow_pail : (modWindow w f s).pail = s.pail := rfl
@[simp] theorem modWindow_trace : (modWindow w f s).trace = s.trace := rfl
@[simp] theorem modWindow_iz : (modWindow w f s).iz = { s.iz with windows := s.iz.windows.modify w.toNat f } := rfl
@[simp] theorem modWindow_triggers : (modWindow w f s).triggers = s.triggers := rfl
@[simp] theorem modWindow_cuts : (modWindow w f s).cuts = s.cuts := rfl
@[simp] theorem modWindow_rind : (modWindow w f s).rind = s.rind := rfl
@[simp] theorem modWindow_autofence : (modWindow w f s).autofence = s.autofence := rfl
@[simp] theorem modWindow_hang : (modWindow w f s).hang = s.hang := rfl
@[simp] theorem modWindow_dumps : (modWindow w f s).dumps = s.dumps := rfl
@[simp] theorem modWindow_check : (modWindow w f s).check = s.check := rfl
@[simp] theorem modWindow_rec_ : (modWindow w f s).rec_ = s.rec_ := rfl
@[simp] theorem modWindow_test : (modWindow w f s).test = s.test := rfl
@[simp] theorem modWindow_free : (modWindow w f s).free = s.free := rfl
end

/-! ## modDump -/
section
variable (i : BitVec 16) (f : Dump → Dump)
@[simp] theorem modDump_pending : (modDump i f s).pending = s.pending := rfl
@[simp] theorem modDump_time : (modDump i f s).time = s.time := rfl
@[simp] theorem modDump_cores : (modDump i f s).cores = s.cores := rfl
@[simp] theorem modDump_leaves : (modDump i f s).leaves = s.leaves := rfl
@[simp] theorem modDump_gens : (modDump i f s).gens = s.gens := rfl
@[simp] theorem modDump_ctxs : (modDump i f s).ctxs = s.ctxs := rfl
@[simp] theorem modDump_accounts : (modDump i f s).accounts = s.accounts := rfl
@[simp] theorem modDump_hr : (modDump i f s).hr = s.hr := rfl
@[simp] theorem modDump_ao : (modDump i f s).ao = s.ao := rfl
@[simp] theorem modDump_ties : (modDump i f s).ties = s.ties := rfl
@[simp] theorem modDump_power : (modDump i f s).power = s.power := rfl
@[simp] theorem modDump_pw : (modDump i f s).pw = s.pw := rfl
@[simp] theorem modDump_fw : (modDump i f s).fw = s.fw := rfl
@[simp] theorem modDump_mb : (modDump i f s).mb = s.mb := rfl
@[simp] theorem modDump_protect : (modDump i f s).protect = s.protect := rfl
@[simp] theorem modDump_fuses : (modDump i f s).fuses = s.fuses := rfl
@[simp] theorem modDump_fuseWrites : (modDump i f s).fuseWrites = s.fuseWrites := rfl
@[simp] theorem modDump_narrow : (modDump i f s).narrow = s.narrow := rfl
@[simp] theorem modDump_events : (modDump i f s).events = s.events := rfl
@[simp] theorem modDump_errors : (modDump i f s).errors = s.errors := rfl
@[simp] theorem modDump_hm : (modDump i f s).hm = s.hm := rfl
@[simp] theorem modDump_pail : (modDump i f s).pail = s.pail := rfl
@[simp] theorem modDump_trace : (modDump i f s).trace = s.trace := rfl
@[simp] theorem modDump_iz : (modDump i f s).iz = s.iz := rfl
@[simp] theorem modDump_triggers : (modDump i f s).triggers = s.triggers := rfl
@[simp] theorem modDump_cuts : (modDump i f s).cuts = s.cuts := rfl
@[simp] theorem modDump_rind : (modDump i f s).rind = s.rind := rfl
@[simp] theorem modDump_autofence : (modDump i f s).autofence = s.autofence := rfl
@[simp] theorem modDump_hang : (modDump i f s).hang = s.hang := rfl
@[simp] theorem modDump_dumps : (modDump i f s).dumps = { s.dumps with list := modFirst (fun d => d.id == i) f s.dumps.list } := rfl
@[simp] theorem modDump_check : (modDump i f s).check = s.check := rfl
@[simp] theorem modDump_rec_ : (modDump i f s).rec_ = s.rec_ := rfl
@[simp] theorem modDump_test : (modDump i f s).test = s.test := rfl
@[simp] theorem modDump_free : (modDump i f s).free = s.free := rfl
end

/-! ## modReport -/
section
variable (i : BitVec 32) (f : HangReport → HangReport)
@[simp] theorem modReport_pending : (modReport i f s).pending = s.pending := rfl
@[simp] theorem modReport_time : (modReport i f s).time = s.time := rfl
@[simp] theorem modReport_cores : (modReport i f s).cores = s.cores := rfl
@[simp] theorem modReport_leaves : (modReport i f s).leaves = s.leaves := rfl
@[simp] theorem modReport_gens : (modReport i f s).gens = s.gens := rfl
@[simp] theorem modReport_ctxs : (modReport i f s).ctxs = s.ctxs := rfl
@[simp] theorem modReport_accounts : (modReport i f s).accounts = s.accounts := rfl
@[simp] theorem modReport_hr : (modReport i f s).hr = s.hr := rfl
@[simp] theorem modReport_ao : (modReport i f s).ao = s.ao := rfl
@[simp] theorem modReport_ties : (modReport i f s).ties = s.ties := rfl
@[simp] theorem modReport_power : (modReport i f s).power = s.power := rfl
@[simp] theorem modReport_pw : (modReport i f s).pw = s.pw := rfl
@[simp] theorem modReport_fw : (modReport i f s).fw = s.fw := rfl
@[simp] theorem modReport_mb : (modReport i f s).mb = s.mb := rfl
@[simp] theorem modReport_protect : (modReport i f s).protect = s.protect := rfl
@[simp] theorem modReport_fuses : (modReport i f s).fuses = s.fuses := rfl
@[simp] theorem modReport_fuseWrites : (modReport i f s).fuseWrites = s.fuseWrites := rfl
@[simp] theorem modReport_narrow : (modReport i f s).narrow = s.narrow := rfl
@[simp] theorem modReport_events : (modReport i f s).events = s.events := rfl
@[simp] theorem modReport_errors : (modReport i f s).errors = s.errors := rfl
@[simp] theorem modReport_hm : (modReport i f s).hm = s.hm := rfl
@[simp] theorem modReport_pail : (modReport i f s).pail = s.pail := rfl
@[simp] theorem modReport_trace : (modReport i f s).trace = s.trace := rfl
@[simp] theorem modReport_iz : (modReport i f s).iz = s.iz := rfl
@[simp] theorem modReport_triggers : (modReport i f s).triggers = s.triggers := rfl
@[simp] theorem modReport_cuts : (modReport i f s).cuts = s.cuts := rfl
@[simp] theorem modReport_rind : (modReport i f s).rind = s.rind := rfl
@[simp] theorem modReport_autofence : (modReport i f s).autofence = s.autofence := rfl
@[simp] theorem modReport_hang : (modReport i f s).hang = { s.hang with reports := modFirst (fun r => r.id == i) f s.hang.reports } := rfl
@[simp] theorem modReport_dumps : (modReport i f s).dumps = s.dumps := rfl
@[simp] theorem modReport_check : (modReport i f s).check = s.check := rfl
@[simp] theorem modReport_rec_ : (modReport i f s).rec_ = s.rec_ := rfl
@[simp] theorem modReport_test : (modReport i f s).test = s.test := rfl
@[simp] theorem modReport_free : (modReport i f s).free = s.free := rfl
end

/-! ## modRegion -/
section
variable (r : BitVec 4) (f : Region → Region)
@[simp] theorem modRegion_pending : (modRegion r f s).pending = s.pending := rfl
@[simp] theorem modRegion_time : (modRegion r f s).time = s.time := rfl
@[simp] theorem modRegion_cores : (modRegion r f s).cores = s.cores := rfl
@[simp] theorem modRegion_leaves : (modRegion r f s).leaves = s.leaves := rfl
@[simp] theorem modRegion_gens : (modRegion r f s).gens = s.gens := rfl
@[simp] theorem modRegion_ctxs : (modRegion r f s).ctxs = s.ctxs := rfl
@[simp] theorem modRegion_accounts : (modRegion r f s).accounts = s.accounts := rfl
@[simp] theorem modRegion_hr : (modRegion r f s).hr = s.hr := rfl
@[simp] theorem modRegion_ao : (modRegion r f s).ao = s.ao := rfl
@[simp] theorem modRegion_ties : (modRegion r f s).ties = s.ties := rfl
@[simp] theorem modRegion_power : (modRegion r f s).power = s.power := rfl
@[simp] theorem modRegion_pw : (modRegion r f s).pw = s.pw := rfl
@[simp] theorem modRegion_fw : (modRegion r f s).fw = s.fw := rfl
@[simp] theorem modRegion_mb : (modRegion r f s).mb = s.mb := rfl
@[simp] theorem modRegion_protect : (modRegion r f s).protect = s.protect := rfl
@[simp] theorem modRegion_fuses : (modRegion r f s).fuses = s.fuses := rfl
@[simp] theorem modRegion_fuseWrites : (modRegion r f s).fuseWrites = s.fuseWrites := rfl
@[simp] theorem modRegion_narrow : (modRegion r f s).narrow = s.narrow := rfl
@[simp] theorem modRegion_events : (modRegion r f s).events = s.events := rfl
@[simp] theorem modRegion_errors : (modRegion r f s).errors = s.errors := rfl
@[simp] theorem modRegion_hm : (modRegion r f s).hm = s.hm := rfl
@[simp] theorem modRegion_pail : (modRegion r f s).pail = s.pail := rfl
@[simp] theorem modRegion_trace : (modRegion r f s).trace = s.trace := rfl
@[simp] theorem modRegion_iz : (modRegion r f s).iz = s.iz := rfl
@[simp] theorem modRegion_triggers : (modRegion r f s).triggers = s.triggers := rfl
@[simp] theorem modRegion_cuts : (modRegion r f s).cuts = s.cuts := rfl
@[simp] theorem modRegion_rind : (modRegion r f s).rind = s.rind := rfl
@[simp] theorem modRegion_autofence : (modRegion r f s).autofence = s.autofence := rfl
@[simp] theorem modRegion_hang : (modRegion r f s).hang = s.hang := rfl
@[simp] theorem modRegion_dumps : (modRegion r f s).dumps = { s.dumps with regions := s.dumps.regions.modify r.toNat f } := rfl
@[simp] theorem modRegion_check : (modRegion r f s).check = s.check := rfl
@[simp] theorem modRegion_rec_ : (modRegion r f s).rec_ = s.rec_ := rfl
@[simp] theorem modRegion_test : (modRegion r f s).test = s.test := rfl
@[simp] theorem modRegion_free : (modRegion r f s).free = s.free := rfl
end

/-! ## modStream -/
section
variable (c : BitVec 16) (k : BitVec 32) (f : StreamIn → StreamIn)
@[simp] theorem modStream_pending : (modStream c k f s).pending = s.pending := rfl
@[simp] theorem modStream_time : (modStream c k f s).time = s.time := rfl
@[simp] theorem modStream_cores : (modStream c k f s).cores = s.cores := rfl
@[simp] theorem modStream_leaves : (modStream c k f s).leaves = s.leaves := rfl
@[simp] theorem modStream_gens : (modStream c k f s).gens = s.gens := rfl
@[simp] theorem modStream_ctxs : (modStream c k f s).ctxs = s.ctxs := rfl
@[simp] theorem modStream_accounts : (modStream c k f s).accounts = s.accounts := rfl
@[simp] theorem modStream_hr : (modStream c k f s).hr = s.hr := rfl
@[simp] theorem modStream_ao : (modStream c k f s).ao = s.ao := rfl
@[simp] theorem modStream_ties : (modStream c k f s).ties = s.ties := rfl
@[simp] theorem modStream_power : (modStream c k f s).power = s.power := rfl
@[simp] theorem modStream_pw : (modStream c k f s).pw = s.pw := rfl
@[simp] theorem modStream_fw : (modStream c k f s).fw = s.fw := rfl
@[simp] theorem modStream_mb : (modStream c k f s).mb = s.mb := rfl
@[simp] theorem modStream_protect : (modStream c k f s).protect = s.protect := rfl
@[simp] theorem modStream_fuses : (modStream c k f s).fuses = s.fuses := rfl
@[simp] theorem modStream_fuseWrites : (modStream c k f s).fuseWrites = s.fuseWrites := rfl
@[simp] theorem modStream_narrow : (modStream c k f s).narrow = s.narrow := rfl
@[simp] theorem modStream_events : (modStream c k f s).events = s.events := rfl
@[simp] theorem modStream_errors : (modStream c k f s).errors = s.errors := rfl
@[simp] theorem modStream_hm : (modStream c k f s).hm = s.hm := rfl
@[simp] theorem modStream_pail : (modStream c k f s).pail = s.pail := rfl
@[simp] theorem modStream_trace : (modStream c k f s).trace = s.trace := rfl
@[simp] theorem modStream_iz : (modStream c k f s).iz = s.iz := rfl
@[simp] theorem modStream_triggers : (modStream c k f s).triggers = s.triggers := rfl
@[simp] theorem modStream_cuts : (modStream c k f s).cuts = s.cuts := rfl
@[simp] theorem modStream_rind : (modStream c k f s).rind = s.rind := rfl
@[simp] theorem modStream_autofence : (modStream c k f s).autofence = s.autofence := rfl
@[simp] theorem modStream_hang : (modStream c k f s).hang = s.hang := rfl
@[simp] theorem modStream_check : (modStream c k f s).check = s.check := rfl
@[simp] theorem modStream_rec_ : (modStream c k f s).rec_ = s.rec_ := rfl
@[simp] theorem modStream_test : (modStream c k f s).test = s.test := rfl
@[simp] theorem modStream_free : (modStream c k f s).free = s.free := rfl
end

end Sys2Proof.Machine
end

