-- ==== Sys2Proof/Tests/Slice0.lean ====
section
/-! SUPPORT. The author's own tests: a term that each well-formedness check refuses, small single steps whose expected
results come from the tables of spec/, and for every statement with hypotheses a concrete state that meets them. -/
namespace Sys2Proof.Machine.Tests

set_option Elab.async false

/-! ## A small chip: one core with every engine, its leaf on time, every mailbox past HELLO, firmware running -/

def tie (c : CoreIx) : CoreTie :=
  { core := c, engPresent := 0xFF, steerPresent := 0xF, scanEnrolled := true, scanChains := 1, scanDiv := 0
    defect := false, descriptor := List.replicate 6 0 ++ [0x9000000000000010] ++ List.replicate 57 0 }

def goodTies : TieOffs :=
  { cores := [tie 0], linkPresent := 1, linkUntagged := 0, linkNogen := 0, tpPresent := 1, izMode := List.replicate 6 0
    tapMfr := 0 }

def goodLeaf : Leaf := { interp := { inc := 0x28000, beats := 2 } }

def on : State :=
  { State.reset with
    power := .on
    pw := { shed := false, obsOff := false }
    fw := { state := .running }
    time := { state := .locked, diam := some 10, calibrated := true }
    mb := { hello := List.replicate 16 true, coord := some { x := 0, y := 0, z := 0, dimx := 1, dimy := 1, dimz := 1 } }
    ties := goodTies
    cores := [(0, { ties := tie 0 })]
    leaves := [(0, goodLeaf)] }

/-- `s` at another GT. -/
def later (gt : GT) (s : State) : State := { s with time := { s.time with acc := BitVec.ofNat 96 (gt * 2 ^ 32) } }

/-- A command path: mailbox 0, the Operator's. -/
def m0 : Via := .mailbox 0

/-- `s` with the state a command of mailbox 0 is judged in. -/
def bg (s : State) (cmd : BitVec 16) (i : Instr) : State := begun m0 cmd i s

/-- A command of mailbox 0 is taken up in `s` and its right and level are granted. -/
def ok (s : State) (cmd : BitVec 16) (i : Instr) (served : Bool) (r : Right) (l : DebugLevel) : Bool :=
  accepted m0 cmd i served s && !denied (bg s cmd i) m0 r l

def withCap (c : Capture) (q : List SkimElem := []) : State :=
  { on with leaves := [(0, { goodLeaf with skim := { cap := some c, queue := q } })] }

/-! ## Witnesses: the hypotheses of every statement can be met -/

theorem witness_EmptyQueueIdles : on.pending = [] := rfl

theorem witness_EveryWellFormedCommandCompletes_well : wellFormed .mailboxPoll = true := by decide

def badTies : TieOffs := { goodTies with izMode := [] }

theorem witness_EveryWellFormedCommandCompletes_fault :
    exec (.obsPowerUp badTies) State.reset = .fault .noSuchConfiguration ∧
    exec (.obsResetRelease badTies) on = .fault .noSuchConfiguration := ⟨rfl, rfl⟩

theorem witness_CommandsLeaveTheQueue : ∃ t, exec .mailboxPoll on = .next t := ⟨_, rfl⟩

theorem witness_StepKeepsMemoriesCanonical :
    memoriesCanonical on = true ∧ ∃ t, step { on with pending := [.mailboxPoll] } = .next t := ⟨by decide +kernel, _, rfl⟩

def fused : State := { on with fuses := {
  platformKey := some [1], vendorKey := some [2], fwKey := some [3], redactKey := some [4] } }

theorem witness_FusedStateOnlyAdvances :
    (∃ t, step { fused with pending := [.fuseCommit], fuseWrites := [{ item := .lifecycle .provision, via := m0 }] } = .next t ∧
      t.fuses.lifecycle = .provision) ∧
    fused.fuses.platformKey = some [1] ∧ fused.fuses.vendorKey = some [2] ∧ fused.fuses.fwKey = some [3] ∧
    fused.fuses.redactKey = some [4] := ⟨⟨_, rfl, by decide +kernel⟩, rfl, rfl, rfl, rfl⟩

theorem witness_SequenceNumbersSkipZero : (1 : BitVec 16) ≠ 0xFFFF := by decide

theorem witness_StepKeepsCoresWhole :
    coresWhole on = true ∧ ∃ t, step { on with pending := [.mailboxPoll] } = .next t := ⟨by decide +kernel, _, rfl⟩

/-- Mailbox 0 SEALED with LEN over the limit; mailbox 1 SEALED with a wrong check. -/
def sealed_ : State := { on with mb := { on.mb with mem := memWriteWords 0 [1, 0x10000000] (memWriteWords 4096 [1, 0] []) } }

theorem witness_MailboxPollTakesInAscendingOrder :
    serving on = true ∧ serving State.reset = false ∧ bits (memWord 0 on.mb.mem) 3 0 ≠ 1 ∧
    (bits (memWord 0 sealed_.mb.mem) 3 0 = 1 ∧ takenOf sealed_ (.mailbox 0) = none ∧ 4032 < bits (memWord 8 sealed_.mb.mem) 31 16) ∧
    (bits (memWord 4096 sealed_.mb.mem) 3 0 = 1 ∧ takenOf sealed_ (.mailbox 1) = none ∧
      bits (memWord 4104 sealed_.mb.mem) 31 16 ≤ 4032 ∧
      requestCheck 1 (bits (memWord 4096 sealed_.mb.mem) 31 16) (bits (memWord 4104 sealed_.mb.mem) 31 16) sealed_.mb.mem ≠
        fieldB 32 (memWord 4096 sealed_.mb.mem) 32) ∧
    (let m := memWriteWords 8192 [(requestCheck 2 0 0 []).setWidth 64 <<< 32 ||| 1] []
     let s : State := { on with mb := { on.mb with mem := m } }
     bits (memWord 8192 m) 3 0 = 1 ∧ takenOf s (.mailbox 2) = none ∧ bits (memWord 8200 m) 31 16 = 0 ∧
     requestCheck 2 (bits (memWord 8192 m) 31 16) 0 m = fieldB 32 (memWord 8192 m) 32) ∧
    (takenOf (bg on 1 (.mailboxPoll)) (.mailbox 0)).isSome = true := by decide +kernel

def helloI (lo hi : BitVec 8) : Instr := .hello m0 lo hi true 0 0 0 1 1 1

theorem witness_HelloSetsTheProtocolLevel :
    (startCall m0 0x0001 (helloI 5 9) on).isSome = true ∧ min (9 : BitVec 8).toNat 4 < max (5 : BitVec 8).toNat 3 ∧
    (startCall m0 0x0001 (helloI 1 9) on).isSome = true ∧ max (1 : BitVec 8).toNat 3 ≤ min (9 : BitVec 8).toNat 4 ∧
    wellTaken m0 (bg on 1 (helloI 1 9)) = true ∧ helloShut (bg on 1 (helloI 1 9)) m0 = false ∧ holds .opPlatVen (whoOf (bg on 1 (helloI 1 9)) m0) = true ∧
    setcoordBad (bg on 1 (helloI 1 9)) { x := 0, y := 0, z := 0, dimx := 1, dimy := 1, dimz := 1 } = false := by decide +kernel

def anEvent : Event := { code := 1, result := 0, seq := 0, mailbox := 0, remote := false, basic := false, line := 1
                         stamp := 0, origin := 0, number := 0, payload := [] }

def ringOn : State := { on with events := { enabled := true, base := 1, log2 := 16, queue := [anEvent] } }

theorem witness_CapabilityAndEventRingCommandsComplete :
    ok on 0x0002 (.capsSummary m0) true .everyone .sealedLevel = true ∧
    ok on 0x0002 (.capsPresence m0 0) true .opPlatVen .sealedLevel = true ∧
    ok on 0x0002 (.capsIazan m0) true .opPlatVen .sealedLevel = true ∧
    ok on 0x0003 (.eventRingSet m0 0x1000 16 true) true .opPlat .sealedLevel = true ∧
    ok on 0x0003 (.eventRingSet m0 0x1000 26 false) true .opPlat .sealedLevel = true ∧
    serving ringOn = true ∧ ringOn.events.enabled = true ∧ ringOn.events.held = false ∧ ringOn.events.wait = none ∧
    ringHasRoom ringOn = true ∧ ringOn.events.overflow = none ∧ ringOn.events.queue = [anEvent] ∧
    on.events.overflow = none ∧ on.events.queue = [] ∧ readFits ringOn = true := by decide +kernel

def someCtx : State := { on with ctxs := [(5, {})], fuses := { lifecycle := .provision, redactKey := some [] } }

theorem witness_ContextCommandsComplete :
    ok someCtx 0x0010 (.ctxDefine m0 65535 1 0x300) false .opPlat .sealedLevel = true ∧
    domainExists someCtx 0 = true ∧ definedIn (bg someCtx 0x0010 (.ctxDefine m0 65535 1 0x300)) 65535 1 = [] ∧
    someCtx.fuses.redactKey ≠ none ∧
    ok someCtx 0x0011 (.ctxRetire m0 5 2) false .opPlat .sealedLevel = true ∧
    definedIn (bg someCtx 0x0011 (.ctxRetire m0 5 2)) 5 2 ≠ [] := by decide +kernel

def pailP (en : Bool) : PailParams :=
  { set := 0, enable := en, kind := 0, interval := 4000000, phase := 0, addr := 0, mask := 0xFFFFFFF8, ctxFirst := 0, ctxLast := 0
    ext := false, cmd := false, ringBase := 0x1000, ringLog2 := 16 }

def traceP (en : Bool) : TraceParams :=
  { enable := en, addr := 0, mask := 0xFFFFFFF8, kinds := 1, dsel := 0, gate := false, sink := 0, ringBase := 0, ringLog2 := 0
    incl := false }

def tracing : State := { on with trace := { on.trace with enabled := true, cfg := some (traceP true) } }

theorem witness_CounterPailAndTraceCommandsComplete :
    ok on 0x0020 (.cntConfig m0 0 0xFFFFFFF8 true) false .opPlatVen .observe = true ∧ setBadArg on 0 0xFFFFFFF8 0 = false ∧
    setBadUnit on 0 0xFFFFFFF8 0 = false ∧
    ok on 0x0021 (.pailConfig m0 (pailP true)) true .everyone .sealedLevel = true ∧
    ok on 0x0021 (.pailConfig m0 (pailP false)) true .everyone .sealedLevel = true ∧
    isTenant (whoOf (bg on 0x0021 (.pailConfig m0 (pailP true))) m0) = false ∧ basic on = false ∧
    pailRangeBad on (pailP true) = false ∧ overBudget on (pailP true) = false ∧ setBadUnit on 0 0xFFFFFFF8 1 = false ∧
    ok on 0x0022 (.traceConfig m0 (traceP false)) false .opPlatVen .observe = true ∧ on.trace.ending = none ∧
    on.trace.enabled = false ∧ on.trace.stopping = false ∧ tracing.trace.stopping = false ∧ tracing.trace.enabled = true ∧
    ok tracing 0x0022 (.traceConfig m0 (traceP false)) false .opPlatVen .observe = true ∧ tracing.trace.ending = none ∧
    ok on 0x0022 (.traceConfig m0 (traceP true)) false .opPlatVen .observe = true ∧
    inclDenied (bg on 0x0022 (.traceConfig m0 (traceP true))) m0 false 0 = false ∧ traceRangeBad on (traceP true) = false ∧
    ok tracing 0x0022 (.traceConfig m0 (traceP true)) false .opPlatVen .observe = true ∧ tracing.trace.cfg = some (traceP true) := by
  decide +kernel

def zeroBlock : LeafBlock := { words := List.replicate 196 0 }
def oneCluster : UnitAddr := 0xFFFFFF80
def chanI (en : Bool) : Instr := .trigSetChannel m0 0 0 oneCluster 0 0xFFFF0000 en

theorem witness_TriggerSetCommandsComplete :
    ok on 0x0023 (.trigSetLoad m0 0 oneCluster 0 zeroBlock.words) false .opPlatVen .invasive = true ∧
    setBadArg on 0 oneCluster 2 = false ∧ blockBad on zeroBlock = false ∧ setBadUnit on 0 oneCluster 2 = false ∧
    slotsShort zeroBlock = false ∧ ok on 0x0023 (.trigSetClear m0 0 oneCluster) false .opPlatVen .observe = true ∧
    ok on 0x0023 (chanI true) false .opPlatVen .observe = true ∧ vendorAway (bg on 0x0023 (chanI true)) m0 0 0xFFFF0000 = false ∧
    setBadArg on 0 0xFFFF0000 4 true = false ∧ setBadUnit on 0 0xFFFF0000 4 = false ∧
    ok on 0x0023 (chanI false) false .opPlatVen .observe = true ∧
    ok on 0x0023 (.trigSetStatus m0 0 0xFFFFFF80) false .opPlatVen .observe = true := by decide +kernel

def skimP : SkimParams :=
  { addr := 0, mask := oneCluster, cores := 1, engines := 1, sel := 0, elfmt := 0, idxmode := false, idxLo := 0, idxHi := 9
    ctx := 0, ctxMask := 0, thresh := 1, tseed := 0, sseed := 0, lsb := 0, hbase := 0, startMode := 0, start := 0
    duration := 0, maxcount := 0, incl := false }

def cap0 (ph : SkimPhase) (close : Option (GT × BitVec 4 × Option (BitVec 4))) : Capture :=
  { p := skimP, who := some .operator, mailbox := true, owner := {}, phase := ph, closeAt := close }

theorem witness_SkimCommandsAndRowsComplete_commands :
    ok on 0x0024 (.skimArm m0 skimP) false .everyone .observe = true ∧
    isTenant (whoOf (bg on 0x0024 (.skimArm m0 skimP)) m0) = false ∧ skimRangeBad on skimP = false ∧
    setBadUnit on 0 oneCluster 2 = false ∧ clustersIn on 0 oneCluster = [0] ∧ capOf on 0 = none ∧
    inclDenied (bg on 0x0024 (.skimArm m0 skimP)) m0 skimP.incl 1 (some 0) = false ∧
    ok on 0x0024 (.skimCancel m0 0 oneCluster) false .everyone .observe = true ∧ setBadArg on 0 oneCluster 2 = false ∧
    ok (withCap (cap0 .loaded none)) 0x0025 (.skimRead m0 0 0xFFFFFF80) false .everyone .observe = true ∧
    capOf (withCap (cap0 .loaded none)) 0 = some (cap0 .loaded none) := by decide +kernel
/-- A command of mailbox 0 is taken up in `s` and none of its checks fails. -/
def passes (s : State) (cmd : BitVec 16) (i : Instr) (served : Bool) (checks : State → List (Bool × BitVec 8)) : Bool :=
  accepted m0 cmd i served s && decide (firstCode (checks (bg s cmd i)) = none)

theorem witness_SkimCommandsAndRowsComplete_rows :
    let x : SkimElem := { core := 0, eng := 0, key := 0, bits := 0, scale := 0, stamp := 0 }
    (∃ l, tget 0 on.leaves = some l ∧ l.skim.queue = [] ∧ l.skim.cap = none) ∧
    (∃ l, tget 0 (withCap (cap0 .isOpen none) [x]).leaves = some l ∧ l.skim.queue = [x]) ∧
    elemSettled (withCap (cap0 .isOpen none) [x]) 0 x = true ∧
    elemSettled { withCap (cap0 .waiting none) with leaves := [(0, { goodLeaf with
      events := [(0, .pulse 0 0 0)], skim := { cap := some (cap0 .waiting none), queue := [x] } })] } 0 x = false ∧
    leafValid (withCap (cap0 .loaded none)) 0 = true ∧ (cap0 .loaded none).openAt ≤ leafGt (withCap (cap0 .loaded none)) 0 5 ∧
    (cap0 .loaded none).phase = .loaded ∧ (cap0 .isOpen none).phase ≠ .loaded ∧
    ((cap0 .loaded none).closeAt.all fun q => decide ((cap0 .loaded none).openAt < q.1)) = true ∧
    ((cap0 .loaded (some (0, 1, none))).closeAt.all fun q => decide ((cap0 .loaded none).openAt < q.1)) = false ∧
    (cap0 .isOpen (some (0, 1, none))).closeAt = some (0, 1, none) ∧ (cap0 .isOpen none).closeAt = none ∧
    (let s := withCap (cap0 .isOpen (some (0, 1, none)))
     (capLive (cap0 .isOpen none) && leafValid s 0 && decide (0 ≤ leafGt s 0 0) && watchedPast s 0 skimP 0) = true ∧
     ((capOf s 0).map capLive).getD false = true) ∧
    (let s := withCap (cap0 .isOpen (some (1, 1, none)))
     (capLive (cap0 .isOpen none) && leafValid s 0 && decide (1 ≤ leafGt s 0 0) && watchedPast s 0 skimP 1) = false) := ⟨⟨_, rfl, rfl, rfl⟩, ⟨_, rfl, rfl⟩, by decide +kernel⟩

def aReport : HangReport := { id := 1, kind := 0, declared := 0, firstSeen := 0 }
def hanging : State := { on with hang := { on.hang with reports := [aReport] } }

theorem witness_ChannelMapCommandsComplete :
    ok on 0x0026 (.chanmapLoad m0 true 0 262143 1 [0]) false .opPlat .sealedLevel = true ∧ mapRangeBad 262143 1 = false ∧
    on.hang.load = none ∧ ok on 0x0026 (.chanmapLoad m0 false 64 0 262144 []) false .opPlat .sealedLevel = true ∧
    mapRangeBad 0 262144 = false ∧ ok on 0x0026 (.chanmapClear m0 262143 1) false .opPlat .sealedLevel = true ∧
    ok on 0x0026 (.chanmapConfig m0 2 4000 1000000 1 2 4000000) false .opPlat .sealedLevel = true ∧
    ok on 0x0026 (.chanmapConfig m0 0 0 0 0 0 0) false .opPlat .sealedLevel = true ∧
    ok hanging 0x0026 (.chanmapReport m0 1 0) false .opPlat .sealedLevel = true ∧
    (hanging.hang.reports.find? fun r => r.id == 1) = some aReport ∧
    ok on 0x0026 (.chanmapStatus m0) false .opPlat .sealedLevel = true := by decide +kernel

/-! A chip stopped in force under cut 1, with cut 2 still to come. -/

def cut1 (t : GT) : Cut :=
  { bareCut 1 0 oneCluster true t 4000000 {} true false (some .operator) on with stopped := [0] }

def stoppedCore : Core :=
  { ties := tie 0, engs := List.replicate 8 { st := .stopped }, stHold := 0xF, claim := some 1 }

def cutOn (t : GT) : State :=
  { on with cores := [(0, stoppedCore)], cuts := { on.cuts with active := [cut1 t] } }

theorem witness_StopAtCommandsComplete :
    ok on 0x0030 (.stopAtArm m0 0 oneCluster true true 0 0) false .opPlatVen .invasive = true ∧
    vendorAway (bg on 0x0030 (.stopAtArm m0 0 oneCluster true true 0 0)) m0 0 oneCluster = false ∧
    setBadArg on 0 oneCluster 1 true = false ∧ watchdogBad 0 = false ∧ instantBad on false (instantOf on false true 0) = false ∧
    setBadUnit on 0 oneCluster 1 = false ∧ systemBusy on false = false ∧ claimed on 0 oneCluster = false ∧
    on.cuts.active.length < 16 ∧
    ok (cutOn (2 ^ 20)) 0x0030 (.stopAtCancel m0 1) false .opPlatVen .observe = true ∧
    activeCut (cutOn (2 ^ 20)) 1 = some (cut1 (2 ^ 20)) ∧ keptCut (cutOn (2 ^ 20)) 1 = some (cut1 (2 ^ 20)) ∧
    hubGt (cutOn (2 ^ 20)) + leastLead (cutOn (2 ^ 20)) false ≤ (cut1 (2 ^ 20)).t ∧
    ok (cutOn 0) 0x0030 (.stopAtReport m0 1 0) false .opPlatVen .observe = true := by decide +kernel

theorem witness_StepAndResumeCommandsComplete :
    let s := cutOn 0
    passes s 0x0031 (.stepCommand m0 1 0 oneCluster 4000) false (stepChecks m0 1 0 oneCluster 0 false (stepBoundBad 4000)) = true ∧
    activeCut s 1 = some (cut1 0) ∧
    passes s 0x0031 (.stepContext m0 1 0 oneCluster 5 1 0) false
      (stepChecks m0 1 0 oneCluster 0 false (stepBoundBad 0 || decide ((1 : BitVec 16) = 0))) = true ∧
    passes s 0x0031 (.stepFiring m0 1 0 oneCluster 1 true 0) false
      (stepChecks m0 1 0 oneCluster 1 false (stepBoundBad 0 || decide ((1 : BitVec 4) = 0))) = true ∧
    passes s 0x0031 (.stepTime m0 1 0 oneCluster 64) false (stepChecks m0 1 0 oneCluster 1 true false) = true ∧
    64 ≤ (64 : Word).toNat ∧ s.cuts.active.length < 16 ∧
    ok s 0x0032 (.resume m0 1 0 oneCluster true 0) false .opPlatVen .sealedLevel = true ∧
    vendorAway (bg s 0x0032 (.resume m0 1 0 oneCluster true 0)) m0 0 oneCluster = false ∧
    keptCut s 1 = some (cut1 0) ∧ leadShort s false (instantOf s false true 0) = false ∧ namesOther s 0 oneCluster = false ∧
    resumeBusy (bg s 0x0032 (.resume m0 1 0 oneCluster true 0)) (cut1 0) 0 oneCluster = false := by decide +kernel

def dumpP : DumpParams := { addr := 0, mask := oneCluster, region := 0, content := 1, incl := false, cutId := 0, tag := 0 }

def aDump (st : DumpState) : Dump :=
  { id := 1, p := dumpP, origin := 0, owner := {}, who := some .operator, st := st, offset := 4096, total := 4096, started := 0
    timeState := 0, incl := false }

def dumpOn (st : DumpState) : State := { on with dumps := { on.dumps with list := [aDump st] } }

def regionOn : State := { on with dumps := { on.dumps with
  regions := on.dumps.regions.set 0 { base := 0x200000, size := 67108864, reserved := 4096, write := 4096 } } }

theorem witness_StateAccessAndStatusCommandsComplete :
    passes (cutOn 0) 0x0040 (.stateRead m0 0 15 0 1 0 false) false (accessChecks m0 0 15 0 1 0 false false) = true ∧
    passes (cutOn 0) 0x0040 (.stateRead m0 0 16 0 1 0 false) false (accessChecks m0 0 16 0 1 0 false false) = true ∧
    passes (cutOn 0) 0x0041 (.stateWrite m0 0 0 0 1 0 false [7]) false (accessChecks m0 0 0 0 1 0 false true) = true ∧
    ok (dumpOn .active) 0x0044 (.dumpStatus m0 1) false .opPlatVen .sealedLevel = true ∧
    statusOf (dumpOn .active) 1 = some (aDump .active) ∧
    ok on 0x0046 (.checkFeed m0 true 3 0 1 0 [7]) false .everyone .sealedLevel = true ∧ spanBad on 3 0 1 [7] = false ∧
    ok on 0x0046 (.checkFeed m0 true 2 0 1 0 []) false .opPlatVen .sealedLevel = true ∧ spanBad on 2 0 1 [] = false ∧
    recordsOf on (some .operator) = false ∧ sessionRuns on = false ∧
    ok on 0x0046 (.checkFeed m0 false 0 0 4096 0 []) false .opPlatVen .sealedLevel = true ∧ spanBad on 0 0 4096 [] = false := by
  decide +kernel

def systemCut : State :=
  { on with cuts := { on.cuts with active := [{ cut1 0 with addr := 0x10000, mask := 0xFFFF0000, system := true }] } }

theorem witness_DumpCommandsComplete :
    ok on 0x0043 (.dumpSetup m0 0 0x200000 67108864 0 0) false .opPlatVen .sealedLevel = true ∧ on.dumps.list = [] ∧
    ok on 0x0043 (.dumpSetup m0 8 0 0 0 400) false .opPlatVen .sealedLevel = true ∧
    passes regionOn 0x0043 (.dumpStart m0 dumpP 0) false (startChecks m0 dumpP 0) = true ∧
    passes regionOn 0x0042 (.scanOut m0 dumpP 0) false (startChecks m0 { dumpP with content := 0x20 } 0) = true ∧
    ok (dumpOn .active) 0x0043 (.dumpCancel m0 1) false .opPlatVen .sealedLevel = true ∧ dumpLive (aDump .active) = true ∧
    ok systemCut 0x0043 (.churn m0 1 1 0 false 0 0 0) false .opPlatVen .observe = true ∧
    (∃ x, activeCut (bg systemCut 0x0043 (.churn m0 1 1 0 false 0 0 0)) 1 = some x ∧ namesOther systemCut x.addr x.mask = true ∧
      cutInForce systemCut x = true) ∧
    whoOf (bg systemCut 0x0043 (.churn m0 1 1 0 false 0 0 0)) m0 ≠ some .vendor ∧
    ok (dumpOn .parked) 0x0045 (.faultRetry m0 0 1 true) false .opPlatVen .sealedLevel = true ∧
    dumpOf (dumpOn .parked) 1 = some (aDump .parked) ∧
    (let s := { on with pail := { on.pail with sets := on.pail.sets.modify 3 fun p => { p with fault := some 1 } } }
     ok s 0x0045 (.faultRetry m0 1 3 false) false .opPlatVen .sealedLevel = true ∧ (pailSet s 3).fault.isSome = true) ∧
    (let s := { on with trace := { on.trace with fault := some 1 } }
     ok s 0x0045 (.faultRetry m0 2 0 false) false .opPlatVen .sealedLevel = true ∧ s.trace.fault.isSome = true) := by
  refine ⟨?_, ?_, ?_, ?_, ?_, ?_, ?_, ?_, ⟨_, rfl, ?_, ?_⟩, ?_, ?_, ?_, ?_, ?_⟩ <;> decide +kernel

def fencedOn (lent : Bool) : State := { on with cores := [(0, { ties := tie 0, st := .fenced, fence := true, lent := lent })] }

def aJob (ph : JobPhase) : Job := { core := 0, test := 1, deadline := 0, patterns := 1, seed := 0, expect := 0, phase := ph }

def testing (ph : JobPhase) : State :=
  { fencedOn true with test := { on.test with jobs := [aJob ph], runs := [{ id := 1, owner := {} }] } }

def advanced : State := { testing (.running 0) with
  cores := [(0, { ties := tie 0, st := .fenced, advances := List.replicate 255 0 })] }

def slotP : SlotParams :=
  { slot := 3, enable := true, addr := 0, mask := oneCluster, classes := 1, portslot := false, threshold := 1, window := 4000
    action := 0 }

theorem witness_SelfTestAndPolicyCommandsComplete :
    ok (fencedOn false) 0x0055 (.testLend m0 0 oneCluster) false .opPlatVen .sealedLevel = true ∧
    levelThree (bg (fencedOn false) 0x0055 (.testLend m0 0 oneCluster)) m0 = false ∧ setBadArg on 0 oneCluster 1 = false ∧
    setBadUnit on 0 oneCluster 1 = false ∧
    ((coresIn (fencedOn false) 0 oneCluster).filter fun c => ((coreOf (fencedOn false) c).map lendable).getD false) ≠ [] ∧
    ok (fencedOn true) 0x0055 (.testReclaim m0 0 oneCluster) false .opPlatVen .sealedLevel = true ∧
    ok on 0x0055 (.testSlotConfig m0 16 2) false .opPlatVen .sealedLevel = true ∧
    ok (testing .pending) 0x0054 (.testStatus m0 1) false .opPlatVen .sealedLevel = true ∧
    statusRun (testing .pending) 1 = some { id := 1, owner := {} } ∧
    ok on 0x0053 (.autofenceSlot m0 slotP) false .opPlatVen .sealedLevel = true ∧
    ok on 0x0053 (.autofenceSlot m0 { slotP with enable := false }) false .opPlatVen .sealedLevel = true ∧
    ok on 0x0053 (.autofenceLimits m0 8192 1024 0) false .opPlatVen .sealedLevel = true ∧
    ok on 0x0053 (.autofenceStatus m0) false .opPlatVen .sealedLevel = true := by decide +kernel

def testP : TestParams :=
  { addr := 0, mask := oneCluster, coreType := 0, patterns := 4096, seed := 0, expect := 0, deadline := 0 }

theorem witness_TestRequestsAndSchedulingComplete :
    ok (fencedOn true) 0x0054 (.testRequest m0 testP) false .opPlatVen .sealedLevel = true ∧
    levelThree (bg (fencedOn true) 0x0054 (.testRequest m0 testP)) m0 = false ∧ setBadArg on 0 oneCluster 1 = false ∧
    setBadUnit on 0 oneCluster 1 = false ∧ (fencedOn true).test.jobs = [] ∧
    (coresIn (fencedOn true) 0 oneCluster).length ≤ 1024 ∧ ({ id := 1, owner := {} } : TestRun).complete = false ∧
    ok (testing .pending) 0x0054 (.testCancel m0 1) false .opPlatVen .sealedLevel = true ∧
    testRun (testing .pending) 1 = some { id := 1, owner := {} } ∧
    serving on = true ∧ basic on = false ∧ serving State.reset = false ∧ slotOpens on (aJob .pending) = false ∧
    jobOn (testing (.running 0)) 0 = some (aJob (.running 0)) ∧ (coreOf (testing (.running 0)) 0).isSome = true ∧
    serving (testing (.running 0)) = true ∧ coreAdvFull (leaveScan true 0 (testing (.running 0))) 0 = false ∧
    coreAdvFull (leaveScan true 0 advanced) 0 = true ∧ jobOn on 0 = none := by decide +kernel

theorem witness_FenceCommandsComplete :
    ok on 0x0050 (.fence m0 0 oneCluster) true .opPlatVen .sealedLevel = true ∧ setBadArg on 0 oneCluster 1 = false ∧
    setBadUnit on 0 oneCluster 1 = false ∧ ok on 0x0051 (.unfence m0 0 oneCluster) true .opPlatVen .sealedLevel = true ∧
    ok on 0x0052 (.reopen m0 0 0) true .opPlatVen .sealedLevel = true ∧ on.gens.chip = 0 ∧
    findUnit on (fun u => decide (u.rung = 5)) = none ∧
    ok on 0x0052 (.resetRungStatus m0) true .opPlatVen .sealedLevel = true ∧
    (let waits := fun (s : State) => (coresIn s 0 oneCluster).filter fun c => ((coreOf s c).map fun co =>
       decide (coreReports co ≠ 7 ∧ co.st ≠ .fenced) && (decide (co.st ≠ .quiet) && !coreGated co)).getD false
     waits on = [0] ∧ waits (fencedOn false) = []) ∧
    (let codes := fun (s : State) => (coresIn s 0 oneCluster).map fun c => ((coreOf s c).map unfenceCode).getD rBusy
     let idle : Core := { ties := tie 0 }
     let both : State := { on with cores := [(0, idle), (1, { ties := tie 1, st := .fenced, fence := true })] }
     codes on = [rOk] ∧ codes (fencedOn false) = [rFenced] ∧ codes both = [rOk, rFenced] ∧
     codes { on with cores := [(0, { idle with st := .quiet })] } = [rBusy]) := by decide +kernel

def rungP : RungParams :=
  { addr := 0, mask := 0xFFFFFFFF, ctx := 5, gen := 0, genchk := false, escalate := false, maxRung := 0, reason := 1 }

theorem witness_RungsComplete :
    passes someCtx 0x0052 (.contextAbort m0 { rungP with mask := oneCluster }) true
      (rungChecks m0 1 { rungP with mask := oneCluster }) = true ∧
    passes on 0x0052 (.engineReset m0 rungP) true (rungChecks m0 2 rungP) = true ∧
    passes on 0x0052 (.coreFenceAndReset m0 { rungP with mask := 0xFFFFFFF8 }) true
      (rungChecks m0 3 { rungP with mask := 0xFFFFFFF8 }) = true ∧
    passes on 0x0052 (.partitionReset m0 { rungP with mask := 0xFFFFE000 }) true
      (rungChecks m0 4 { rungP with mask := 0xFFFFE000 }) = true ∧
    passes on 0x0052 (.chipComputeReset m0 { rungP with mask := 0xFFFF0000 }) true
      (rungChecks m0 5 { rungP with mask := 0xFFFF0000 }) = true ∧
    passes on 0x0052 (.trayPowerCycle m0 { rungP with mask := 0xFFFF0000 }) true
      (rungChecks m0 6 { rungP with mask := 0xFFFF0000 }) = true := by decide +kernel

def aCal (n : Nat) (auto : Bool) (via : Option Via) (deadline : GT) : Calibration :=
  { mode := 0, via := via, owner := {}, port := 2, nextExch := n, automatic := auto, deadline := deadline
    sent := [3], got := List.replicate n { fwd := 0, rev := 0, asym := 0, preempted := false } }

def calOn (k : Calibration) : State := { on with time := { on.time with cal := some k } }
def child : State := { on with time := { on.time with parentPort := some 2 } }
/-- Of the six ports the one of number 0 is LIVE. -/
def linked : State := { on with iz := { on.iz with ports := (List.replicate 6 {}).set 0 { st := .live, level := 3 } } }

theorem witness_TimeCalibrationComplete :
    ok on 0x0060 (.timeCalStart m0 0 true 99) false .opPlat .sealedLevel = true ∧ inTorus on 0 = true ∧ chipOf on = 0 ∧
    on.time.cal = none ∧ on.time.refLost = false ∧
    ok linked 0x0060 (.timeCalStart m0 0x400 false 0) false .opPlat .sealedLevel = true ∧ inTorus linked 0x400 = true ∧
    childPort 0 linked = some 0 ∧ childPort 0 on = none ∧ ok child 0x0060 (.timeCalLink m0 0 2) false .opPlat .sealedLevel = true ∧
    child.time.parentPort = some 2 ∧ ok child 0x0060 (.timeCalSweep m0) false .opPlat .sealedLevel = true ∧
    child.time.root = false ∧ basic (calOn (aCal 15 false none 0)) = false ∧ (aCal 15 false none 0).nextExch < 16 ∧
    (aCal 15 false none 0).lastSend = none ∧ 16 ≤ (aCal 16 false none 0).nextExch ∧ trained linked 0 = true ∧ trained linked 2 = false ∧ serving linked = true ∧
    (3 : BitVec 4) ∈ (aCal 0 false none 0).sent ∧ (4 : BitVec 4) ∉ (aCal 0 false none 0).sent ∧ (aCal 15 false none 0).isRoot = false ∧ (aCal 14 false none 0).got.length < 15 ∧
    15 ≤ (aCal 15 false none 0).got.length ∧ hubGt (calOn (aCal 0 false none 5)) < (aCal 0 false none 5).deadline ∧
    (aCal 0 true none 0).deadline ≤ hubGt (calOn (aCal 0 true none 0)) ∧ (aCal 0 false (some m0) 0).via = some m0 := by
  decide +kernel

/-- Whether a link of another chip is a tree link is that chip's: the witness takes the model's free value as its premise. -/
theorem witness_TimeCalibrationComplete_link (h : Config.calIsTreeLink 0 = true) :
    ok linked 0x0060 (.timeCalLink m0 0x400 2) false .opPlat .sealedLevel = true ∧ linked.time.cal = none ∧
    (0x400 : BitVec 16) ≠ chipOf linked ∧ inTorus linked 0x400 = true ∧ linked.free = 0 ∧ Config.calIsTreeLink linked.free = true :=
  ⟨by decide +kernel, rfl, by decide +kernel, by decide +kernel, rfl, h⟩

def windowed (o : Bool) : State := { on with iz := { on.iz with windows := on.iz.windows.set 63 { isOpen := o } } }

theorem witness_WindowAndRemoteCommandsComplete :
    ok on 0x0061 (.windowOpen m0 63 0 4096 0 0) false .opPlat .sealedLevel = true ∧
    levelThree (bg on 0x0061 (.windowOpen m0 63 0 4096 0 0)) m0 = false ∧ setBadArg on 0 0 4 true = false ∧
    (windowOf on 63).isOpen = false ∧ (windowOf on 63).closing = none ∧ (windowOf on 63).admitted = 0 ∧
    ok (windowed true) 0x0062 (.windowClose m0 63) false .opPlat .sealedLevel = true ∧
    (windowOf (windowed true) 63).isOpen = true ∧ (0 : BitVec 32) >>> 16 = 0 ∧
    passes linked 0x0063 (.remoteCmd m0 0x400 false 0x0002 false 0 0 []) false (remoteChecks m0 0x400 0 1 false) = true ∧
    passes linked 0x0063 (.remoteWrite m0 0x400 false 0 0 63 1 3528 0 (List.replicate 441 0)) false
      (remoteChecks m0 0x400 0 2 false) = true := by decide +kernel
/-! The signatures are values the standard of R521 gives and the model leaves open, so a witness that needs a good signature
takes that one value of the open function as its premise. -/

def desc (kind role life : Nat) : List Word :=
  [pk [(56, 8, 1), (48, 8, kind), (40, 8, role), (32, 8, life)], 7, 0, 0, 5] ++ List.replicate 11 0

theorem signedUnder_of {k g m : List Byte} (h : Config.ecdsaVerify k g (Config.sha384 m) = true) :
    signedUnder (some (Config.sha384 k)) k g m = true := by simp [signedUnder, h]

def owned : State :=
  { on with
    fuses := { lifecycle := .provision, opKeys := [Config.sha384 [1]], platformKey := some (Config.sha384 [2]) }
    protect := { on.protect with nonces := [(7, 0)] } }

theorem witness_ProposalsComplete
    (h : Config.ecdsaVerify [1] [] (Config.sha384 (bytesOf (desc 1 1 1) ++ tagPropose)) = true) :
    ok on 0x0070 (.protectNonce m0) false .opPlat .sealedLevel = true ∧ on.fuses.lifecycle ≠ .returned ∧
    (let d := desc 1 1 1
     let b := bg owned 0x0070 (.protectPropose m0 d [1] [] [])
     let b1 := { b with protect := { b.protect with nonces := (liveNonces b).filter fun n => !(n.1 == descNonce d) } }
     accepted m0 0x0070 (.protectPropose m0 d [1] [] []) false owned = true ∧ whoOf b m0 = some .operator ∧
     holds .opPlat (some .operator) = true ∧ b.fuses.lifecycle ≠ .returned ∧ bits (descWord d 0) 47 40 = (principalCode .operator).toNat ∧ mayPropose b m0 .operator d = true ∧
     (liveNonces b).any (fun n => n.1 == descNonce d) = true ∧ descWellFormed d = true ∧
     bits (descWord d 0) 15 0 = (chipOf b).toNat ∧ bits (descWord d 0) 39 32 = lifecycleCode b.fuses.lifecycle ∧
     decide (descKind d = 10) = false ∧ changeRefused b1 d false none = none ∧ b.protect.proposal = none) ∧
    proposalSigned owned .operator (desc 1 1 1) [1] [] [] = true ∧
    accepted m0 0x0072 (.lifecycleAdvance m0 (desc 10 1 0) [] []) false on = true := by
  refine ⟨by decide +kernel, by decide, by decide +kernel, ?_, by decide +kernel⟩
  have k : descKind (desc 1 1 1) = 1 := by decide +kernel
  have e : signedUnder (keyHashOf owned.fuses .operator) [1] [] (bytesOf (desc 1 1 1) ++ tagPropose) = true := signedUnder_of h
  simp only [proposalSigned, k, e]
  rfl

def proposalP (kind proposer : Nat) (life : Nat) (arg : Word) : Proposal :=
  { id := 3, kind := BitVec.ofNat 8 kind, proposer := BitVec.ofNat 8 proposer, desc := (desc kind proposer life).set 4 arg
    extra := [], expires := 99 }

def proposed : State := { owned with protect := { owned.protect with proposal := some (proposalP 1 1 1 5) } }

def stepOut : State :=
  { on with
    fuses := { platformKey := some [], vendorKey := some [], fwKey := some [] }
    protect := { on.protect with proposal := some (proposalP 10 2 0 1) } }

def m15 : Via := .mailbox 15
def port1 : Via := .narrow 1
def confirmI (via : Via) : Instr := .protectConfirm via 3 [2] [] []

theorem witness_ConfirmationsAndFusesComplete
    (h : Config.ecdsaVerify [2] [] (Config.sha384 (bytesOf (proposalP 1 1 1 5).desc ++ tagConfirm)) = true) :
    (let b := begun m15 0x0071 (confirmI m15) proposed
     accepted m15 0x0071 (confirmI m15) false proposed = true ∧ whoOf b m15 = some .platform ∧
     holds .opPlat (some .platform) = true ∧ b.fuses.lifecycle ≠ .returned ∧ b.protect.proposal = some (proposalP 1 1 1 5) ∧
     (proposalP 1 1 1 5).id = 3 ∧ hubGt b < (proposalP 1 1 1 5).expires ∧
     changeRefused b (proposalP 1 1 1 5).desc true (some []) = none ∧ fusedItem (proposalP 1 1 1 5).desc [] = none) ∧
    confirmAllowed proposed m15 .platform (proposalP 1 1 1 5) [2] [] = true ∧
    (let b := begun port1 0x0071 (confirmI port1) stepOut
     accepted port1 0x0071 (confirmI port1) false stepOut = true ∧ whoOf b port1 = some .platform ∧
     b.protect.proposal = some (proposalP 10 2 0 1) ∧ hubGt b < (proposalP 10 2 0 1).expires ∧
     confirmAllowed b port1 .platform (proposalP 10 2 0 1) [2] [] = true ∧
     changeRefused b (proposalP 10 2 0 1).desc true (some []) = none ∧
     fusedItem (proposalP 10 2 0 1).desc [] = some (.lifecycle .provision)) ∧
    (let f := Instr.fuseWrite port1 1 (List.replicate 48 9)
     accepted port1 0x0F01 f true on = true ∧ isNarrow port1 = true ∧ on.fuses.lifecycle = .manufacture ∧
     whoOf (begun port1 0x0F01 f on) port1 ≠ none ∧ (List.replicate 48 (9 : Byte)).length = 48 ∧ on.fuses.platformKey = none ∧ on.fuses.vendorKey = none ∧
     on.fuses.fwKey = none) ∧
    on.fuseWrites = [] := by
  refine ⟨by decide +kernel, ?_, by decide +kernel, by decide +kernel, rfl⟩
  have e : signedUnder (keyHashOf proposed.fuses .platform) [2] []
      (bytesOf (proposalP 1 1 1 5).desc ++ tagConfirm) = true := signedUnder_of h
  simp only [confirmAllowed, e]
  decide +kernel

def sessioned (t : GT) : State :=
  { on with
    narrow := { on.narrow with until_ := some t }
    protect := { on.protect with
      lockedUntil := some t, inclOp := some { scope := 1, domain := 0, all := true, notAfter := wn t } } }

def challenged : State :=
  { on with
    fuses := { on.fuses with platformKey := some (Config.sha384 (List.replicate 96 2)) }
    narrow := { on.narrow with challenge := some (List.replicate 8 0, 99) } }

def responseBits : List Byte := bytesOf (pk [(56, 8, 1), (40, 8, 2), (32, 2, 2)] :: List.replicate 7 0) ++
  List.replicate 96 2 ++ List.replicate 96 3

theorem witness_NarrowSessionsComplete :
    (let i := Instr.localRead port1 0 0 8
     let b := begun port1 0x0F00 i on
     accepted port1 0x0F00 i true on = true ∧ isNarrow port1 = true ∧ denied b port1 .opPlatVen .sealedLevel = false ∧
     8 ≤ localSize b 0 ∧ recordsOf b (whoOf b port1) = false ∧ sessionRuns b = false) ∧
    (grantOf (sessioned 0) (some .operator)).isSome = true ∧ (sessioned 0).narrow.until_ = some 0 ∧
    (sessioned 0).protect.lockedUntil = some 0 ∧ 0 ≤ hubGt (sessioned 0) ∧ hubGt (sessioned 9) < 9 ∧
    (Lifecycle.provision ≠ .manufacture) ∧ on.power ≠ .off ∧ limited on = false ∧ locked (expireSession (sessioned 9)) = true ∧ locked (expireSession on) = false ∧ (sessioned 9).power ≠ .off ∧
    limited (sessioned 9) = false ∧ responseGrants on [] [] [] = none ∧ bits (([] : List Word).getD 0 0) 63 60 = 0 ∧
    (let o : OpenReq := { key := 1, seq := 1, remote := some (0x400, 0, 0) }
     let e : TrackEntry := { use := 0, target := 0x400, purpose := .narrow 1, deadline := 0 }
     let s := { on with narrow := { on.narrow with open_ := [o] }, iz := { on.iz with tracker := [(0, e)] } }
     (s.narrow.open_.find? fun o => o.seq == 1 && o.remote.isSome && !o.answered) = some o ∧ tget 0 s.iz.tracker = some e ∧
     responseWaits s 0 e = false ∧ 0 ≤ hubGt s ∧ hubGt s < 5) := by decide +kernel

theorem witness_NarrowSessionsComplete_granted (h : ∀ msg, Config.ecdsaVerify (List.replicate 96 2) (List.replicate 96 3) msg = true) :
    locked (expireSession challenged) = false ∧ expireSession challenged = challenged ∧
    (responseGrants challenged (wordsOf (responseBits.take 64)) ((responseBits.drop 64).take 96) ((responseBits.drop 160).take 96)).isSome
      = true := by
  refine ⟨by decide +kernel, rfl, ?_⟩
  have e1 : (responseBits.drop 64).take 96 = List.replicate 96 2 := by decide +kernel
  have e2 : (responseBits.drop 160).take 96 = List.replicate 96 3 := by decide +kernel
  have e3 : wordsOf (responseBits.take 64) = pk [(56, 8, 1), (40, 8, 2), (32, 2, 2)] :: List.replicate 7 0 := by decide +kernel
  have e4 : signedUnder (keyHashOf challenged.fuses .platform) (List.replicate 96 2) (List.replicate 96 3)
      (bytesOf (List.replicate 8 0) ++ bytesOf ((pk [(56, 8, 1), (40, 8, 2), (32, 2, 2)] :: List.replicate 7 0).take 8)) = true := by
    exact signedUnder_of (h _)
  rw [e1, e2, e3]
  have e5 : challenged.narrow.challenge = some (List.replicate 8 0, 99) := rfl
  have e6 : principalOf (fieldB 8 ((pk [(56, 8, 1), (40, 8, 2), (32, 2, 2)] :: List.replicate 7 0).getD 0 0) 40) 0 = some .platform := by
    decide +kernel
  simp only [responseGrants, e5, e6, e4]
  rw [if_pos (by refine ⟨?_, ?_, ?_, ?_, ?_, ?_, ?_, ?_, ?_⟩ <;> decide +kernel)]
  rfl

def gasping (ph : LgPhase) (rec_ : List Word) : State :=
  { on with power := .lastGasp, pw := { on.pw with phase := ph, record := rec_ } }

theorem witness_TapRowsComplete :
    on.power ≠ .off ∧ limited (gasping .idle []) = true ∧ (gasping .idle []).power ≠ .off ∧ limited on = false ∧
    locked (expireSession on) = false ∧ locked (expireSession (sessioned 9)) = true ∧ limited (sessioned 9) = false := by
  decide +kernel

def fwIn (st : FwState) (started : Bool) : State := { on with fw := { state := st, started := started } }

theorem witness_FirmwareRowsComplete :
    serving on = true ∧ bit 1 0 = true ∧ bit 0 0 = false ∧ on.fw.state = .running ∧ serving (fwIn .loading true) = true ∧
    (fwIn .loading true).fw.state = .loading ∧ (fwIn .loading true).fw.started = true ∧ (fwIn .absent false).fw.started = false ∧
    (fwIn .loading true).fw.stateVer ≠ some (BitVec.ofNat 16 (bits ((fwIn .loading true).fw.header.getD 3 0) 47 32)) ∧
    (let s := fwIn .loading true
     ({ s with fw := { s.fw with stateVer := some 0 } }.fw.stateVer) = some (fieldB 16 (s.fw.header.getD 3 0) 32)) ∧
    hubGt (fwIn .loading true) < (fwIn .loading true).fw.lastSignal + 8000000 ∧
    (fwIn .loading true).fw.lastSignal + 8000000 ≤ hubGt (later 8000000 (fwIn .loading true)) ∧
    hubGt (fwIn .loading true) < (fwIn .loading true).fw.startGt + 400000000 ∧
    (fwIn .loading true).fw.startGt + 400000000 ≤ hubGt (later 400000000 (fwIn .loading true)) := by decide +kernel

theorem witness_HostChecksumUnitRowsComplete :
    serving on = true ∧ (0xFE : BitVec 8) ≠ 0xFF ∧ on.check.queue = [] ∧
    (let s : State := { on with check := { on.check with host := true, crc64 := true } }
     serving s = true ∧ s.check.host = true ∧ s.check.queue = [] ∧ s.check.crc64 = true) ∧ on.check.owner = false ∧
    on.check.host = false ∧
    (let k := { on.check with owner := true, queue := List.replicate 16 (.run 0) }
     k.owner = true ∧ 16 ≤ k.queue.length ∧ k.crc64 = false) := by decide +kernel

theorem witness_RegisterRowsComplete :
    serving on = true ∧ 0x27FDF3B646#40 ≤ fieldB 40 0x27FDF3B646 0 ∧ fieldB 40 0x28020C49BA 0 ≤ 0x28020C49BA#40 ∧
    fieldB 40 0x27FDF3B645 0 < 0x27FDF3B646#40 ∧ 0x28020C49BA#40 < fieldB 40 0x28020C49BB 0 ∧ serving State.reset = false := by
  decide +kernel

theorem witness_WritesTakeTheirByteEnables :
    serving on = true ∧ (0x7F : BitVec 8) ≠ 0xFF ∧ (0x1FFF : BitVec 17).toNat < 0x2000 ∧ 0x4000 ≤ (0x4000 : BitVec 17).toNat ∧
    0x2000 ≤ (0x2000 : BitVec 17).toNat ∧ (0x3FFF : BitVec 17).toNat < 0x4000 ∧ memWf on.mb.mem = true ∧
    8 * ((0x2000 : BitVec 17).toNat - 0x2000) % 4096 = 0 ∧ 8 * ((0x3FFF : BitVec 17).toNat - 0x2000) % 4096 ≠ 0 := by decide +kernel

theorem witness_PowerRowsComplete :
    tieOffsOk goodTies = true ∧ tieOffsOk badTies = false ∧ on.power = .on ∧ (gasping .idle []).power = .lastGasp ∧
    ({ on with power := .off } : State).power = .off ∧ ({ on with power := .retained } : State).power = .retained ∧
    tie 0 ∈ goodTies.cores ∧ selectRecord [[], []] = none := by
  decide +kernel

theorem witness_LastGaspRowsComplete :
    on.power = .on ∧ on.rec_.tray.reason = none ∧ ({ on.rec_.tray with reason := some 5 } : Tray).reason = some 5 ∧ (gasping .body []).power = .lastGasp ∧ (gasping .body []).pw.phase = .body ∧
    (gasping .sealing []).pw.phase = .sealing ∧ (gasping .idle []).pw.phase = .idle := by decide +kernel

def trayOn : State := { on with rec_ := { on.rec_ with tray := { seq := 1, waits := some (1, 0) } } }

theorem witness_TrayRowsComplete :
    on.power ≠ .off ∧ (8064 : BitVec 16).toNat % 128 = 0 ∧ (8064 : BitVec 16).toNat ≤ 8064 ∧ 8064 < (8192 : BitVec 16).toNat ∧
    (1 : BitVec 16).toNat % 128 ≠ 0 ∧ on.pw.last = none ∧ trayOn.rec_.tray.waits = some (1, 0) ∧ serving trayOn = true ∧
    byteAt [1, 1, 1, 0, 0, 0] 0 = 1 ∧ byteAt [1, 1, 1, 0, 0, 0] 1 = 1 ∧
    (bytesWord (([1, 1, 1, 0, 0, 0] : List Byte).drop 2 |>.take 4)).setWidth 32 = trayOn.rec_.tray.seq ∧ 0 ≤ hubGt trayOn ∧
    byteAt [1, 2, 1, 0, 0, 0] 1 = 2 ∧
    (bytesWord (([1, 1, 2, 0, 0, 0] : List Byte).drop 2 |>.take 4)).setWidth 32 ≠ trayOn.rec_.tray.seq ∧ hubGt trayOn < 5 ∧
    ({ trayOn.rec_.tray with waits := some (1, 5) } : Tray).waits = some (1, 5) ∧ (gasping .idle []).power = .lastGasp ∧
    ({ on.pw with last := some [] } : PowerLogic).last = some [] := by
  decide +kernel

def unitP (rung : Nat) : RungUnit := { rung := rung, origs := [0], phase := .reset, due := 0 }

def rungOn (rung : Nat) : State :=
  { on with rec_ := { on.rec_ with
    rungs := [{ id := 1, rung := rung, p := rungP, owner := {}, accept := 0, highest := rung, units := [unitP rung] }]
    partReq := 1, chipReq := true } }

theorem witness_ResetHandshakesComplete :
    serving (rungOn 4) = true ∧ (rungOn 4).rec_.partReq.getLsbD 0 = true ∧ (rungOn 4).rec_.partDone.getLsbD 0 = false ∧
    findUnit (rungOn 4) (fun u => decide (u.rung = 4 ∧ u.part = 0)) = some (1, unitP 4) ∧
    findUnit (rungOn 5) (fun u => decide (u.rung = 4 ∧ u.part = 0)) = none ∧
    (rungOn 5).rec_.chipReq = true ∧ (rungOn 5).rec_.chipDone = false ∧
    findUnit (rungOn 5) (fun u => decide (u.rung = 5)) = some (1, unitP 5) ∧ findUnit (rungOn 4) (fun u => decide (u.rung = 5)) = none ∧
    on.rec_.partReq.getLsbD 7 = false ∧ on.rec_.chipReq = false ∧ (Machine.rungOf (rungOn 4) 1).isSome = true ∧
    Machine.rungOf on 1 = none ∧ ({ on.rec_ with partDone := 1, chipDone := true } : Recovery).partDone.getLsbD 0 = true := by
  decide +kernel
/-! ## Witnesses of the rows at the cores, the leaves and the cut -/

/-- `on` with its one core as given. -/
def coreOn (k : Core) : State := { on with cores := [(0, k)] }

/-- The core after the cycles of a row, where the row reaches it. -/
def shown (s : State) : Option Core := coreOf (rowState 0 0 s) 0

/-- The core at a row of a stop or of a sample. -/
def ticked (s : State) : Option Core := coreOf (tapAdvance 0 0 s) 0

def someTags : Tags := { ctx := 5 }
def idleCore : Core := { ties := tie 0 }
def busyCore : Core := { idleCore with engs := List.replicate 8 { cur := some someTags, rep := 1, st := .softStopping } }

theorem witness_EngineCommandRowsCountCycles :
    coresWhole on = true ∧ portTaken on 0 = true ∧ engLive on 0 0 = true ∧
    shown on = some idleCore ∧ (engOf idleCore 0).cur = none ∧ (engOf idleCore 0).hold = false ∧
    coresWhole (coreOn busyCore) = true ∧ portTaken (coreOn busyCore) 0 = true ∧ engLive (coreOn busyCore) 0 7 = true ∧
    ((shown (coreOn busyCore)).map fun k => (engOf k 7).cur) = some (some someTags) ∧ (engOf busyCore 7).st = .softStopping ∧
    (0 : BitVec 2) ≠ 3 ∧ tapLive on 1 = false ∧ discards on 1 = false ∧
    discards (coreOn { idleCore with quietDone := true }) 0 = true ∧ railOff on 0 = false ∧ serving on = true := by decide +kernel

theorem witness_EngineCommandRowsCountCycles_cycles :
    (let e : Engine := { cur := some someTags, rep := 2, fullEn := true, stall := 15 }
     e.rstN = true ∧ e.cur.isSome = true ∧ e.fullEn = true ∧ e.rep = 2 ∧ e.full.length = 20) ∧
    ({ rstN := true, cur := some someTags, rep := 1 } : Engine).rep = 1 ∧
    ({ idleCore with quietDone := true } : Core).quietDone = true ∧ idleCore.funcClkEn = true ∧
    ({ idleCore with funcClkEn := false } : Core).funcClkEn = false := by decide +kernel

def steeredCore (rel : BitVec 4) : Core := { idleCore with tok := 15, dat := 15, stReleased := rel, sinceWord := 4 }
def noSteer : Core := { ties := { tie 0 with steerPresent := 7 } }

theorem witness_SteeringAndEpochRowsComplete :
    portTaken (coreOn (steeredCore 0)) 0 = true ∧ shown (coreOn (steeredCore 0)) = some (steeredCore 0) ∧
    shown (coreOn (steeredCore 8)) = some (steeredCore 8) ∧ (steeredCore 0).ties.steerPresent.getLsbD 3 = true ∧
    (steeredCore 0).stHold.getLsbD 3 = false ∧ (steeredCore 0).tok.getLsbD 3 = true ∧ (steeredCore 0).dat.getLsbD 3 = true ∧
    fencedAcked (steeredCore 0) = false ∧ (steeredCore 0).arm = none ∧ (steeredCore 0).stReleased.getLsbD 3 = false ∧
    (steeredCore 8).stReleased.getLsbD 3 = true ∧ shown (coreOn noSteer) = some noSteer ∧ noSteer.ties.steerPresent.getLsbD 3 = false ∧
    (255 : BitVec 8) ≠ (steeredCore 0).epoch ∧ (steeredCore 0).epochHold = false ∧
    (let k := { steeredCore 0 with epochHold := true }
     portTaken (coreOn k) 0 = true ∧ shown (coreOn k) = some k ∧ k.epochHold = true) ∧
    noSteer.sinceWord < 4 ∧ 4 ≤ (steeredCore 0).sinceWord ∧ (steeredCore 0).upQ.length < 48 ∧
    (let k := { steeredCore 0 with upQ := List.replicate 48 { cc := 0, kind := .keepAlive } }
     portTaken (coreOn k) 0 = true ∧ shown (coreOn k) = some k ∧ 48 ≤ k.upQ.length) := by
  decide +kernel

def storing : Core := { idleCore with soEn := true }
def storeOn : State := { coreOn storing with leaves := [(0, { goodLeaf with skim := { cap := some (cap0 .isOpen none) } })] }

/-- A trace session of one record kind that names the core's engines. -/
def sessionOn (kind : Nat) : State :=
  { on with trace := { on.trace with enabled := true, cfg := some { traceP true with kinds := BitVec.ofNat 3 (2 ^ kind) } } }

theorem witness_CoreStreamRowsComplete :
    portTaken on 0 = true ∧ engLive on 0 0 = true ∧ shown on = some idleCore ∧ fencedAcked idleCore = false ∧
    idleCore.soEn = false ∧ storing.soEn = true ∧ portTaken storeOn 0 = true ∧ shown storeOn = some storing ∧
    capOf (rowState 0 0 storeOn) 0 = some (cap0 .isOpen none) ∧ capOf (rowState 0 0 (coreOn storing)) 0 = none ∧
    shown (coreOn storing) = some storing ∧ portTaken (coreOn storing) 0 = true ∧
    coreOf on 0 = some idleCore ∧ idleCore.daSel = 0 ∧
    (let w := fun (s : State) e => (sessionNames s (hubSession s) 0 e && kindIn (hubSession s) 1) || comparatorOn s 0 1 (some e)
     w (judgeFenced 0 (some 0) idleCore (rowState 0 0 on)) 0 = false ∧
     w (judgeFenced 0 (some 0) idleCore (rowState 0 0 (sessionOn 1))) 0 = true) ∧
    (let w := fun (s : State) => (hubTracedCore s 0 && kindIn (hubSession s) 2) || comparatorOn s 0 2 none
     w (rowState 0 0 on) = false ∧ w (rowState 0 0 (sessionOn 2)) = true) := by decide +kernel

def warned : Core := { idleCore with gateWarn := true }
def quietCore (st : CoreState) : Core := { idleCore with gateWarn := true, quietDone := true, st := st }

theorem witness_CorePowerNoticesComplete :
    portTaken on 0 = true ∧ shown on = some idleCore ∧ idleCore.arm = none ∧ idleCore.gateWarn = false ∧
    shown (coreOn warned) = some warned ∧ warned.gateWarn = true ∧ portTaken (coreOn warned) 0 = true ∧
    (let k := { idleCore with arm := some (9, true, 1) }
     portTaken (coreOn k) 0 = true ∧ shown (coreOn k) = some k ∧ k.armStretch = false ∧ coreInService k = true ∧
     decide (0 ∈ scanGroup (upPush 0 .stretchChange (coreOn k))) = true) ∧
    coreOf (coreOn (quietCore .quiet)) 0 = some (quietCore .quiet) ∧ serving (coreOn (quietCore .quiet)) = true ∧
    railOff (coreOn (quietCore .quiet)) 0 = false ∧ coreOf on 1 = none ∧ serving State.reset = false ∧
    railOff { on with pw := { on.pw with gated := 1 } } 0 = true ∧ stopsOnReturn (coreOn idleCore) 0 = none ∧
    (quietCore .quiet).st = .quiet ∧
    (let s : State := { coreOn { quietCore .quiet with claim := some 1 } with cuts := { on.cuts with active := [{ cut1 0 with cores := [0] }] } }
     (stopsOnReturn s 0).map (·.id) = some 1) := by decide +kernel

def accessing (cc : BitVec 32) (req : Bool) : Core := { idleCore with saReq := req, saSince := 0, cc := cc }
def fencing : Core := { idleCore with st := .fenced, fence := true, fenceDue := some 5 }
def aborting : Core := { idleCore with abortReq := true, abortQ := [(5, none)] }
def fenceRung : State :=
  { coreOn fencing with rec_ := { on.rec_ with rungs :=
    [{ id := 1, rung := 3, p := rungP, owner := {}, accept := 0, highest := 3, units := [{ unitP 3 with phase := .fence }] }] } }
def inReset : Core := { idleCore with rstN := false, engs := List.replicate 8 { rstN := false } }

theorem witness_CoreAcknowledgementsComplete :
    portTaken (coreOn fencing) 0 = true ∧ shown (coreOn fencing) = some fencing ∧ fencing.fence = true ∧ fencing.fenceAck = false ∧
    (let f := fun s => fenceSettled 0 false (modCore 0 (fun x => { x with fenceAck := true, fenceDue := none }) (rowState 0 0 s))
     findUnit (f (coreOn fencing)) (fun u => decide (u.rung = 3 ∧ u.core = 0 ∧ u.phase = .fence)) = none ∧
     shown fenceRung = some fencing ∧ portTaken fenceRung 0 = true ∧
     (findUnit (f fenceRung) (fun u => decide (u.rung = 3 ∧ u.core = 0 ∧ u.phase = .fence))).isSome = true) ∧
    portTaken (coreOn aborting) 0 = true ∧ shown (coreOn aborting) = some aborting ∧ (aborting.abortQ.head?).bind (·.2) = none ∧
    (let k := { aborting with abortQ := [(5, some 1)] }
     let s := { coreOn k with rec_ := { on.rec_ with rungs :=
       [{ id := 1, rung := 1, p := rungP, owner := {}, accept := 0, highest := 1, units := [{ unitP 1 with phase := .abort }] }] } }
     portTaken s 0 = true ∧ shown s = some k ∧ (k.abortQ.head?).bind (·.2) = some 1 ∧
     (((Machine.rungOf (modCore 0 lowerAbortHolds s) 1).bind fun r => r.units.find? fun u => decide (u.rung = 1 ∧ u.core = 0)).map
       (·.rung)) = some 1) ∧
    shown (coreOn (accessing 1023 true)) = some (accessing 1023 true) ∧
    shown (coreOn (accessing 1024 true)) = some (accessing 1024 true) ∧
    shown (coreOn (accessing 1025 true)) = some (accessing 1025 true) ∧
    shown (coreOn (accessing 0 false)) = some (accessing 0 false) ∧
    ((accessing 1023 true).cc - (accessing 1023 true).saSince).toNat < 1024 ∧
    1024 ≤ ((accessing 1024 true).cc - (accessing 1024 true).saSince).toNat ∧
    ((accessing 1024 true).cc - (accessing 1024 true).saSince).toNat ≤ 1024 ∧
    1024 < ((accessing 1025 true).cc - (accessing 1025 true).saSince).toNat ∧
    hubGt (coreOn fencing) = 0 := by decide +kernel

theorem witness_CoreAcknowledgementsComplete_resets :
    coresWhole (coreOn inReset) = true ∧ portTaken (coreOn inReset) 0 = true ∧ (engOf inReset 0).rstN = false ∧ inReset.rstN = false ∧
    closingOn (coreOn inReset) 0 = false ∧
    (findUnit (modCore 0 (fun x => { x with rstN := true }) (coreOn inReset)) fun u => decide (u.rung = 3 ∧ u.core = 0 ∧ u.phase ≠ .fence)) = none ∧
    (let s := { coreOn inReset with test := { on.test with jobs := [aJob (.closing 0 0 0)] } }
     portTaken s 0 = true ∧ shown s = some inReset ∧ closingOn s 0 = true) ∧
    (let s := { coreOn inReset with rec_ := { on.rec_ with rungs :=
       [{ id := 1, rung := 3, p := rungP, owner := {}, accept := 0, highest := 3, units := [unitP 3, unitP 2] }] } }
     portTaken s 0 = true ∧ (findUnit s fun u => decide (u.rung = 3 ∧ u.core = 0 ∧ u.phase ≠ .fence)).isSome = true ∧
     (findUnit s fun u => decide (u.rung = 2 ∧ u.core = 0 ∧ u.eng = 0)).isSome = true) ∧ engPresent idleCore 0 = true ∧ (engOf idleCore 0).rstN = true ∧
    findUnit (coreOn inReset) (fun u => decide (u.rung = 2 ∧ u.core = 0 ∧ u.eng = 0)) = none ∧
    (engOf inReset 7).rstN = false := by decide +kernel

theorem witness_CoreAcknowledgementsComplete_deadlines :
    (let late := fun (s : State) (k : Core) => (k.fenceDue.map fun d => decide (d ≤ hubGt s)).getD false
     let waits := fun (s : State) => s.rec_.fences.any fun w => decide (0 ∈ w.waiting ∧ w.due ≤ hubGt s)
     let dueNow := { fencing with fenceDue := some 0 }
     let r3 : Rung := { id := 1, rung := 3, p := rungP, owner := {}, accept := 0, highest := 3, units := [{ unitP 3 with phase := .fence }] }
     let r4 := { r3 with p := { rungP with escalate := true, maxRung := 4 } }
     let with_ := fun (k : Core) (l : List Rung) => { coreOn k with rec_ := { on.rec_ with rungs := l } }
     let find := fun (s : State) =>
       findUnit s fun u => decide (u.rung = 3 ∧ u.core = 0 ∧ u.phase = .fence ∧ u.due ≤ 0)
     (late (coreOn fencing) fencing || waits (coreOn fencing)) = false ∧
     serving (coreOn dueNow) = true ∧ late (coreOn dueNow) dueNow = true ∧
     find (fenceSettled 0 true (modCore 0 (fun x => { x with fenceDue := none }) (coreOn dueNow))) = none ∧
     (find (with_ fencing [r3])).isSome = true ∧ mayReach r3 4 = false ∧ mayReach r4 4 = true ∧
     partAdvFull (with_ fencing [r4]) 0 = false ∧
     partAdvFull (with_ { fencing with advances := List.replicate 255 0 } [r4]) 0 = true) := by decide +kernel

def aProg : ProgOpen := { entry0 := { word := 0, count := 0, stamp := 0 }, ctx := 0, secret := false, stamp := 0, first := 0 }
def stalled (logged : Bool) : Core :=
  { idleCore with engs := List.replicate 8 { lRep := 2, stallLogged := logged, prog := some aProg } }
def lateLeaf : Leaf := { interp := { inc := 0x28000, beats := 2, beat := 4096, local0 := 4096 } }
def lateOn (k : Core) : State := { coreOn k with leaves := [(0, lateLeaf)] }
def linkCore : Core := { idleCore with upQ := [{ cc := 0, kind := .keepAlive }] }

def thresholdBlock : LeafBlock :=
  { words := (List.replicate 196 0).set 0 (pk [(60, 4, 3), (44, 16, 1), (27, 5, 22)]) }

theorem witness_LeafRowsComplete :
    coreOf (lateOn (stalled false)) 0 = some (stalled false) ∧ leafValid (lateOn (stalled false)) 0 = true ∧
    (engOf (stalled false) 0).lRep = 2 ∧ (engOf (stalled false) 0).stallLogged = false ∧
    (engOf (stalled false) 0).lReason + 256 ≤ leafGt (lateOn (stalled false)) 0 0 ∧
    (engOf (stalled true) 0).stallLogged = true ∧ leafGt on 0 0 < (engOf (stalled false) 0).lReason + 256 ∧
    (engOf (stalled false) 0).prog = some aProg ∧ (engOf idleCore 0).prog = none ∧
    aProg.first + 64 * 0x28000 / 65536 ≤ leafGt (lateOn (stalled false)) 0 0 ∧
    leafGt on 0 0 < aProg.first + 64 * 0x28000 / 65536 ∧
    serving on = true ∧ coreOf on 0 = some idleCore ∧ upTake idleCore = none ∧
    idleCore.clockStopped = false ∧ idleCore.quietStamp = none ∧
    coreOf (coreOn linkCore) 0 = some linkCore ∧ upTake linkCore ≠ none ∧ leafValid (coreOn linkCore) 0 = true ∧
    leafValid { on with leaves := [] } 0 = false ∧ serving { on with leaves := [] } = true ∧
    linkSilent on 0 0 idleCore = false ∧ linkSilent (lateOn idleCore) 0 0 idleCore = true ∧
    synthInflight (lateOn idleCore) 0 idleCore = none ∧
    synthInflight (lateOn idleCore) 0 { idleCore with gateNotice := some 3 } = some 3 ∧
    (let l : Leaf := { goodLeaf with trig := { block := thresholdBlock, newest := thresholdBlock } }
     let s : State := { on with leaves := [(0, l)] }
     portTaken s 0 = true ∧ shown s = some idleCore ∧ engPresent idleCore 0 = true ∧
     cmpCounter (newestBlock (rowState 0 0 s) 0) 0 0 0 = true ∧ slotReached (newestBlock (rowState 0 0 s) 0) 0 idleCore 0 = true ∧
     (engOf idleCore 0).crossed.getLsbD 0 = false ∧ cmpCounter (newestBlock (rowState 0 0 s) 0) 1 0 0 = false) ∧
    on.accounts = [] ∧
    (let s : State := { someCtx with accounts := [{ ctx := 5, cycles := 3, ended := some 1 }, { ctx := 9, cycles := 1 }] }
     serving s = true ∧ tget 5 s.ctxs = some {} ∧ ({} : Ctx).defined = true ∧ ctxDefined s 9 = false) := by
  decide +kernel

theorem witness_BeatAndReferenceRowsComplete :
    on.power ≠ .off ∧ on.time.adjust = 0 ∧ 0 < on.time.rate.toNat ∧ on.time.rate.toNat < 2 ^ 42 ∧
    on.time.acc.toNat + 2 ^ 43 < 2 ^ 96 ∧ (tget 0 on.leaves).isSome = true ∧
    ({ on.time with slew := -3 } : Time).slew ≠ 0 ∧ on.time.state ≠ .holdover ∧
    (let s : State := { on with time := { on.time with state := .holdover, calibrated := false } }
     s.power ≠ .off ∧ s.time.state = .holdover ∧ s.time.calibrated = false ∧ s.time.root = false) ∧
    (let s : State := { on with time := { on.time with state := .holdover, root := true } }
     s.power ≠ .off ∧ s.time.root = true ∧ s.time.calibrated = true) ∧
    ({ on with power := .off } : State).power = .off := by decide +kernel

theorem witness_InterpolatorsNeverFallBack :
    (let i : Interp := { inc := 0x28000, beats := 2 }
     interpAt i 4 < 1024 ∧ 10 ≤ interpAt i 4 ∧ 10 + (interpBeat 10 4 i).inc * 0 / 65536 ≤ interpAt i 4 ∧
     interpAt i 4 < 1024 + (interpBeat 1024 4 i).inc * 1 / 65536) := by decide +kernel

def armedCut (s : Core) (t : GT) : State :=
  { coreOn { s with claim := some 1 } with cuts := { on.cuts with active := [{ cut1 t with cores := [0], unarmed := [0], unheard := [0], leaves := [0] }] } }

def stopCore1 (q : List DownWord) (arm : Option (BitVec 32 × Bool × BitVec 32)) : Core :=
  { idleCore with claim := some 1, downQ := q, arm := arm, cc := 8 }

theorem witness_StopRowsAtTheCoreComplete :
    (activeCut (armedCut idleCore 5000) 1).isSome = true ∧ leafValid (armedCut idleCore 5000) 0 = true ∧
    leafGt (armedCut idleCore 5000) 0 0 + 256 < 5000 ∧ 256 ≤ leafGt (armedCut idleCore 256) 0 0 + 256 ∧
    leafGt (armedCut idleCore 256) 0 0 < 256 ∧ 0 ≤ leafGt (armedCut idleCore 0) 0 0 ∧
    ((activeCut (armedCut idleCore 256) 1).map fun x => (x.t, x.unarmed, x.unheard)) = some (256, [0], [0]) ∧
    excludedNow { fencing with claim := some 1 } = true ∧ excludedNow { idleCore with claim := some 1 } = false ∧
    ({ idleCore with clockStopped := true } : Core).clockStopped = true ∧ idleCore.clockStopped = false ∧
    tapLive on 0 = true ∧ ticked on = some idleCore ∧ idleCore.downQ = [] ∧ idleCore.arm = none ∧ idleCore.downRead = false ∧
    (let k := stopCore1 [.stopArm 9 true 1] none
     let s := { armedCut idleCore 256 with cores := [(0, k)] }
     ticked s = some k ∧ k.downQ.head? = some (.stopArm 9 true 1) ∧
     (activeCut (modCore 0 (fun x => { downPop x with downRead := true }) (tapAdvance 0 0 s)) 1).isSome = true ∧ tapLive s 0 = true ∧
     excludedNow k = false) ∧
    activeCut (modCore 0 (fun x => { downPop x with downRead := true }) (tapAdvance 0 0 (coreOn (stopCore1 [.stopArm 9 true 1] none)))) 1 = none ∧
    excludedNow { stopCore1 [.stopArm 8 true 1] none with st := .fenced } = true ∧
    ccReached (stopCore1 [] none).cc 9 = false ∧ ccReached (stopCore1 [] none).cc 8 = true ∧
    ticked (coreOn (stopCore1 [.restartArm 1] none)) = some (stopCore1 [.restartArm 1] none) ∧
    ticked (coreOn (stopCore1 [.sampleArm 9 0 0] none)) = some (stopCore1 [.sampleArm 9 0 0] none) ∧
    isArm .scan = false ∧
    (let k := stopCore1 [] (some (12, false, 1))
     let s := coreOn k
     let raises := fun (n : BitVec 32) hard => ccReached (k.cc + 4) n && !(hard && decide (0 ∈ scanGroup (tapAdvance 0 0 s))) && coreInService k
     ticked s = some k ∧ raises 12 false = true ∧ raises 13 false = false ∧ raises 12 true = false) := by decide +kernel

def cutWith (x : Cut) : State := { coreOn stoppedCore with cuts := { on.cuts with active := [x] } }
def aStep (bound : Nat) (engs : List (Nat × Nat × GT)) : StepRun :=
  { num := 1, form := .command, bound := bound, owner := {}, release := 0, engs := engs }

theorem witness_CutInstantsComplete :
    (let x := { cut1 0 with reports := [0], leaves := [0, 1] }
     activeCut (cutWith x) 1 = some x ∧ serving (cutWith x) = true ∧ 0 ∈ x.reports ∧ 1 ∉ x.reports ∧ x.leaves.filter (· ≠ 0) ≠ []) ∧
    (let x := { cut1 0 with reports := [0], leaves := [0] }
     activeCut (cutWith x) 1 = some x ∧ x.leaves.filter (· ≠ 0) = []) ∧
    (let x := { cut1 0 with watchdog := 0 }
     activeCut (cutWith x) 1 = some x ∧ x.t + x.watchdog ≤ hubGt (cutWith x) ∧ x.soft = []) ∧
    hubGt (cutWith (cut1 0)) < (cut1 0).t + (cut1 0).watchdog ∧
    (let x := { cut1 0 with system := true }
     keptCut (cutWith x) 1 = some x ∧ x.origin = true ∧ x.system = true ∧ x.complete = false ∧ basic (cutWith x) = false ∧
     hubGt (cutWith x) < x.t + x.watchdog + 4000000) ∧
    (let x := { cut1 0 with system := true, watchdog := 0 }
     let s := { cutWith x with time := { on.time with acc := BitVec.ofNat 96 (4000000 * 2 ^ 32) } }
     keptCut s 1 = some x ∧ x.t + x.watchdog + 4000000 ≤ hubGt s) := by decide +kernel

theorem witness_CutInstantsComplete_steps :
    (let x := { cut1 0 with step := some (aStep 5 []) }
     activeCut (cutWith x) 1 = some x ∧ hubGt (cutWith x) < (aStep 5 []).release + (aStep 5 []).bound ∧ (aStep 5 []).engs = []) ∧
    (aStep 0 []).release + (aStep 0 []).bound ≤ hubGt (cutWith (cut1 0)) ∧ (cut1 0).step = none ∧
    (let x := { cut1 0 with timeStep := some (2, 0, oneCluster, 5), resumes := [(0, oneCluster, 0, none)] }
     activeCut (cutWith x) 1 = some x ∧ hubGt (cutWith x) < 5 ∧ keptCut (cutWith x) 1 = some x ∧
     x.resumes.find? (fun q => decide (q.2.2.1 ≤ hubGt (cutWith x))) = some (0, oneCluster, 0, none)) ∧
    (let x := { cut1 0 with timeStep := some (2, 0, oneCluster, 0), resumes := [(0, oneCluster, 0, some {})] }
     activeCut (cutWith x) 1 = some x ∧ 0 ≤ hubGt (cutWith x) ∧ keptCut (cutWith x) 1 = some x ∧
     x.resumes.find? (fun q => decide (q.2.2.1 ≤ hubGt (cutWith x))) = some (0, oneCluster, 0, some {})) ∧
    (let x := { cut1 0 with resumes := [(0, oneCluster, 9, none)] }
     keptCut (cutWith x) 1 = some x ∧ (x.resumes.all fun q => decide (hubGt (cutWith x) < q.2.2.1)) = true) ∧ (cut1 0).resumes = [] := by
  decide +kernel

def rindOn (l : RindLink) (cuts : List Cut) : State :=
  { on with rind := { on.rind with links := on.rind.links.set 0 l }, cuts := { on.cuts with active := cuts } }

theorem witness_RindRowsComplete :
    on.ties.linkPresent.getLsbD 0 = true ∧ serving on = true ∧ 0 < on.rind.links.length ∧
    ((rindOn { closed := true } []).rind.links.getD 0 {}).closed = true ∧
    (let l := (rindOn { closed := false, held := true } []).rind.links.getD 0 {}
     l.closed = false ∧ l.held = true) ∧
    (let l := (rindOn { closed := false } [cut1 5000]).rind.links.getD 0 {}
     l.closed = false ∧ l.held = false) ∧
    (true && !on.ties.linkUntagged.getLsbD 0 && (rindCuts (rindOn { closed := false } [cut1 5000])).any fun x =>
      !tpValid (rindOn { closed := false } [cut1 5000]) 0 || postTag 0 x.t 0) = true ∧
    (true && !on.ties.linkNogen.getLsbD 0 && decide ((5 : BitVec 16) ≠ on.gens.chip ++ partGen on 7)) = true ∧
    on.ties.linkPresent.getLsbD 15 = false := by decide +kernel

def pailOn (ps : PailSet) : State := { on with pail := { on.pail with sets := on.pail.sets.set 0 ps } }
def aPailRec : PailRec := { set := 0, k := 0, core := 0, gen := 0, skew := 0, absent := true }
def openSample (at_ : GT) : OpenSample := { k := 0, instant := at_, offset := 0, expected := 1 }

theorem witness_PailRowsComplete_hub :
    (pailSet on 0).cfg = none ∧ serving (pailOn { cfg := some (pailP true) }) = true ∧ serving State.reset = false ∧
    (pailSet (pailOn { cfg := some (pailP true) }) 0).cfg = some (pailP true) ∧
    hubGt on < sampleInstant { cfg := some (pailP true), nextK := 1 } (pailP true) ∧
    sampleInstant (pailSet (pailOn { cfg := some (pailP true) }) 0) (pailP true) ≤ hubGt on ∧
    (let b := pailClose 0 (pailOn { cfg := some (pailP true), fault := some 1 })
     (pailSet b 0).cfg = some (pailP true) ∧ (pailSet b 0).fault.isSome = true) ∧
    (let b := pailClose 0 (pailOn { cfg := some (pailP true), next := some (pailP false, 0, true, 0) })
     (pailSet b 0).fault = none ∧ (pailSet b 0).next.isSome = true) ∧
    (let p := { pailP true with ringLog2 := 20 }
     let b := pailClose 0 (pailOn { cfg := some p, write := 4096 })
     (pailSet b 0).fault = none ∧ (pailSet b 0).next = none ∧
     largestSample (readMetered b) p ≤ freeBytes (pailSet b 0) p (4096 : Word).toNat ∧
     freeBytes (pailSet b 0) p (4160 : Word).toNat < largestSample (readMetered b) p) ∧
    on.pail.flight.find? (recordDue on 0) = none ∧
    (let s := { pailOn { cfg := some (pailP true), nextK := 1, sample := some (openSample 0) } with
       pail := { on.pail with
         sets := on.pail.sets.set 0 { cfg := some (pailP true), nextK := 1, sample := some (openSample 0) }, flight := [aPailRec] } }
     s.pail.flight.find? (recordDue s 0) = some aPailRec ∧ aPailRec.absent = true ∧ (pailSet s 0).cfg = some (pailP true) ∧
     (pailSet s 0).sample = some (openSample 0) ∧ coreOf s aPailRec.core = some idleCore ∧ (openSample 0).k = aPailRec.k) ∧
    (let s := { on with pail := { on.pail with flight := [aPailRec] } }
     s.pail.flight.find? (recordDue s 0) = some aPailRec ∧ (pailSet s 0).cfg = none) ∧
    serving on = true ∧ basic on = false := by decide +kernel

theorem witness_PailRowsComplete_leaf :
    (let s := pailOn { cfg := some (pailP true), nextK := 1 }
     (armsCore s 0 0).isSome = true ∧ leafValid s 0 = true ∧ coreOf s 0 = some idleCore ∧ coreAway idleCore = false ∧
     ((armsCore s 0 0).map fun q => decide (leafGt s 0 0 + 256 < q.2.2)) = some true) ∧
    (let s := pailOn { cfg := some { pailP true with phase := 100 } }
     ((armsCore s 0 0).map fun q => decide (q.2.2 ≤ leafGt s 0 0 + 256)) = some true ∧
     ((armsCore s 0 0).map fun q => decide (leafGt s 0 0 < q.2.2)) = some true) ∧
    armsCore on 0 0 = none ∧ leafValid { on with leaves := [] } 0 = false ∧
    (let away := { idleCore with clockStopped := true }
     let armed := { away with downQ := [.sampleArm 9 0 4], pailArmed := [100, 0, 0, 0] }
     coreAway away = true ∧ unspentArm 0 away = none ∧ unspentArm 0 armed = some 4 ∧ coreOf (coreOn armed) 0 = some armed ∧
     leafGt (coreOn armed) 0 0 < armed.pailArmed.getD 0 0 ∧ away.pailArmed.getD 0 0 ≤ leafGt (coreOn away) 0 0) ∧
    tapLive on 0 = true ∧ ticked on = some idleCore ∧ idleCore.sampleArms.find? (fun q => ccReached idleCore.cc q.1) = none ∧
    (let k : Core := { idleCore with sampleArms := [(0, 0, 0, false)] }
     ticked (coreOn k) = some k ∧ k.sampleArms.find? (fun q => ccReached k.cc q.1) = some (0, 0, 0, false)) := by decide +kernel

def asking (hard : Bool) : State :=
  { on with triggers := { on.triggers with
    stops := [{ cluster := 0, seq := 0, state := 0, value := 0, stamp := 0, scope := 0, hard := hard, t := 9, owner := none, mailbox := true }]
    raises := [(7, 0, none)], deliveries := [(0, 0, 0, 0)] } }

theorem witness_TraceTransportAndTriggerRowsComplete :
    serving on = true ∧
    ((List.range 64).map fun k => (on.trace.milkNext.getD 0 0 + k) % 64).find?
      (fun cl => ((tget cl on.leaves).map fun l => !l.stream.out.isEmpty).getD false) = none ∧
    (let s : State := { on with leaves := [(0, { goodLeaf with stream := { goodLeaf.stream with out := [[1]] } })] }
     ((List.range 64).map fun k => (s.trace.milkNext.getD 0 0 + k) % 64).find?
       (fun cl => ((tget cl s.leaves).map fun l => !l.stream.out.isEmpty).getD false) = some 0) ∧
    on.trace.hubQ = [] ∧ ({ on.trace with hubQ := [(0, [1])] } : Trace).hubQ = [(0, [1])] ∧
    (let s : State := { on with trace := { on.trace with enabled := true, cfg := some { traceP true with sink := 2 } } }
     (serving s && sessionRuns s && decide (sinkOf s = 2) && readFits s) = true) ∧ sessionRuns on = false ∧ on.triggers.stops = [] ∧
    (let s := asking true
     serving s = true ∧ basic s = false ∧ levelRank .invasive ≤ levelRank s.protect.debug ∧
     (∃ x, s.triggers.stops = [x] ∧ x.hard = true ∧ x.mailbox = true ∧
       claimed s (stopSet s x).1 (stopSet s x).2 = false ∧ systemBusy s (namesOther s (stopSet s x).1 (stopSet s x).2) = false) ∧
     s.cuts.active.length < 16 ∧ 7 < s.triggers.channels.length ∧ (s.triggers.channels.getD 7 {}).last = none ∧
     (s.triggers.channels.getD 7 {}).chips = false ∧
     s.triggers.deliveries.find? (fun d => decide (d.1 = 0)) = some (0, 0, 0, 0) ∧ leafValid s 0 = true) ∧
    levelRank DebugLevel.observe < levelRank DebugLevel.invasive ∧
    leafValid { on with leaves := [] } 0 = false := by
  refine ⟨?_, ?_, ?_, ?_, ?_, ?_, ?_, ?_, ⟨?_, ?_, ?_, ⟨_, rfl, ?_, ?_, ?_, ?_⟩, ?_, ?_, ?_, ?_, ?_, ?_⟩, ?_, ?_⟩ <;> decide +kernel

def aReq (wr : Bool) : HmReq := { purpose := .nobody, cls := .trace, wr := wr, addr := 0, bytes := 64 }
def hmOn (wr : Bool) (issued : GT) : State := { on with hm := { on.hm with out := [{ aReq wr with issued := issued }] } }

def dueSection : Section := { type := 0x51, phase := 2, size := 64, core := 0 }
def creditOn (k : Core) (credits : Nat) : State :=
  { on with
    cores := [(0, k)]
    dumps := { on.dumps with list := [{ aDump .active with sections := [dueSection] }], credits := List.replicate 8 credits } }

theorem witness_HostMemoryAndDumpRowsComplete :
    serving (hmOn true 0) = true ∧ hmFind (hmOn true 0) 0 true = some (aReq true) ∧ hmFind (hmOn false 0) 0 false = some (aReq false) ∧
    (aReq true).phys = false ∧ ({ aReq true with phys := true } : HmReq).phys = true ∧
    hmFind on 0xFFFF true = none ∧ hmFind on 0xFFFF false = none ∧
    (hmOn true 0).hm.out.find? (fun r => r.tag == 0) = some (aReq true) ∧ 0 + 4000000 ≤ hubGt (later 4000000 (hmOn true 0)) ∧
    hubGt (hmOn true 0) < 0 + 4000000 ∧ (later 4000 on).hm.window < hubGt (later 4000 on) / 4000 ∧ hubGt on / 4000 ≤ on.hm.window ∧
    firstTurn (pumpDumps on) 0 (creditTurns (pumpDumps on) 0) = none ∧
    (coreOf on 0).isSome = true ∧ idleCore.scan = none ∧ idleCore.scanRun = none ∧
    ({ idleCore with scan := some (1, 0, 0), scanRun := some 0 } : Core).scan ≠ none ∧
    ({ idleCore with scan := some (1, 0, 0), scanRun := some 0 } : Core).scanRun ≠ none ∧ serving State.reset = false := by
  decide +kernel

theorem witness_HostMemoryAndDumpRowsComplete_credit :
    (let s := creditOn { idleCore with st := .hardStopped } 16
     let b := pumpDumps s
     serving s = true ∧ (firstTurn b 0 (creditTurns b 0)).isSome = true ∧ (dumpOf b 1).isSome = true ∧
     ((firstTurn b 0 (creditTurns b 0)).bind fun q => omitCause b q.2.2 { idleCore with st := .hardStopped }) = none ∧
     b.dumps.credits.getD 0 0 ≠ 0) ∧
    (let b := pumpDumps (creditOn { idleCore with st := .hardStopped } 0)
     (firstTurn b 0 (creditTurns b 0)).isSome = true ∧ b.dumps.credits.getD 0 0 = 0) ∧
    (let b := pumpDumps (creditOn idleCore 16)
     ((firstTurn b 0 (creditTurns b 0)).bind fun q => omitCause b q.2.2 idleCore) = some 3) := by decide +kernel

def anErr (src : Nat) : ErrRec := { w0 := 0, w1 := pk [(60, 4, src)], w2 := 0, w3 := 0 }
def errOn (n wins : Nat) (storm : Bool) : State :=
  { on with errors := { on.errors with flight := [anErr 4], queue := List.replicate n (anErr 4), winRecords := wins, storm := storm } }

theorem witness_ErrorRowsComplete :
    on.errors.flight = [] ∧ serving (errOn 0 0 false) = true ∧ (errOn 3070 1023 false).errors.queue.length < 3071 ∧
    4096 ≤ (errOn 4096 0 false).errors.queue.length ∧ (errOn 4095 0 true).errors.queue.length < 4096 ∧
    (errOn 3071 0 false).errors.storm = false ∧ 1024 ≤ (errOn 0 1024 false).errors.winRecords ∧
    3071 ≤ (errOn 3071 0 false).errors.queue.length ∧ on.errors.queue = [] ∧ bits (anErr 4).w1 63 60 ≠ 10 ∧
    bits (anErr 10).w1 63 60 = 10 ∧ on.autofence.slots.getD (bits (anErr 10).w2 63 56) none = none ∧
    (let l : Leaf := { lateLeaf with err := { start := some 96 } }
     let s : State := { on with leaves := [(0, l)] }
     tget 0 s.leaves = some l ∧ leafValid s 0 = true ∧ 96 + 4000 ≤ leafGt s 0 0) ∧
    leafGt on 0 0 < 96 + 4000 ∧ on.errors.storm = false ∧ (errOn 0 0 true).errors.storm = true ∧
    (tget 0 (errOn 0 0 true).leaves).isSome = true ∧ goodLeaf.err.storm = false ∧
    ((logRecord (anErr 10) { on with autofence := { on.autofence with slots := on.autofence.slots.set 0 (some slotP) } }).autofence.slots.getD
      (bits (anErr 10).w2 63 56) none) = some slotP ∧
    hubGt on / 40000 * 40000 ≤ on.errors.winStart ∧
    (later 40000 on).errors.winStart < hubGt (later 40000 on) / 40000 * 40000 ∧ serving (later 40000 on) = true := by decide +kernel

def anEdge : WaitEdge := { chan := 0, full := false, ctx := 0, layer := 0, gen := 0, since := 0, serial := 1 }
def edgeCore (e : Option WaitEdge) : Core :=
  { idleCore with engs := List.replicate 8 { lRep := 2, lStall := 2, edge := e, cur := some someTags, lCur := some someTags } }
def walkOn (ms : List EdgeMsg) (edges : Tab WaitEdge) : State := { on with hang := { on.hang with flight := ms, edges := edges } }
def aKnot (due : GT) : Knot := { id := 1, cycle := [], listed := [], abort := some (0, due) }

theorem witness_HangDetectionRowsComplete :
    coreOf (coreOn (edgeCore none)) 0 = some (edgeCore none) ∧ edgesAllowed (edgeCore none) = true ∧
    (engOf (edgeCore none) 0).st ≠ .resetting ∧ chanStall (engOf (edgeCore none) 0) = true ∧
    leafValid (coreOn (edgeCore none)) 0 = true ∧ leafGt (coreOn (edgeCore none)) 0 0 < on.hang.blockGt ∧
    (let s : State := { lateOn (edgeCore none) with hang := { on.hang with blockGt := 4000 } }
     max (engOf (edgeCore none) 0).lSince (engOf (edgeCore none) 0).blockFrom + s.hang.blockGt ≤ leafGt s 0 0 ∧ leafValid s 0 = true) ∧
    (engOf (edgeCore (some anEdge)) 0).edge ≠ none ∧ on.hang.flight = [] ∧ serving (walkOn [.edge 0 0 anEdge] []) = true ∧
    anEdge.gen = engGen on 0 0 ∧ ({ anEdge with gen := 1 } : WaitEdge).gen ≠ engGen on 0 0 ∧
    (0 : BitVec 8) = engGen (walkOn [.withdraw 0 0 0 1] []) 0 0 ∧ tget 0 (walkOn [] []).hang.edges = none ∧
    tget 0 (walkOn [] [(0, anEdge)]).hang.edges = some anEdge ∧ anEdge.serial = 1 ∧ anEdge.serial ≠ 2 ∧
    serving State.reset = false ∧ hubGt on / on.hang.period * on.hang.period ≤ on.hang.lastSweep ∧
    (∀ kn, let s := later 4000000 { on with hang := { on.hang with knots := kn } }
     let g := hubGt s / s.hang.period * s.hang.period
     let b := progressSweep g { s with hang := { s.hang with lastSweep := g } }
     serving s = true ∧ basic s = false ∧ s.hang.fallback = false ∧ s.hang.lastSweep < g ∧ b.hang.fallback = false ∧
     basic b = false ∧ b.hang.knots = kn) ∧
    (let s := later 4000000 { on with hang := { on.hang with fallback := true } }
     let g := hubGt s / s.hang.period * s.hang.period
     let b := progressSweep g { s with hang := { s.hang with lastSweep := g } }
     basic b = false ∧ b.hang.fallback = true ∧ b.hang.resend = none ∧ b.hang.edges.length ≤ 24576) ∧
    (let s : State := { on with hang := { on.hang with standing := [aKnot 5] } }
     (s.hang.standing.find? (fun k => k.id == 1)) = some (aKnot 5) ∧ (aKnot 5).abort = some (0, 5) ∧
     (s.hang.standing.find? (fun k => k.id == 2)).bind (·.abort) = none) ∧
    ([0] : List Nat).filter (· ≠ (0 : ClusterIx).toNat) = [] ∧ ([0, 1] : List Nat).filter (· ≠ (0 : ClusterIx).toNat) ≠ [] ∧
    on.hang.resend = none ∧ ({ on.hang with resend := some [0] } : Hang).resend = some [(0 : ClusterIx).toNat] ∧
    hubGt on < 5 ∧ 0 ≤ hubGt on := by decide +kernel
/-! ## Witnesses of the fabric's rows -/

def portOn (q : IzPort) : State := { on with iz := { on.iz with ports := List.replicate 6 q } }
def livePort : IzPort := { mode := 1, phy := true, st := .live, level := 3, agreed := 3 }
def aFlit : LinkFlit := { linkFlitOf on 0 with checkOk := false }

theorem witness_IazanPortRowsComplete :
    serving (portOn { mode := 1 }) = true ∧ (5 : BitVec 3).toNat < 6 ∧ (portOf (portOn { mode := 1 }) 5).phy = false ∧
    portUsable (modPort 5 (fun q => { q with phy := true }) (portOn { mode := 1 })) 5 = true ∧
    portUsable (modPort 5 (fun q => { q with phy := true }) (portOn {})) 5 = false ∧
    (portOf (portOn { mode := 1, phy := true }) 5).phy = true ∧ 5 < (portOn livePort).iz.ports.length ∧
    (portOf (portOn { mode := 1, phy := true }) 5).st = .down ∧ (portOf (portOn livePort) 5).st = .live ∧
    (portOf (portOn livePort) 5).lastFlit + 40000 ≤ hubGt (later 40000 (portOn livePort)) ∧
    hubGt (portOn livePort) < (portOf (portOn livePort) 5).lastFlit + 40000 ∧
    ((List.replicate 15 (0 : GT)).filter fun g => decide (hubGt on < g + 4000000)).length < 16 ∧
    16 ≤ ((List.replicate 16 (0 : GT)).filter fun g => decide (hubGt on < g + 4000000)).length ∧
    (portOf (portOn { livePort with st := .fenced }) 5).st = .fenced ∧
    0 + 4000000000 ≤ hubGt (later 4000000000 on) ∧ hubGt on < 0 + 4000000000 ∧ aFlit.checkOk = false ∧
    ({ aFlit with checkOk := true } : LinkFlit).checkOk = true ∧
    (portOf (portOn { livePort with st := .training }) 5).st = .training ∧
    ({ aFlit with avoid := false } : LinkFlit).avoid = (portOf (portOn { livePort with st := .training }) 5).navoid := by decide +kernel

/-- A frame of type `t` from chip 0x400 for this chip, received and not acted on. -/
def frameOf (t : BitVec 8) (payload : List Word) : Frame :=
  { mkFrame on 0 t 0x400 0 payload (8 * payload.length) with
    hdr := { (mkFrame on 0 t 0x400 0 payload 0).hdr with src := 0x400, principal := 1 } }

def inFrame (t : BitVec 8) (payload : List Word) : InFrame := { port := some 0, frame := frameOf t payload, arrive := 0 }

def frameOn (s : State) (t : BitVec 8) (payload : List Word) : State :=
  { s with iz := { s.iz with local_ := [inFrame t payload] } }

/-- The frame that a test takes, and the state without it. -/
def takes (p : Frame → Bool) (s : State) (t : BitVec 8) (payload : List Word) : Bool :=
  decide ((takeLocal p (frameOn s t payload)).map (·.1) = some (inFrame t payload)) &&
  decide ((takeLocal p (frameOn s t payload)).map (·.2) = some s)

def basicOn : State := { on with fw := {} }
def linkedTo (heard : GT) (seq : BitVec 16) : State :=
  { on with iz := { on.iz with links := [(0x400, { ports := [], avoid := false, seq := seq, heard := heard })] } }

theorem witness_IazanFramesAndLinkStateComplete :
    serving (portOn livePort) = true ∧ (portOf (portOn livePort) 5).st = .live ∧ (portOf on 5).st ≠ .live ∧
    (frameOf 0x30 []).len.toNat ≤ 3552 ∧ (0 : BitVec 32) ≠ frameCheck (frameOf 0x30 []) 0 ∧
    ({ livePort with rejecting := true } : IzPort).rejecting = true ∧ livePort.rejecting = false ∧
    knownType (frameOf 0x30 []).hdr.type = true ∧ (frameOf 0x30 []).hdr.hops.toNat < 192 ∧
    floodType (frameOf 0x30 []).hdr.type = false ∧ timeType (frameOf 0x30 []).hdr.type = false ∧
    (frameOf 0x30 []).hdr.dst = chipOf on ∧ (0x400 : BitVec 16) ≠ chipOf on ∧
    takes (fun f => decide (f.hdr.type = 0x11)) on 0x11 [0, 0, 0, pk [(0, 32, 0)]] = true ∧
    takes (fun f => decide (f.hdr.type = 0x11)) basicOn 0x11 [] = true ∧ basic on = false ∧ basic basicOn = true ∧
    namesHere on 0 0 = true ∧ namesHere on 0x10000 0xFFFF0000 = false ∧ takeLocal (fun f => decide (f.hdr.type = 0x11)) on = none ∧
    on.iz.lastLinkFlood + 400000000 ≤ hubGt (later 400000000 on) ∧ hubGt on < on.iz.lastLinkFlood + 400000000 ∧
    on.iz.avoid = false ∧ takes (fun f => decide (f.hdr.type = 0x12)) on 0x12 [0] = true ∧ tget 0x400 on.iz.links = none ∧
    (tget 0x400 (linkedTo 0 5).iz.links).isSome = true ∧
    ((tget 0x400 (linkedTo 0 5).iz.links).map (staleEntry (linkedTo 0 5))) = some false ∧
    2 ^ 15 ≤ ((0 : BitVec 16) - 5).toNat ∧ ((5 : BitVec 16) - 5).toNat < 2 ^ 15 ∧
    0 + 1200000000 ≤ hubGt (later 1200000000 (linkedTo 0 5)) ∧ hubGt (linkedTo 0 5) < 0 + 1200000000 := by decide +kernel

/-- A flood's payload: its operation, its cut and the set of one cluster. -/
def flood (op : Nat) (w3 : Word) : List Word := [pk [(56, 8, op), (0, 32, 1)], 0, pk [(32, 32, 0), (0, 32, oneCluster.toNat)], w3, 64, 2]

def isFlood (op : Nat) (f : Frame) : Bool := decide (f.hdr.type = 0x10) && decide (bits (f.payload.getD 0 0) 63 56 = op)

theorem witness_FloodRowsComplete :
    takeLocal (isFlood 0) on = none ∧ (∀ op ∈ [0, 1, 2, 3, 4], takes (isFlood op) on 0x10 (flood op 0) = true) ∧
    takes (isFlood 0) basicOn 0x10 (flood 0 0) = true ∧ basic basicOn = true ∧ basic on = false ∧
    floodId (inFrame 0x10 (flood 0 0)) = 1 ∧ keptCut on 1 = none ∧
    namesHere on (floodAddr (inFrame 0x10 (flood 0 0))) (floodMask (inFrame 0x10 (flood 0 0))) = true ∧
    takes (isFlood 1) (cutOn 0) 0x10 (flood 1 0) = true ∧ activeCut (cutOn 0) 1 = some (cut1 0) ∧ (keptCut (cutOn 0) 1).isSome = true ∧
    cutInForce (cutOn 0) (cut1 0) = true ∧ cutInForce (cutOn 9) (cut1 9) = false ∧
    resumeBusy (cutOn 0) (cut1 0) 0 oneCluster = false ∧ (cut1 0).step = none ∧ (cut1 0).timeStep = none ∧
    keptCut (cutOn 0) (fieldB 32 (wordOf (inFrame 0x10 (flood 3 0)) 5) 0) = none ∧ (cutOn 0).cuts.active.length < 16 := by decide +kernel

def isTagged (one : Bool) (f : Frame) : Bool :=
  decide (f.hdr.type = 0x30) && (if one then decide (bits (f.payload.getD 0 0) 1 0 = 1) else decide (bits (f.payload.getD 0 0) 1 0 ≠ 1))

def windowAt (o : Bool) : State :=
  { on with iz := { on.iz with windows := on.iz.windows.set 0 { isOpen := o, everOpened := o, size := 4096 } } }

def responded : State :=
  { on with iz := { on.iz with responses := [{ src := 0x400, tag := 0x400, frame := some (frameOf 0x31 []), at_ := 0 }] } }

def streaming : State :=
  { on with dumps := { on.dumps with streams :=
    [{ chip := 0x400, churn := 0, dump := 0, region := 0, offset := 0, size := 0, started := 0 }] } }

theorem witness_TaggedRequestsComplete :
    takeLocal (isTagged false) on = none ∧ takes (isTagged false) on 0x30 [0] = true ∧ takes (isTagged false) on 0x30 [2] = true ∧
    (respRecord responded (frameOf 0x30 [])).isSome = true ∧ respRecord on (frameOf 0x30 [0]) = none ∧
    takes (isTagged false) responded 0x30 [0] = true ∧ genRefused on (frameOf 0x30 [0]) = false ∧
    takes (isTagged true) on 0x30 [1] = true ∧ takes (isTagged true) basicOn 0x30 [1] = true ∧ basic basicOn = true ∧
    basic on = false ∧ (remoteWho on (frameOf 0x30 [1])).isSome = true ∧
    remoteWho on { frameOf 0x30 [1] with hdr := { (frameOf 0x30 [1]).hdr with principal := 0 } } = none ∧
    genRefused on { frameOf 0x30 [1] with hdr := { (frameOf 0x30 [1]).hdr with genchk := true, tgen := 1 } } = true ∧
    (windowOf on 0).everOpened = false ∧ takes (isTagged true) (windowAt true) 0x30 [1] = true ∧
    (windowOf (windowAt true) 0).everOpened = true ∧ (windowOf (windowAt true) 0).isOpen = true ∧
    (windowOf (windowAt true) 0).wgen = fieldB 8 (wordOf (inFrame 0x30 [1]) 1) 8 ∧
    inSet ((0x400 : BitVec 16) ++ (0 : BitVec 16)) 0 0 = true ∧ inSet ((0x400 : BitVec 16) ++ (0 : BitVec 16)) 0 0xFFFF0000 = false ∧
    (let w := [1, pk [(32, 32, 3528), (8, 8, 0)], 568]
     let x := inFrame 0x30 w
     takes (isTagged true) (windowAt true) 0x30 w = true ∧ respRecord (windowAt true) (frameOf 0x30 w) = none ∧
     bits (wordOf x 1) 63 32 = 3528 ∧ (wordOf x 2).toNat + 3528 ≤ (windowOf (windowAt true) 0).size.toNat ∧
     (remoteWho (windowAt true) (frameOf 0x30 w)).isSome = true ∧ genRefused (windowAt true) (frameOf 0x30 w) = false) ∧
    bits (wordOf (inFrame 0x30 [1]) 1) 63 32 = 0 ∧ (windowOf (windowAt true) 0).size.toNat < 569 + 3528 ∧ 568 + 3528 ≤ (windowOf (windowAt true) 0).size.toNat ∧
    takes (fun f => decide (f.hdr.type = 0x40)) on 0x40 [0] = true ∧ takes (fun f => decide (f.hdr.type = 0x40)) basicOn 0x40 [0] = true ∧
    takes (fun f => decide (f.hdr.type = 0x40)) streaming 0x40 [0] = true ∧
    bit (wordOf (inFrame 0x40 [0]) 0) 15 = false ∧ streamIn on 0x400 0 = none ∧ (streamIn streaming 0x400 0).isSome = true := by
  decide +kernel

def trackedFor (p : TrackFor) (deadline : GT) : State :=
  { on with iz := { on.iz with tracker := [(1, { use := 0, target := 0x400, purpose := p, deadline := deadline })] } }

def churning (deadline : GT) : State :=
  { on with dumps := { on.dumps with churns := [{ id := 1, owner := {}, deadline := deadline, region := 0, awaited := [0x400] }] } }

theorem witness_RemoteAnswersAndExpiriesComplete :
    takes (fun f => decide (f.hdr.type = 0x31)) on 0x31 [] = true ∧ trackHit on 0x400 = none ∧
    takes (fun f => decide (f.hdr.type = 0x31)) (trackedFor (.remote m0) 0) 0x31 [] = true ∧
    (trackHit (trackedFor (.remote m0) 0) 0x400).map (fun q => q.2.purpose) = some (.remote m0) ∧
    takes (fun f => decide (f.hdr.type = 0x41)) on 0x41 [] = true ∧
    takes (fun f => decide (f.hdr.type = 0x41)) (trackedFor (.stream 1 0 true) 0) 0x41 [] = true ∧
    (trackHit (trackedFor (.stream 1 0 true) 0) 0x400).map (fun q => q.2.purpose) = some (.stream 1 0 true) ∧
    (frameOf 0x41 []).hdr.result = rOk ∧ (0x31 : BitVec 8) ≠ rOk ∧
    takes (fun f => decide (f.hdr.type = 0x32)) on 0x32 [0] = true ∧ takes (fun f => decide (f.hdr.type = 0x33)) on 0x33 [0] = true ∧
    takes (fun f => decide (f.hdr.type = 0x33)) basicOn 0x33 [0] = true ∧ basic basicOn = true ∧ basic on = false ∧
    bits (wordOf (inFrame 0x33 [0]) 0) 7 0 = 0 ∧ bits (wordOf (inFrame 0x33 [1]) 0) 7 0 ≠ 0 ∧
    (on.dumps.churns.find? fun k => decide (0x400 ∈ k.awaited)) = none ∧ tget 1 on.iz.tracker = none ∧
    (tget 1 (trackedFor (.remote m0) 5).iz.tracker).isSome = true ∧ hubGt on < 5 ∧ 0 ≤ hubGt on ∧
    (on.dumps.churns.find? fun k => k.id == 1) = none ∧ ((churning 5).dumps.churns.find? fun k => k.id == 1).isSome = true ∧
    (on.iz.local_.find? fun x => decide (x.frame.hdr.type = 0x50)) = none ∧
    ((frameOn on 0x50 [0]).iz.local_.find? fun x => decide (x.frame.hdr.type = 0x50)) = some (inFrame 0x50 [0]) ∧
    serving (frameOn on 0x50 [0]) = true ∧ (frameOf 0x50 [0]).hdr.resp = false ∧ respRecord on (frameOf 0x50 [0]) = none ∧
    ({ (frameOf 0x50 [0]).hdr with resp := true } : FrameHdr).resp = true := by decide +kernel
/-! ## Well-formedness: an ill-formed term for each check -/

def badBytes : List Byte := List.replicate 5 0

theorem test_wellformed_leaf_block : wellFormed (.trigSetLoad m0 0 0 0 (List.replicate 197 0)) = false := by decide +kernel
theorem test_wellformed_chanmap_inline : wellFormed (.chanmapLoad m0 true 0 0 1 [0, 0]) = false := by decide +kernel
theorem test_wellformed_chanmap_memory : wellFormed (.chanmapLoad m0 false 0 0 1 [0]) = false := by decide +kernel
theorem test_wellformed_state_write : wellFormed (.stateWrite m0 0 0 0 1 0 false [0, 0]) = false := by decide +kernel
theorem test_wellformed_check_feed :
    wellFormed (.checkFeed m0 true 3 0 2 0 [1]) = false ∧ wellFormed (.checkFeed m0 true 1 0 2 0 [1, 2]) = false := by decide +kernel
theorem test_wellformed_remote_write : wellFormed (.remoteWrite m0 0 false 0 0 0 0 8 0 [0, 0]) = false := by decide +kernel
theorem test_wellformed_remote_cmd : wellFormed (.remoteCmd m0 0 false 2 false 0 0 (List.replicate 494 0)) = false := by decide +kernel
theorem test_wellformed_propose :
    wellFormed (.protectPropose m0 [] (List.replicate 96 0) (List.replicate 96 0) []) = false ∧
    wellFormed (.protectPropose m0 (desc 1 1 1) badBytes (List.replicate 96 0) []) = false ∧
    wellFormed (.protectPropose m0 (desc 1 1 1) (List.replicate 96 0) badBytes []) = false ∧
    wellFormed (.protectPropose m0 (desc 1 1 1) (List.replicate 96 0) (List.replicate 96 0) badBytes) = false := by decide +kernel
theorem test_wellformed_confirm : wellFormed (.protectConfirm m0 0 badBytes (List.replicate 96 0) []) = false := by decide +kernel
theorem test_wellformed_lifecycle : wellFormed (.lifecycleAdvance m0 [] (List.replicate 96 0) (List.replicate 96 0)) = false := by
  decide +kernel
theorem test_wellformed_fuse : wellFormed (.fuseWrite m0 1 badBytes) = false := by decide +kernel
theorem test_wellformed_ties : wellFormed (.obsResetRelease badTies) = false ∧ wellFormed (.obsPowerUp badTies) = false := by
  decide +kernel
theorem test_wellformed_ties_order : wellFormed (.obsPowerUp { goodTies with cores := [tie 1, tie 0] }) = false := by decide +kernel
theorem test_wellformed_scan_chunk : wellFormed (.scanPassComplete 0 (List.replicate 513 0)) = false := by decide +kernel
theorem test_wellformed_read_beat : wellFormed (.hostMemoryReadBeat 0 [0] true 0) = false := by decide +kernel
theorem test_wellformed_beat : wellFormed (.timeBeat [] 0 (List.replicate 16 0)) = false ∧ wellFormed (.timeBeat (List.replicate 8 0) 0 []) = false := by
  decide +kernel
theorem test_wellformed_frame :
    wellFormed (.iazanFrameReceive 0 false { frameOf 0x30 [] with len := 9 } 0 0) = false ∧
    wellFormed (.iazanFrameReceive 0 false (frameOf 0x30 (List.replicate 445 0)) 0 0) = false := by decide +kernel
theorem test_wellformed_response : wellFormed (.response badBytes) = false := by decide +kernel
theorem test_wellformed_slots :
    wellFormed (.aoPowerUp [[], [], []]) = false ∧ wellFormed (.aoPowerUp [[0]]) = false := by decide +kernel
theorem test_wellformed_tray : wellFormed (.trayStatusPoll badBytes true) = false := by decide +kernel
theorem test_wellformed_good : wellFormed (.obsPowerUp goodTies) = true ∧ wellFormed (.mailboxPoll) = true := by decide +kernel

/-! ## Single steps -/

def after (c : Instr) (s : State) : State :=
  match exec c s with
  | .next t => t
  | _ => s

def digits : List Byte := [0x31, 0x32, 0x33, 0x34, 0x35, 0x36, 0x37, 0x38, 0x39]

/-- The check values R325 and R326 print. -/
theorem test_crc64_of_digits : crc64 0 digits = 0x6C40DF5F0B497347 := by decide +kernel
theorem test_crc32c_of_digits : crc32c 0 digits = 0xE3069283 := by decide +kernel

/-- The same through check unit 1: RUN 0 under CRC-64, nine bytes fed, RESULT read (R331, R332). -/
theorem test_check_unit_bytes :
    let s : State := { on with check := { on.check with host := true, owner := true, crc64 := true } }
    let fed := digits.foldl (fun s b => after (.ckFeedB (b.setWidth 64) 0xFF) s) (after (.ckRun 0 0xFF) s)
    (after (.ckResultRead true) fed).hr.rdata = 0x6C40DF5F0B497347 := by decide +kernel

/-- R44: an edge of the reference clock adds 40 GT at the reset increment. -/
theorem test_idle_edge_adds_forty :
    ((match step on with | .next t => hubGt t | _ => 0)) = 40 := by decide +kernel
theorem test_rate_above_range : (after (.timeRateWrite 0x28020C49BB 0xFF) on).time.rateErr = true ∧
    (after (.timeRateWrite 0x28020C49BB 0xFF) on).time.rate = 0x2800000000 := by decide +kernel

/-- Table 18.7: IDCODE with the integrator's manufacturer field zero. -/
theorem test_idcode : (after .idcode on).narrow.drCapture = [0x17404001] := by decide +kernel

/-- Table 04.4, cycle 1004: A ends as B begins, and the EDGE values are A's 3 / 1. -/
theorem test_table_04_4_edge :
    let s := coreOn { idleCore with engs := List.replicate 8 { cur := some someTags, rep := 1, cmdBusy := 2, cmdStall := 1 } }
    ((coreOf (after (.tsCmdBegin 0 2 1 5 0 0 9 1 0 0 (some 0)) s) 0).map fun k => ((engOf k 2).prevBusy, (engOf k 2).prevStall)) =
      some (3, 1) := by decide +kernel

/-- Table 04.4, cycles 1006 to 1008: a sample in the cycle of B's end reads 1 / 1, the next one 2 / 1, and only the one after
that says ENDED. -/
theorem test_table_04_4_end :
    let s := coreOn { idleCore with engs := List.replicate 8 { cur := some someTags, rep := 1, cmdBusy := 1, cmdStall := 1 } }
    let read := fun n => ((coreOf (tapAdvance 0 n (after (.tsCmdEnd 0 2 0 0) s)) 0).map fun k =>
      let w := commandWords k.cc (engOf k 2)
      (bits (w.getD 0 0) 47 0, bits (w.getD 1 0) 47 0, bits (w.getD 1 0) 50 48))
    (read 0, read 1, read 2) = (some (1, 1, 0), some (2, 1, 0), some (2, 1, 2)) := by decide +kernel

/-- R96: an end with no command in flight counts one violation. -/
theorem test_end_without_command : ((coreOf (after (.tsCmdEnd 0 0 1 0) on) 0).map (·.violations)) = some 1 := by decide +kernel

/-- Table 19.1 and R563: a gated partition makes the chip PARTIAL, and the ungated chip is ON again. -/
theorem test_gating : (after (.partGatedChange 7 true) on).power = .partialOn ∧
    (after (.partGatedChange 7 false) (after (.partGatedChange 7 true) on)).power = .on := by decide +kernel

/-- R17: a core with its defect tie-off begins FENCED; R565: `pf_shed` is low after power-up. -/
theorem test_power_up_defect :
    let s := after (.obsPowerUp { goodTies with cores := [{ tie 0 with defect := true }, tie 1] }) State.reset
    ((coreOf s 0).map (·.st), (coreOf s 1).map (·.st), s.pw.shed) = (some .fenced, some .active, false) := by decide +kernel

/-- Before power-up the hub serves no command. -/
theorem test_reset_serves_nothing : after (.capsSummary m0) State.reset = State.reset := by decide +kernel

/-- R401: FENCE raises `ts_fence` of the named core; R403: UNFENCE of an ACTIVE core is no error of the fence. -/
theorem test_fence : ((coreOf (after (.fence m0 0 oneCluster) on) 0).map fun k => (k.st, k.fence)) = some (.fenced, true) := by
  decide +kernel

/-- R243: the first cut of the chip takes number 1 in its CUT_ID and is armed for its set. -/
theorem test_stop_at_arms : ((after (.stopAtArm m0 0 oneCluster true true 0 0) on).cuts.active.map fun x => (x.id, x.hard, x.cores)) =
    [(1, true, [0])] := by decide +kernel

/-- R246: the default lead on chip is 1,000 GT. -/
theorem test_stop_at_default_lead : ((after (.stopAtArm m0 0 oneCluster true true 0 0) on).cuts.active.map (·.t)) = [1000] := by
  decide +kernel

/-- R497: a retired context keeps its counters. -/
theorem test_ctx_retire :
    let s : State := { on with ctxs := [(5, { busy := 7 })] }
    (after (.ctxRetire m0 5 1) s).ctxs = [(5, { busy := 7, defined := false })] := by decide +kernel

/-- R514: a Tenant's mailbox may not define contexts. -/
theorem test_tenant_denied :
    let s : State := { on with protect := { on.protect with bindings := on.protect.bindings.set 3 (some (.tenant 2)) } }
    (after (.ctxDefine (.mailbox 3) 0 1 0) s).ctxs = [] := by decide +kernel

/-- R410, R411: a packet at a closed link is dropped and counted. -/
theorem test_closed_link_drops :
    ((after (.rindPacket 0 false 0 false 0 0 0) on).rind.links.getD 0 {}) = { closed := true, verdict := 2, closedDrop := 1 } := by
  decide +kernel

/-- R412: REOPEN opens the present links 1,000 GT after its acceptance. -/
theorem test_reopen_instant : (after (.reopen m0 0 0) on).rec_.opens = [(1000, 1)] := by decide +kernel

/-- R607: IRQ_TEST sets its lines and IRQ_STATUS clears those written with one. -/
theorem test_irq : (after (.irqTest 0xF 0xFF) on).events.line = 0xF ∧
    (after (.irqStatusClear 0x5 0xFF) (after (.irqTest 0xF 0xFF) on)).events.line = 0xA := by decide +kernel

/-- R585: a SEAL word takes whole writes only. -/
theorem test_seal_write : (after (.registerWrite 0x2000 1 0x7F) on).mb.mem = [] ∧
    (after (.registerWrite 0x2000 1 0xFF) on).mb.mem = [(0, 1)] := by decide +kernel

/-- R501: with 1,024 events queued a new one is dropped and counted. -/
theorem test_event_queue_full :
    let s : State := { on with events := { on.events with enabled := true, queue := List.replicate 1024 anEvent } }
    (queueEvent anEvent s).events.dropped = 1 ∧ (queueEvent anEvent s).events.queue.length = 1024 := by decide +kernel

/-- R444: a link that has been silent for 40,000 GT goes DOWN. -/
theorem test_link_timeout : (portOf (after (.linkFlitTimeout 5) (later 40000 (portOn livePort))) 5).st = .down ∧
    (portOf (after (.linkFlitTimeout 5) (later 39999 (portOn livePort))) 5).st = .live := by decide +kernel

/-- R613: 0xFFFF is followed by 1. -/
theorem test_sequence_wraps : nextSeq 0xFFFF = 1 ∧ nextSeq 1 = 2 := by decide

/-- Memory reads back a byte written, and writing zero removes it. -/
theorem test_memory : memRead 9 (memWrite 9 7 [(3, 1)]) = 7 ∧ memWrite 3 0 [(3, 1)] = [] := by decide

end Sys2Proof.Machine.Tests
end

/-! # Register writes at the host port (R10, R45, R503, R585, R607) -/
section
namespace Sys2Proof.Machine

/-! ## What an access outside the mailboxes comes to -/

section Access
variable {s : State} (act : State → State)

/-- R585: a serving hub answers a write of every byte and takes it. -/
theorem hrWrite_whole (hs : serving s = true) : hrWrite 0xFF act s = act (hrDone 0 s) := by
  simp [hrWrite, hs]

theorem hrWrite_of_not_serving (strb : BitVec 8) (hs : serving s = false) : hrWrite strb act s = s := by
  simp [hrWrite, hs]

end Access

/-! ## The rows as writes of their registers -/

section Rows
variable (w : Word) (strb : BitVec 8) (s : State)

theorem exec_timeRateWrite_eq : exec (.timeRateWrite w strb) s = .next (hrWrite strb (writeRate w) s) := rfl

theorem exec_rateErrClear_eq : exec (.rateErrClear w strb) s = .next (hrWrite strb (clearRateErr w) s) := rfl

theorem exec_irqStatusClear_eq : exec (.irqStatusClear w strb) s = .next (hrWrite strb (clearIrq w) s) := rfl

theorem exec_irqTest_eq : exec (.irqTest w strb) s = .next (hrWrite strb (setIrq w) s) := rfl

/-- R583: `hr_addr` outside the mailbox pages names a register by its byte offset. -/
theorem exec_registerWrite_of_register {a : BitVec 17} (ha : a.toNat < 0x2000 ∨ 0x4000 ≤ a.toNat) :
    exec (.registerWrite a w strb) s = .next (hrWrite strb (writeRegister (8 * a.toNat) w) s) := by
  have hout : ¬ (0x10000 ≤ 8 * a.toNat ∧ 8 * a.toNat < 0x20000) := by omega
  exact congrArg Host.Outcome.next (if_neg hout)

theorem exec_registerWrite_of_not_serving (a : BitVec 17) (hs : serving s = false) :
    exec (.registerWrite a w strb) s = .next s := by
  change Host.Outcome.next (if 0x10000 ≤ 8 * a.toNat ∧ 8 * a.toNat < 0x20000 then _ else _) = _
  split
  · rw [if_neg (by simp [hs])]
  · rw [hrWrite_of_not_serving _ _ hs]

end Rows

/-! ## What each register does with the written word -/

section Registers
variable (w : Word) (s : State)

/-- R45: a RATE inside its range is taken. -/
theorem writeRate_of_in_range (hlo : 0x27FDF3B646#40 ≤ fieldB 40 w 0) (hhi : fieldB 40 w 0 ≤ 0x28020C49BA#40) :
    writeRate w s = { s with time := { s.time with rate := fieldB 40 w 0 } } :=
  if_pos ⟨hlo, hhi⟩

/-- R45: a RATE outside its range sets RATE_ERR and leaves RATE. -/
theorem writeRate_of_out_of_range (hr : fieldB 40 w 0 < 0x27FDF3B646#40 ∨ 0x28020C49BA#40 < fieldB 40 w 0) :
    writeRate w s = { s with time := { s.time with rateErr := true } } := by
  have hout : ¬ (0x27FDF3B646#40 ≤ fieldB 40 w 0 ∧ fieldB 40 w 0 ≤ 0x28020C49BA#40) := by
    rintro ⟨hlo, hhi⟩
    exact hr.elim (BitVec.not_lt.mpr hlo) (BitVec.not_lt.mpr hhi)
  exact if_neg hout

/-- R604: RATE_ERR is W1C, at bit 4 of TIME_STATUS. -/
theorem clearRateErr_eq :
    clearRateErr w s = { s with time := { s.time with rateErr := s.time.rateErr && !bit w 4 } } := by
  cases hw : bit w 4 <;> simp [clearRateErr, hw]

/-- R607: a write of IRQ_ENABLE sets the lines' enables. -/
theorem writeRegister_irqEnable :
    writeRegister 0x4008 w s = { s with events := { s.events with en := fieldB 4 w 0 } } := rfl

/-- R603: a write of the image base takes bits [63:12]. -/
theorem writeRegister_imageBase :
    writeRegister 0x20 w s = { s with fw := { s.fw with base := fieldB 52 w 12 } } := rfl

/-- R607: `EVR_BASE` is read-only. -/
theorem writeRegister_ringBase : writeRegister 0x4018 w s = s := rfl

/-- R10: no register is listed at 0x4100. -/
theorem writeRegister_unlisted : writeRegister 0x4100 w s = s := rfl

end Registers

/-! ## Whole writes of a serving hub -/

/-! ## The obligation -/

/-- A whole write of a serving hub to a register outside the mailboxes is answered, and does what the register's write does. -/
theorem exec_registerWrite_whole {a : BitVec 17} {w : Word} {s s' : State} (ha : a.toNat < 0x2000 ∨ 0x4000 ≤ a.toNat)
    (hs : serving s = true) (hreg : writeRegister (8 * a.toNat) w (hrDone 0 s) = s') :
    exec (.registerWrite a w 0xFF) s = .next s' := by
  rw [exec_registerWrite_of_register _ _ _ ha, hrWrite_whole _ hs, hreg]

/-- Settles O34: each row is `hrWrite` of its register's write, which a serving hub answers and takes whole. -/
theorem registerRowsComplete : Obligations.RegisterRowsComplete := by
  refine ⟨fun w s hs => ⟨fun hlo hhi => ?rateTaken, fun hr => ?rateRefused, ?rateErr, ?irqStatus, ?irqTest,
    ?irqEnable, ?ringBase, ?unlisted, ?imageBase⟩, fun a w strb s => exec_registerWrite_of_not_serving w strb s a⟩
  case rateTaken => rw [exec_timeRateWrite_eq, hrWrite_whole _ hs, writeRate_of_in_range w _ hlo hhi, hrDone_time]
  case rateRefused => rw [exec_timeRateWrite_eq, hrWrite_whole _ hs, writeRate_of_out_of_range w _ hr, hrDone_time]
  case rateErr => rw [exec_rateErrClear_eq, hrWrite_whole _ hs, clearRateErr_eq, hrDone_time]
  case irqStatus => rw [exec_irqStatusClear_eq, hrWrite_whole _ hs, clearIrq, hrDone_events]
  case irqTest => rw [exec_irqTest_eq, hrWrite_whole _ hs, setIrq, hrDone_events]
  case irqEnable => exact exec_registerWrite_whole (by decide) hs (writeRegister_irqEnable w _)
  case ringBase => exact exec_registerWrite_whole (by decide) hs (writeRegister_ringBase w _)
  case unlisted => exact exec_registerWrite_whole (by decide) hs (writeRegister_unlisted w _)
  case imageBase => exact exec_registerWrite_whole (by decide) hs (writeRegister_imageBase w _)

end Sys2Proof.Machine
end

/-! # Every command completes (R15) -/
section
namespace Sys2Proof.Machine

/-! ## What a command's meaning can end in -/

/-- R15: the meanings of the two rows that sample the tie-offs fault on tie-offs that describe no chip; every other meaning is
a next state by its definition. -/
theorem exec_next_or_fault (c : Instr) (s : State) :
    (∃ t, exec c s = .next t) ∨
    ∃ t, tieOffsOk t = false ∧ (c = .obsResetRelease t ∨ c = .obsPowerUp t) ∧ exec c s = .fault .noSuchConfiguration := by
  cases c with
  | obsResetRelease t =>
    cases ht : tieOffsOk t with
    | false => exact .inr ⟨t, ht, .inl rfl, if_neg (by simp [ht])⟩
    | true => exact .inl ⟨_, if_pos ht⟩
  | obsPowerUp t =>
    cases ht : tieOffsOk t with
    | false => exact .inr ⟨t, ht, .inr rfl, if_neg (by simp [ht])⟩
    | true => exact .inl ⟨_, if_pos ht⟩
  | _ => exact .inl ⟨_, rfl⟩

/-- Settles O4: by `exec_next_or_fault`, since a well-formed tie-off row has tie-offs of R15. -/
theorem everyWellFormedCommandCompletes : Obligations.EveryWellFormedCommandCompletes := by
  refine ⟨fun c s hwf => ?completes, fun c s r hr => ?noRefusal, fun c s f hf => ?onlyFault⟩
  case completes =>
    obtain hnext | ⟨t, ht, rfl | rfl, -⟩ := exec_next_or_fault c s
    · exact hnext
    · exact absurd (ht.symm.trans hwf) Bool.false_ne_true
    · exact absurd (ht.symm.trans hwf) Bool.false_ne_true
  case noRefusal =>
    obtain ⟨t, h⟩ | ⟨t, -, -, h⟩ := exec_next_or_fault c s <;> simp [h] at hr
  case onlyFault =>
    obtain ⟨t, h⟩ | ⟨t, ht, hc, -⟩ := exec_next_or_fault c s
    · simp [h] at hf
    · exact ⟨t, ht, hc⟩

end Sys2Proof.Machine
end

/-! # Power rows (R17, R37, R561, R563, R565, R574) -/
section
namespace Sys2Proof.Machine

/-! ## A bit set reads back -/

theorem getLsbD_setBit_same {n i : Nat} (b : BitVec n) (hi : i < n) (v : Bool) : (setBit b i v).getLsbD i = v := by
  have hone : (BitVec.ofNat n (1 <<< i)).getLsbD i = true := by
    rw [BitVec.getLsbD_ofNat, Nat.one_shiftLeft, Nat.testBit_two_pow_self, decide_eq_true hi, Bool.true_and]
  cases v <;> simp [setBit, hone, hi]

/-! ## The reset release: the cores of the tie-offs -/

theorem le_core_of_risingFrom {lo : Nat} {ts : List CoreTie} (h : risingFrom lo ts = true) {k : CoreTie} (hk : k ∈ ts) :
    lo ≤ k.core.toNat := by
  induction ts generalizing lo with
  | nil => exact absurd hk List.not_mem_nil
  | cons a ts ih =>
    simp only [risingFrom, Bool.and_eq_true, decide_eq_true_eq] at h
    obtain ⟨hlo, hts⟩ := h
    obtain rfl | hk := List.mem_cons.mp hk
    · exact hlo
    · have := ih hts hk
      omega

/-- Tie-offs that name each core once give each named core its own entry. -/
theorem tget_map_core {α : Type} (g : CoreTie → α) {lo : Nat} {ts : List CoreTie} (h : risingFrom lo ts = true) {k : CoreTie}
    (hk : k ∈ ts) : tget k.core.toNat (ts.map fun c => (c.core.toNat, g c)) = some (g k) := by
  induction ts generalizing lo with
  | nil => exact absurd hk List.not_mem_nil
  | cons a ts ih =>
    simp only [risingFrom, Bool.and_eq_true] at h
    obtain ⟨-, hts⟩ := h
    rw [List.map_cons, tget]
    obtain rfl | hk := List.mem_cons.mp hk
    · exact if_pos rfl
    · have hlt := le_core_of_risingFrom hts hk
      rw [if_neg (by omega), ih hts hk]

@[simp] theorem freshCore_ties (t : CoreTie) : (freshCore t).ties = t := by
  unfold freshCore
  split <;> rfl

/-- R17: a core with its defect tie-off begins with `ts_fence` high, and no other does. -/
theorem freshCore_fence (t : CoreTie) : (freshCore t).fence = t.defect := by
  unfold freshCore
  split
  · next h => exact h.symm
  · next h => exact (Bool.eq_false_iff.mpr h).symm

/-- R17: a core with its defect tie-off begins FENCED, and any other ACTIVE. -/
theorem freshCore_st (t : CoreTie) : (freshCore t).st = if t.defect then .fenced else .active := by
  unfold freshCore
  split <;> rfl

/-! ## The reset release: what it leaves -/

section Release
variable (t : TieOffs) (s : State)

@[simp] theorem obsRelease_power : (obsRelease t s).power = poweredMode s.pw.gated := rfl
@[simp] theorem obsRelease_pw : (obsRelease t s).pw =
    { s.pw with shed := false, obsOff := false, lgDone := false, warn := false, phase := .idle } := rfl

theorem poweredMode_on_or_partialOn (g : BitVec 8) : poweredMode g = .on ∨ poweredMode g = .partialOn := by
  unfold poweredMode
  split
  · exact .inl rfl
  · exact .inr rfl

/-- A released hub serves, whatever partitions are gated. -/
theorem serving_obsRelease : serving (obsRelease t s) = true := by
  simp [serving, poweredMode_on_or_partialOn]

variable {t}

theorem coreOf_obsRelease (ht : tieOffsOk t = true) {k : CoreTie} (hk : k ∈ t.cores) :
    coreOf (obsRelease t s) k.core.toNat = some (freshCore k) := by
  simp only [tieOffsOk, Bool.and_eq_true] at ht
  obtain ⟨⟨hrising, -⟩, -⟩ := ht
  exact tget_map_core freshCore hrising hk

/-! ## The two rows that sample the tie-offs -/

theorem exec_obsResetRelease_of_ok (ht : tieOffsOk t = true) : exec (.obsResetRelease t) s =
    .next (if s.power = .on ∨ s.power = .partialOn then obsRelease t s else s) := if_pos ht

theorem exec_obsPowerUp_of_ok (ht : tieOffsOk t = true) : exec (.obsPowerUp t) s =
    .next (if s.power = .off ∨ s.power = .lastGasp then s else obsRelease t s) := if_pos ht

theorem exec_obsResetRelease_of_not_ok (ht : tieOffsOk t = false) :
    exec (.obsResetRelease t) s = .fault .noSuchConfiguration := if_neg (by simp [ht])

theorem exec_obsPowerUp_of_not_ok (ht : tieOffsOk t = false) :
    exec (.obsPowerUp t) s = .fault .noSuchConfiguration := if_neg (by simp [ht])

end Release

/-! ## The record that always-on power-up takes (R574) -/

/-- One candidate weighed against the best record so far. -/
def newerRecord (best : Option (List Word)) (ws : List Word) : Option (List Word) :=
  match best with
  | none => some ws
  | some b => if recordSeq b < recordSeq ws then some ws else best

theorem selectRecord_eq_foldl (slots : List (List Word)) :
    selectRecord slots = (slots.filter recordValid).foldl newerRecord none := rfl

/-- The record kept is one of the two weighed, and neither has a greater SEQ. -/
theorem exists_newerRecord (best : Option (List Word)) (ws : List Word) :
    ∃ w, newerRecord best ws = some w ∧ (w = ws ∨ best = some w) ∧ recordSeq ws ≤ recordSeq w ∧
      ∀ b, best = some b → recordSeq b ≤ recordSeq w := by
  cases best with
  | none => exact ⟨ws, rfl, .inl rfl, BitVec.le_refl _, by simp⟩
  | some b =>
    by_cases hlt : recordSeq b < recordSeq ws
    · exact ⟨ws, if_pos hlt, .inl rfl, BitVec.le_refl _, by rintro _ ⟨⟩; exact BitVec.le_of_lt hlt⟩
    · exact ⟨b, if_neg hlt, .inr rfl, BitVec.not_lt.mp hlt, by rintro _ ⟨⟩; exact BitVec.le_refl _⟩

/-- The outcome of a run of candidates is one of them or the record before them, and none has a greater SEQ. -/
theorem foldl_newerRecord_max {l : List (List Word)} {best : Option (List Word)} {w : List Word}
    (h : l.foldl newerRecord best = some w) :
    (w ∈ l ∨ best = some w) ∧ (∀ v ∈ l, recordSeq v ≤ recordSeq w) ∧ ∀ b, best = some b → recordSeq b ≤ recordSeq w := by
  induction l generalizing best with
  | nil =>
    have hbest : best = some w := h
    exact ⟨.inr hbest, by simp, fun b hb => Option.some.inj (hb.symm.trans hbest) ▸ BitVec.le_refl _⟩
  | cons a l ih =>
    obtain ⟨x, hx, hfrom, hax, hbx⟩ := exists_newerRecord best a
    rw [List.foldl_cons, hx] at h
    obtain ⟨hw, hl, hxw⟩ := ih h
    have hxw := hxw x rfl
    refine ⟨?_, List.forall_mem_cons.mpr ⟨BitVec.le_trans hax hxw, hl⟩, fun b hb => BitVec.le_trans (hbx b hb) hxw⟩
    obtain hw | hw := hw
    · exact .inl (List.mem_cons_of_mem _ hw)
    · obtain rfl := Option.some.inj hw
      exact hfrom.imp_left fun he => List.mem_cons.mpr (.inl he)

/-- R574: the selected record is valid, and of the greatest SEQ among the valid ones. -/
theorem selectRecord_max {slots : List (List Word)} {ws : List Word} (h : selectRecord slots = some ws) :
    recordValid ws = true ∧ ∀ v ∈ slots, recordValid v = true → recordSeq v ≤ recordSeq ws := by
  rw [selectRecord_eq_foldl] at h
  obtain ⟨hmem | ⟨⟨⟩⟩, hmax, -⟩ := foldl_newerRecord_max h
  exact ⟨(List.mem_filter.mp hmem).2, fun v hv hvalid => hmax v (List.mem_filter.mpr ⟨hv, hvalid⟩)⟩

/-! ## Always-on power and gating -/

/-- The number the next record has after the last one. -/
def seqAfter (last : Option (List Word)) : BitVec 32 :=
  match last with
  | none => 1
  | some ws => recordSeq ws + 1

theorem exec_aoPowerUp_eq (slots : List (List Word)) (s : State) : exec (.aoPowerUp slots) s = .next { aoReset s with
    pw := { (aoReset s).pw with last := selectRecord slots, nextSeq := seqAfter (selectRecord slots) } } := rfl

/-- Table 17.2: the debug level at reset, by lifecycle. -/
theorem resetDebug_eq (lc : Lifecycle) :
    resetDebug lc = (match lc with | .manufacture => .invasive | .provision => .observe | _ => .sealedLevel) := by
  cases lc <;> rfl

theorem exec_aoPowerLoss_eq (s : State) : exec .aoPowerLoss s = .next { aoReset s with power := .off } := rfl

section Gating
variable (part : PartIx) (g : Bool) {s : State}

theorem exec_partGatedChange_of_powered (hs : s.power ≠ .off) : exec (.partGatedChange part g) s =
    .next { s with
      pw := { s.pw with gated := setBit s.pw.gated part.toNat g }
      power := if recognisable s then poweredMode (setBit s.pw.gated part.toNat g) else s.power } :=
  congrArg Host.Outcome.next (if_neg hs)

/-- R561: in ON and PARTIAL the mode follows the gated partitions. -/
theorem exec_partGatedChange_of_on (hs : s.power = .on ∨ s.power = .partialOn) : exec (.partGatedChange part g) s =
    .next { s with
      pw := { s.pw with gated := setBit s.pw.gated part.toNat g }
      power := poweredMode (setBit s.pw.gated part.toNat g) } := by
  have hon : s.power ≠ .off := by rintro h; simp [h] at hs
  have hrec : recognisable s = true := decide_eq_true hs
  rw [exec_partGatedChange_of_powered part g hon, if_pos hrec]

theorem exec_partGatedChange_of_retaining (hs : s.power = .lastGasp ∨ s.power = .retained) :
    exec (.partGatedChange part g) s = .next { s with pw := { s.pw with gated := setBit s.pw.gated part.toNat g } } := by
  have hon : s.power ≠ .off := by rintro h; simp [h] at hs
  have hrec : recognisable s = false := by rcases hs with h | h <;> simp [recognisable, h]
  rw [exec_partGatedChange_of_powered part g hon, hrec, if_neg Bool.false_ne_true]

theorem exec_partGatedChange_of_off (hs : s.power = .off) : exec (.partGatedChange part g) s = .next s :=
  congrArg Host.Outcome.next (if_pos hs)

end Gating

/-! ## The obligation -/

/-- Settles O36: the release of observation reset by mode, what it leaves, and the rows of the always-on domain. -/
theorem powerRowsComplete : Obligations.PowerRowsComplete := by
  refine ⟨⟨fun t s ht => ⟨?releaseOn, ?releaseElse, ?powerUpOff, ?powerUpElse, obsRelease_power t s, rfl, rfl,
    serving_obsRelease t s, rfl, rfl, rfl, rfl, rfl, rfl, rfl, rfl, rfl, fun k hk => ?core⟩, fun t s ht => ?notOk⟩,
    fun slots s => ?aoPowerUp, exec_aoPowerLoss_eq, fun part g s hs => ?gatedOn, fun part g s => exec_partGatedChange_of_retaining part g,
    fun part g s => exec_partGatedChange_of_off part g⟩
  case releaseOn => intro hs; rw [exec_obsResetRelease_of_ok s ht, if_pos hs]
  case releaseElse => intro hs; rw [exec_obsResetRelease_of_ok s ht, if_neg (by rcases hs with h | h | h <;> simp [h])]
  case powerUpOff => intro hs; rw [exec_obsPowerUp_of_ok s ht, if_pos hs]
  case powerUpElse => intro hs; rw [exec_obsPowerUp_of_ok s ht, if_neg (by rcases hs with h | h | h <;> simp [h])]
  case core => exact ⟨freshCore k, coreOf_obsRelease s ht hk, freshCore_ties k, freshCore_fence k, freshCore_st k⟩
  case notOk => exact ⟨exec_obsResetRelease_of_not_ok s ht, exec_obsPowerUp_of_not_ok s ht⟩
  case aoPowerUp =>
    refine ⟨_, exec_aoPowerUp_eq slots s, rfl, rfl, fun hnone => congrArg seqAfter hnone, fun ws hws => ?_, rfl, rfl, rfl,
      resetDebug_eq _⟩
    exact ⟨congrArg seqAfter hws, selectRecord_max hws⟩
  case gatedOn => exact ⟨getLsbD_setBit_same _ part.isLt g, exec_partGatedChange_of_on part g hs⟩

end Sys2Proof.Machine
end

/-! # Reset handshakes and the deadlines of a rung (R38, R387, R395, R615) -/
section
namespace Sys2Proof.Machine

/-! ## The reset handshakes of rungs 4 and 5 (R387, R395) -/

section Handshakes
variable (part : PartIx) {s : State}

/-- The state after `th_part_rst_done[p]` has risen under its request, which is lowered. -/
def partDoneRisen (p : Nat) (s : State) : State :=
  { s with rec_ := { s.rec_ with partDone := setBit s.rec_.partDone p true, partReq := setBit s.rec_.partReq p false } }

/-- The state after `th_chip_rst_done` has risen under its request, which is lowered. -/
def chipDoneRisen (s : State) : State := { s with rec_ := { s.rec_ with chipDone := true, chipReq := false } }

/-- What a risen done signal does: the reset of the domain and the end of the entry that waits, if any does. -/
def endWaiting (waits : Option (BitVec 16 × RungUnit)) (reset : State → State) (b : State) : State :=
  match waits with
  | some (id, u) => finishUnit id u (reset b)
  | none => b

/-- R387: a partition's done signal rises under its request. -/
theorem exec_partitionResetDone_of_requested (hs : serving s = true) (hreq : s.rec_.partReq.getLsbD part.toNat = true)
    (hdone : s.rec_.partDone.getLsbD part.toNat = false) :
    let b := partDoneRisen part.toNat s
    exec (.partitionResetDone part) s = .next (endWaiting (findUnit b fun u => decide (u.rung = 4 ∧ u.part = part.toNat))
      (fun b => (coresOfPart b part.toNat).foldl domainLeaves (advPartGen 4 part.toNat b)) b) :=
  congrArg Host.Outcome.next (if_pos (by rw [hs, hreq, hdone]; rfl))

/-- R387: the chip's done signal rises under its request. -/
theorem exec_chipResetDone_of_requested (hs : serving s = true) (hreq : s.rec_.chipReq = true) (hdone : s.rec_.chipDone = false) :
    exec .chipResetDone s = .next (endWaiting (findUnit (chipDoneRisen s) fun u => decide (u.rung = 5))
      (fun b => (allCores b).foldl domainLeaves (advChipGen 5 b)) (chipDoneRisen s)) :=
  congrArg Host.Outcome.next (if_pos (by rw [hs, hreq, hdone]; rfl))

theorem exec_partitionResetDone_of_not_requested (hreq : s.rec_.partReq.getLsbD part.toNat = false) :
    exec (.partitionResetDone part) s = .next s :=
  congrArg Host.Outcome.next (if_neg (by simp [hreq]))

theorem exec_chipResetDone_of_not_requested (hreq : s.rec_.chipReq = false) : exec .chipResetDone s = .next s :=
  congrArg Host.Outcome.next (if_neg (by simp [hreq]))

/-- R387: as a partition's done signal falls, its request is as an entry still waits. -/
theorem exec_resetDoneLower_part (hdone : s.rec_.partDone.getLsbD part.toNat = true) :
    exec (.resetDoneLower (some part)) s = .next { s with rec_ := { s.rec_ with
      partDone := setBit s.rec_.partDone part.toNat false
      partReq := setBit s.rec_.partReq part.toNat
        (findUnit s fun u => decide (u.rung = 4 ∧ u.part = part.toNat)).isSome } } :=
  congrArg Host.Outcome.next (if_pos hdone)

theorem exec_resetDoneLower_chip (hdone : s.rec_.chipDone = true) :
    exec (.resetDoneLower none) s = .next { s with rec_ := { s.rec_ with
      chipDone := false, chipReq := (findUnit s fun u => decide (u.rung = 5)).isSome } } :=
  congrArg Host.Outcome.next (if_pos hdone)

end Handshakes

/-! ## The deadlines of a rung (R615) -/

section Timeout
variable {id : BitVec 16} {s : State}

theorem exec_rungTimeout_eq : exec (.rungTimeout id) s = execRungTimeout id s := rfl

theorem exec_rungTimeout_of_rung {r : Rung} (hs : serving s = true) (hr : rungOf s id = some r) :
    exec (.rungTimeout id) s = .next (rungSettle id
      ((r.units.filter fun u => decide (u.due ≤ hubGt s ∧ (u.phase = .abort ∨ u.phase = .reset))).foldl (unitTimeout id) s)) := by
  simp only [exec_rungTimeout_eq, execRungTimeout, hr, if_pos hs]

theorem exec_rungTimeout_of_no_rung (hr : rungOf s id = none) : exec (.rungTimeout id) s = .next s := by
  simp only [exec_rungTimeout_eq, execRungTimeout, hr]

end Timeout

/-! ## The obligation -/

/-- Settles O39: each row by whether its request stands and whether an entry of a rung waits for it. -/
theorem resetHandshakesComplete : Obligations.ResetHandshakesComplete := by
  refine ⟨fun part s hs hreq hdone => ?partRises, fun s hs hreq hdone => ?chipRises,
    fun part s => exec_partitionResetDone_of_not_requested part, fun s => exec_chipResetDone_of_not_requested,
    fun part s hdone => ⟨_, exec_resetDoneLower_part part hdone, rfl, rfl, ?requestAgain⟩, fun s => exec_resetDoneLower_chip,
    fun id s r => exec_rungTimeout_of_rung, fun id s => exec_rungTimeout_of_no_rung⟩
  case partRises =>
    have hrun := exec_partitionResetDone_of_requested part hs hreq hdone
    exact ⟨fun hu => hrun.trans (by rw [partDoneRisen, hu]; rfl), fun id u hu => hrun.trans (by rw [partDoneRisen, hu]; rfl)⟩
  case chipRises =>
    have hrun := exec_chipResetDone_of_requested hs hreq hdone
    exact ⟨fun hu => hrun.trans (by rw [chipDoneRisen, hu]; rfl), fun id u hu => hrun.trans (by rw [chipDoneRisen, hu]; rfl)⟩
  case requestAgain => exact getLsbD_setBit_same _ part.isLt _

end Sys2Proof.Machine
end

/-! # Stretch, gating and wake of a core (R35, R99, R115 to R118) -/
section
namespace Sys2Proof.Machine

/-! ## Stretch and gating at a core that takes its rows (R99, R115, R116) -/

/-- The state after a change has been recorded and, where it is the first under the stop armed, written upward (log entry 78). -/
def stretchNoted (c : Nat) (co : Core) (b : State) : State :=
  let m := modCore c (fun x => { x with stretch := !co.stretch }) b
  if co.armStretch then m else upPush c .stretchChange (modCore c (fun x => { x with armStretch := true }) m)

/-- The state after a new notice: every hold raised and the notice word written (R115). -/
def gateNoticed (c : Nat) (co : Core) (b : State) : State :=
  upPush c (.gateNotice (inflightMask co)) (modCore c (fun x => { raiseHolds x with gateWarn := true }) b)

section Notices
variable {core : CoreIx} {dc : Nat} {s : State} {co : Core}
  (hp : portTaken s core.toNat = true) (hc : coreOf (rowState core.toNat dc s) core.toNat = some co)
include hp hc

theorem exec_stretchChange_of_shown : exec (.stretchChange core dc co.stretch) s = .next (rowState core.toNat dc s) :=
  congrArg Host.Outcome.next ((coreRow_taken hp hc 1 _).trans (if_pos rfl))

/-- A change with no stop armed is only recorded. -/
theorem exec_stretchChange_of_not_armed (ha : co.arm = none) : exec (.stretchChange core dc (!co.stretch)) s =
    .next (modCore core.toNat (fun x => { x with stretch := !co.stretch }) (rowState core.toNat dc s)) := by
  have hne : co.stretch ≠ !co.stretch := by simp
  refine congrArg Host.Outcome.next ((coreRow_taken hp hc 1 _).trans ((if_neg hne).trans ?_))
  rw [ha]

/-- R99: with a stop armed the shim of a core in service acts at once. -/
theorem exec_stretchChange_of_armed {n : BitVec 32} {hard : Bool} {id : BitVec 32} (ha : co.arm = some (n, hard, id)) :
    exec (.stretchChange core dc (!co.stretch)) s =
      .next (let c := core.toNat
        let w := stretchNoted c co (rowState c dc s)
        if !coreInService co then w
        else if hard && decide (c ∈ scanGroup w) then stopCore c hard false (cutT w id) none w
        else modCore c (fun x => { raiseHolds x with holdsUp := true }) w) := by
  have hne : co.stretch ≠ !co.stretch := by simp
  refine congrArg Host.Outcome.next ((coreRow_taken hp hc 1 _).trans ((if_neg hne).trans ?_))
  rw [ha]
  rfl

theorem exec_gateWarn_of_standing (hw : co.gateWarn = true) (waits : Bool) :
    exec (.gateWarn core dc waits) s = .next (rowState core.toNat dc s) :=
  congrArg Host.Outcome.next ((coreRow_taken hp hc 1 _).trans (if_pos hw))

/-- R116: where the power controller waits, the QUIET word follows the notice with the final values. -/
theorem exec_gateWarn_of_new (hw : co.gateWarn = false) (waits : Bool) :
    exec (.gateWarn core dc waits) s = .next (let c := core.toNat
      let n := gateNoticed c co (rowState c dc s)
      if waits then
        enterQuiet c (linkDrains 1 c (upPush c (.quiet (inflightMask co) co.coreBusy co.cc false (finalValues co))
          (modCore c (fun x => { x with gateOk := true, quietDone := true }) (linkDrains 7 c n))))
      else n) :=
  congrArg Host.Outcome.next ((coreRow_taken hp hc 1 _).trans (if_neg (Bool.eq_false_iff.mp hw)))

end Notices

/-! ## Waking (R35, R117, R118) -/

section Wake
variable {core : CoreIx} {s : State} {co : Core}

theorem exec_coreWake_eq (ret : Bool) : exec (.coreWake core ret) s = execCoreWake core ret s := rfl

/-- The WAKE word of core `c`, with the events discarded before it. -/
def pushWake (ret : Bool) (gone c : Nat) (s : State) : State :=
  upPush c (.wake ret gone (((coreOf s c).map (·.cc)).getD 0) none) s

theorem exec_coreWake_of_served (hc : coreOf s core.toNat = some co) (hs : serving s = true)
    (hr : railOff s core.toNat = false) (ret : Bool) :
    exec (.coreWake core ret) s = .next (let c := core.toNat
      pushWake ret co.discarded c (modCore c wakeMarks
        (if ret then wakeRetained c (modCore c (fun x => { x with gateWarn := false }) s) else wakeLost c s))) := by
  simp only [exec_coreWake_eq, execCoreWake, hc, hs, hr, Bool.not_false, Bool.and_self, if_true, pushWake]

theorem exec_coreWake_of_not_served (h : coreOf s core.toNat = none ∨ serving s = false ∨ railOff s core.toNat = true)
    (ret : Bool) : exec (.coreWake core ret) s = .next s := by
  rw [exec_coreWake_eq, execCoreWake]
  cases hc : coreOf s core.toNat with
  | none => rfl
  | some co =>
    have hoff : serving s = false ∨ railOff s core.toNat = true := by simpa [hc] using h
    have hnot : ¬ (serving s && !railOff s core.toNat) = true := by
      rcases hoff with h | h <;> simp [h]
    exact congrArg Host.Outcome.next (if_neg hnot)

/-- The state of a QUIET core that has become ACTIVE, its engines in RUN. -/
def quietRuns (c : Nat) (s : State) : State :=
  modCore c (fun x => { x with
    st := .active, engs := x.engs.map fun en => { en with st := .run, released := false, stepBegun := false } }) s

section Quiet
variable {c : Nat} (hc : coreOf s c = some co) (hq : co.st = .quiet)
include hc hq

theorem wakeRetained_of_no_cut (hx : stopsOnReturn (quietRuns c s) c = none) :
    wakeRetained c s = modCore c lowerHolds (quietRuns c s) := by
  rw [quietRuns] at hx
  simp only [wakeRetained, hc, if_pos hq, hx, quietRuns]

/-- R35: a core woken under a cut in force that names it is STOPPED. -/
theorem wakeRetained_of_cut {x : Cut} (hx : stopsOnReturn (quietRuns c s) c = some x) :
    wakeRetained c s = enterStopped c x 4 (quietRuns c s) := by
  rw [quietRuns] at hx
  simp only [wakeRetained, hc, if_pos hq, hx, quietRuns]

end Quiet

end Wake

/-! ## The obligation -/

/-- Settles O43: stretch and gating act on the row state of a core that takes its rows, and a wake on the state itself. -/
theorem corePowerNoticesComplete : Obligations.CorePowerNoticesComplete := by
  refine ⟨fun core dc s co hp hc => ⟨exec_stretchChange_of_shown hp hc, exec_stretchChange_of_not_armed hp hc,
      fun n hard id => exec_stretchChange_of_armed hp hc, exec_gateWarn_of_standing hp hc, fun hw => ?newNotice⟩,
    fun core s co hc hs hr => ?wake, fun core ret s h => exec_coreWake_of_not_served h ret,
    fun co => ⟨rfl, rfl, rfl, rfl⟩, fun c s co hc hq => ?retained⟩
  case newNotice =>
    exact ⟨(exec_gateWarn_of_new hp hc hw false).trans (congrArg Host.Outcome.next (if_neg Bool.false_ne_true)),
      (exec_gateWarn_of_new hp hc hw true).trans (congrArg Host.Outcome.next (if_pos rfl))⟩
  case wake => exact ⟨exec_coreWake_of_served hc hs hr true, exec_coreWake_of_served hc hs hr false⟩
  case retained => exact ⟨wakeRetained_of_no_cut hc hq, fun x => wakeRetained_of_cut hc hq⟩

end Sys2Proof.Machine
end

/-! # Reset values (R44, R492, R508, R613) -/
section
namespace Sys2Proof.Machine

/-- R508: at reset no mailbox but the Operator's and the Platform's is bound. -/
theorem reset_bindings_of_between {m : Nat} (hlo : 1 ≤ m) (hhi : m ≤ 14) :
    State.reset.protect.bindings.getD m none = none := by
  have hunbound : ∀ k : Fin 14, State.reset.protect.bindings.getD (k.val + 1) none = none := by decide
  obtain ⟨k, rfl⟩ := Nat.exists_eq_add_of_le' hlo
  exact hunbound ⟨k, by omega⟩

/-- Settles O3: every value is the field's own at reset, and the bindings of mailboxes 1 to 14 are the middle of a list. -/
theorem resetStateValues : Obligations.ResetStateValues :=
  ⟨rfl, rfl, rfl, rfl, rfl, rfl, rfl, rfl, rfl, rfl, rfl, fun _ => reset_bindings_of_between, rfl, rfl, rfl, rfl, rfl, rfl, rfl,
    rfl, rfl, rfl, rfl, rfl⟩

end Sys2Proof.Machine
end

/-! # Interpolators (R41, R48) -/
section
namespace Sys2Proof.Machine

/-! ## The order of counts modulo 2^64 -/

theorem gtBelow_self (a : Nat) : gtBelow a a = false := by
  have hgap : (a + (2 ^ 64 - a % 2 ^ 64)) % 2 ^ 64 = 0 := by omega
  simp only [gtBelow, hgap, Nat.lt_irrefl, false_and, decide_false]

theorem gtMax_of_below {a b : GT} (h : gtBelow a b = true) : gtMax a b = b := if_pos h

theorem gtMax_of_not_below {a b : GT} (h : gtBelow a b = false) : gtMax a b = a := if_neg (Bool.eq_false_iff.mp h)

/-- A count taken once as the later one is not taken again. -/
theorem gtMax_gtMax_right (a b : GT) : gtMax (gtMax a b) b = gtMax a b := by
  cases h : gtBelow a b with
  | true => rw [gtMax_of_below h, gtMax_of_not_below (gtBelow_self b)]
  | false => rw [gtMax_of_not_below h, gtMax_of_not_below h]

/-- In the lower half of the count the order modulo 2^64 is that of numbers. -/
theorem gtBelow_iff_lt {a b : Nat} (ha : a < 2 ^ 63) (hb : b < 2 ^ 63) : gtBelow a b = true ↔ a < b := by
  have hdef : gtBelow a b =
    decide (0 < (b + (2 ^ 64 - a % 2 ^ 64)) % 2 ^ 64 ∧ (b + (2 ^ 64 - a % 2 ^ 64)) % 2 ^ 64 < 2 ^ 63) := rfl
  rw [hdef, decide_eq_true_iff]
  omega

theorem gtMax_eq_max {a b : Nat} (ha : a < 2 ^ 63) (hb : b < 2 ^ 63) : gtMax a b = max a b := by
  by_cases h : a < b
  · rw [gtMax_of_below ((gtBelow_iff_lt ha hb).mpr h), Nat.max_eq_right (Nat.le_of_lt h)]
  · rw [gtMax_of_not_below (Bool.eq_false_iff.mpr (mt (gtBelow_iff_lt ha hb).mp h)),
      Nat.max_eq_left (Nat.not_lt.mp h)]

/-! ## An interpolator after a beat -/

section Beat
variable {b : Nat} (n : Nat) (i : Interp) (hb : b < 2 ^ 64)
include hb

/-- R48: at the beat an interpolator shows the later of its own count and the beat's. -/
theorem interpAt_interpBeat_zero : interpAt (interpBeat b n i) 0 = gtMax (interpAt i n) b := by
  have hbeat : gtWrap (b + (interpBeat b n i).inc * 0 / 65536) = b := by
    rw [Nat.mul_zero, Nat.zero_div, Nat.add_zero, gtWrap, Nat.mod_eq_of_lt hb]
  exact (congrArg (gtMax _) hbeat).trans (gtMax_gtMax_right _ b)

/-- R47: from the beat on it shows the later of its count there and the beat's value with its advance. -/
theorem interpAt_interpBeat (c : Nat) : interpAt (interpBeat b n i) c =
    gtMax (interpAt (interpBeat b n i) 0) ((b + (interpBeat b n i).inc * c / 65536) % 2 ^ 64) := by
  rw [interpAt_interpBeat_zero n i hb]
  rfl

end Beat

/-- Settles O47: after a beat an interpolator shows `gtMax` of two counts, which in the lower half is their `max`. -/
theorem interpolatorsNeverFallBack : Obligations.InterpolatorsNeverFallBack := by
  intro b n i l j adv hb
  have hzero : interpAt j 0 = gtMax l b := interpAt_interpBeat_zero n i hb
  have hshow := interpAt_interpBeat n i hb
  refine ⟨fun h => hzero.trans (gtMax_of_below h), fun h => hzero.trans (gtMax_of_not_below h), hshow, fun d hl hd => ?_⟩
  have hmono {c : Nat} (hc : c ≤ d) : adv c ≤ adv d :=
    Nat.add_le_add_left (Nat.div_le_div_right (Nat.mul_le_mul_left _ hc)) b
  have hbd : b < 2 ^ 63 := Nat.lt_of_le_of_lt (Nat.le_add_right b _) hd
  have hmax : interpAt j 0 = max l b := hzero.trans (gtMax_eq_max hl hbd)
  have hmaxlt : interpAt j 0 < 2 ^ 63 := hmax ▸ Nat.max_lt.mpr ⟨hl, hbd⟩
  have hrun {c : Nat} (hc : c ≤ d) : interpAt j c = max (interpAt j 0) (adv c) := by
    have hlt : adv c < 2 ^ 63 := Nat.lt_of_le_of_lt (hmono hc) hd
    have hwrap : adv c % 2 ^ 64 = adv c := Nat.mod_eq_of_lt (Nat.lt_trans hlt (by decide))
    rw [hshow c, hwrap, gtMax_eq_max hmaxlt hlt]
  have hend : interpAt j d = max (interpAt j 0) (adv d) := hrun (Nat.le_refl d)
  refine ⟨fun h => hmax.trans (Nat.max_eq_right (Nat.le_of_lt h)), fun h => hmax.trans (Nat.max_eq_left h),
    fun h => hend.trans (Nat.max_eq_left h), fun h => hend.trans (Nat.max_eq_right (Nat.le_of_lt h)), fun c hc => ?_⟩
  have hrise : max (interpAt j 0) (adv c) ≤ max (interpAt j 0) (adv d) :=
    Nat.max_le.mpr ⟨Nat.le_max_left _ _, Nat.le_trans (hmono hc) (Nat.le_max_right _ _)⟩
  rw [hrun hc, hend]
  exact hrise

end Sys2Proof.Machine
end

/-! # Beats and the reference (R46 to R49, R54, R56, R63, R78) -/
section
namespace Sys2Proof.Machine

/-- The value at a key of a table whose values are all changed. -/
theorem tget_tmap {α : Type} (f : Nat → α → α) (k : Nat) (t : Tab α) : tget k (tmap f t) = (tget k t).map (f k) := by
  induction t with
  | nil => rfl
  | cons p t ih =>
    obtain ⟨k', v⟩ := p
    by_cases hk : k' = k
    · simp [tmap, tget, hk]
    · simp [tmap, tget, hk, ih]

/-! ## The time base up to its next beat (R44, R46) -/

/-- A sum that fits its width is the sum of the numbers. -/
theorem toNat_add_ofNat {w n : Nat} {b : BitVec w} (h : b.toNat + n < 2 ^ w) : (b + BitVec.ofNat w n).toNat = b.toNat + n := by
  rw [BitVec.toNat_add, BitVec.toNat_ofNat, Nat.add_mod_mod, Nat.mod_eq_of_lt h]

/-- R44: an edge with no adjustment pending adds RATE. -/
theorem timeEdge_acc_toNat {t : Time} (hadj : t.adjust = 0) (hfit : t.acc.toNat + t.rate.toNat < 2 ^ 96) :
    (timeEdge t).acc.toNat = t.acc.toNat + t.rate.toNat := by
  have hacc : (timeEdge t).acc = t.acc + BitVec.ofNat 96 t.rate.toNat := by simp [timeEdge, hadj]
  rw [hacc, toNat_add_ofNat hfit]

/-- The edges to the beat are the fewest that reach the next multiple of 1,024 GT. -/
theorem edgesToBeat_bounds (acc : Nat) {rate : Nat} (hrate : 0 < rate) :
    (acc / 2 ^ 42 + 1) * 2 ^ 42 ≤ acc + edgesToBeat acc rate * rate ∧
      acc + edgesToBeat acc rate * rate < (acc / 2 ^ 42 + 1) * 2 ^ 42 + rate := by
  have hlo := Nat.lt_div_mul_add hrate (a := (acc / 2 ^ 42 + 1) * 2 ^ 42 - acc + rate - 1)
  have hhi := Nat.div_mul_le_self ((acc / 2 ^ 42 + 1) * 2 ^ 42 - acc + rate - 1) rate
  have hnext : acc < (acc / 2 ^ 42 + 1) * 2 ^ 42 := by omega
  simp only [edgesToBeat]
  omega

theorem timeToBeat_of_crossed {t : Time} (h : t.acc.toNat / 2 ^ 42 ≠ (timeEdge t).acc.toNat / 2 ^ 42) :
    timeToBeat t = timeEdge t := if_pos h

theorem timeToBeat_of_not_crossed {t : Time} (h : t.acc.toNat / 2 ^ 42 = (timeEdge t).acc.toNat / 2 ^ 42) :
    timeToBeat t = { timeEdge t with
      acc := (timeEdge t).acc +
        BitVec.ofNat 96 (edgesToBeat (timeEdge t).acc.toNat t.rate.toNat * t.rate.toNat) } := if_neg (not_not_intro h)

@[simp] theorem timeToBeat_delay (t : Time) : (timeToBeat t).delay = t.delay := by
  by_cases h : t.acc.toNat / 2 ^ 42 = (timeEdge t).acc.toNat / 2 ^ 42
  · exact (congrArg Time.delay (timeToBeat_of_not_crossed h)).trans rfl
  · exact (congrArg Time.delay (timeToBeat_of_crossed h)).trans rfl

/-- R46: RATE, of 40 bits, is less than 1,024 GT, so the base at its next beat is past the next multiple by less than a RATE. -/
theorem timeToBeat_acc_bounds {t : Time} (hadj : t.adjust = 0) (hpos : 0 < t.rate.toNat)
    (hfit : t.acc.toNat + 2 ^ 43 < 2 ^ 96) :
    (t.acc.toNat / 2 ^ 42 + 1) * 2 ^ 42 ≤ (timeToBeat t).acc.toNat ∧
      (timeToBeat t).acc.toNat < (t.acc.toNat / 2 ^ 42 + 1) * 2 ^ 42 + t.rate.toNat := by
  have hedge := timeEdge_acc_toNat hadj (by omega)
  by_cases hcross : t.acc.toNat / 2 ^ 42 = (timeEdge t).acc.toNat / 2 ^ 42
  · have hbounds := edgesToBeat_bounds (timeEdge t).acc.toNat hpos
    rw [timeToBeat_of_not_crossed hcross]
    change _ ≤ ((timeEdge t).acc + _).toNat ∧ ((timeEdge t).acc + _).toNat < _
    rw [toNat_add_ofNat (by omega), hcross]
    exact hbounds
  · rw [timeToBeat_of_crossed hcross]
    omega

/-- The GT of the next beat, in the units of R46. -/
theorem timeToBeat_gt_bounds {t : Time} (hadj : t.adjust = 0) (hpos : 0 < t.rate.toNat)
    (hfit : t.acc.toNat + 2 ^ 43 < 2 ^ 96) :
    ((timeToBeat t).acc.toNat >>> 32) / 1024 = (t.acc.toNat >>> 32) / 1024 + 1 ∧
      (timeToBeat t).acc.toNat >>> 32 < 1024 * ((t.acc.toNat >>> 32) / 1024 + 1) + t.rate.toNat / 2 ^ 32 + 1 := by
  have hbounds := timeToBeat_acc_bounds hadj hpos hfit
  simp only [Nat.shiftRight_eq_div_pow]
  omega

/-! ## What a beat gives, and the slew (R47, R63) -/

theorem beatAll_hub_beat (b : GT) (obs : List Nat) (hub : Nat) (tp : List Nat) (s : State) :
    (beatAll b obs hub tp s).time.hub.beat = b := rfl

/-- R47: every leaf takes the beat's GT. -/
theorem beatAll_leaf_beat (b : GT) (obs : List Nat) (hub : Nat) (tp : List Nat) {s : State} {c : Nat} {l : Leaf}
    (hl : tget c s.leaves = some l) : ∃ l', tget c (beatAll b obs hub tp s).leaves = some l' ∧ l'.interp.beat = b :=
  ⟨_, (tget_tmap _ c s.leaves).trans (congrArg (Option.map _) hl), rfl⟩

theorem slewBeat_adjust (t : Time) : (slewBeat t).adjust = t.slew.sign := by
  change (if 0 < t.slew then (1 : Int) else if t.slew < 0 then -1 else 0) = _
  split
  · next hpos => exact (Int.sign_eq_one_of_pos hpos).symm
  · split
    · next hneg => exact (Int.sign_eq_neg_one_of_neg hneg).symm
    · have hzero : t.slew = 0 := by omega
      rw [hzero, Int.sign_zero]

theorem slewBeat_slew (t : Time) : (slewBeat t).slew = t.slew - t.slew.sign :=
  congrArg (t.slew - ·) (slewBeat_adjust t)

/-- R63: a beat takes 1 GT off a slew that remains. -/
theorem slewBeat_slew_natAbs {t : Time} (h : t.slew ≠ 0) : (slewBeat t).slew.natAbs = t.slew.natAbs - 1 := by
  rw [slewBeat_slew]
  obtain hneg | hpos := Int.lt_or_gt_of_ne h
  · rw [Int.sign_eq_neg_one_of_neg hneg]
    omega
  · rw [Int.sign_eq_one_of_pos hpos]
    omega

/-! ## The rows, with always-on power and without (R49, R54, R56, R78) -/

section Rows
variable {s : State}

theorem aoPowered_of_not_off (h : s.power ≠ .off) : aoPowered s = true := decide_eq_true h

theorem not_aoPowered_of_off (h : s.power = .off) : ¬ aoPowered s = true := by simp [aoPowered, h]

theorem exec_timeBeat_of_powered (h : s.power ≠ .off) (obs : List Nat) (hub : Nat) (tp : List Nat) :
    let t := timeToBeat s.time
    let a := beatAll (gtWrap ((t.acc.toNat >>> 32) + s.time.delay.toNat)) obs hub tp { s with time := t }
    exec (.timeBeat obs hub tp) s = .next (beatBrings { a with time := slewBeat a.time }) := by
  rw [← timeToBeat_delay s.time]
  exact congrArg Host.Outcome.next (if_pos (aoPowered_of_not_off h))

theorem exec_refLostAssert_of_powered (h : s.power ≠ .off) : exec .refLostAssert s =
    .next { s with time := { s.time with refLost := true, state := .holdover, onAo := true } } :=
  congrArg Host.Outcome.next (if_pos (aoPowered_of_not_off h))

theorem exec_referenceStopDetect_of_powered (h : s.power ≠ .off) : exec .referenceStopDetect s =
    .next { s with time := { s.time with refStopped := true, state := .holdover, onAo := true } } :=
  congrArg Host.Outcome.next (if_pos (aoPowered_of_not_off h))

/-- R56: a hub that is no root and never was calibrated leaves HOLDOVER for FREE. -/
theorem exec_refLostDeassert_to_free (h : s.power ≠ .off) (hstate : s.time.state = .holdover) (hcal : s.time.calibrated = false)
    (hroot : s.time.root = false) : exec .refLostDeassert s =
      .next { s with time := { s.time with refLost := false, refStopped := false, state := .free, onAo := false } } :=
  congrArg Host.Outcome.next ((if_pos (aoPowered_of_not_off h)).trans
    (congrArg (fun t => { s with time := t }) (if_pos ⟨hstate, hcal, hroot⟩)))

/-- R56: every other hub keeps its state until a TIME_CAL. -/
theorem exec_refLostDeassert_keeps_state (h : s.power ≠ .off)
    (hkeep : s.time.state ≠ .holdover ∨ s.time.calibrated = true ∨ s.time.root = true) :
    exec .refLostDeassert s = .next { s with time := { s.time with refLost := false, refStopped := false } } := by
  have hnot : ¬ (s.time.state = .holdover ∧ s.time.calibrated = false ∧ s.time.root = false) := by
    rintro ⟨hstate, hcal, hroot⟩
    simp [hstate, hcal, hroot] at hkeep
  exact congrArg Host.Outcome.next ((if_pos (aoPowered_of_not_off h)).trans
    (congrArg (fun t => { s with time := t }) (if_neg hnot)))

theorem exec_timeRows_of_off (h : s.power = .off) : exec .refLostAssert s = .next s ∧ exec .refLostDeassert s = .next s ∧
    exec .referenceStopDetect s = .next s ∧ ∀ obs hub tp, exec (.timeBeat obs hub tp) s = .next s := by
  have hoff := not_aoPowered_of_off h
  exact ⟨congrArg Host.Outcome.next (if_neg hoff), congrArg Host.Outcome.next (if_neg hoff),
    congrArg Host.Outcome.next (if_neg hoff), fun _ _ _ => congrArg Host.Outcome.next (if_neg hoff)⟩

end Rows

/-- Settles O46: the beat's GT by the bounds of `timeToBeat`, and each row by whether always-on power is there. -/
theorem beatAndReferenceRowsComplete : Obligations.BeatAndReferenceRowsComplete := by
  refine ⟨fun obs hub tp s h => exec_timeBeat_of_powered h obs hub tp,
    fun b obs hub tp s => ⟨beatAll_hub_beat b obs hub tp s, fun c l => beatAll_leaf_beat b obs hub tp⟩,
    fun t hadj hpos _ => timeToBeat_gt_bounds hadj hpos, fun t h => ⟨slewBeat_slew_natAbs h, slewBeat_adjust t⟩,
    fun s => rfl, fun p cl s => rfl, fun cl s => rfl, fun i => rfl, fun s h => ⟨exec_refLostAssert_of_powered h,
      exec_referenceStopDetect_of_powered h, exec_refLostDeassert_to_free h, exec_refLostDeassert_keeps_state h⟩,
    fun s => exec_timeRows_of_off⟩

end Sys2Proof.Machine
end

/-! # Time calibration (R57, R59 to R61, R64, R65, R69, R470) -/
section
namespace Sys2Proof.Machine

/-! ## TIME_CAL START, LINK and SWEEP -/

/-- `command_runs`, with a name for the state in which the command acts. -/
theorem command_runs_at {via cmd i served s b} (h : accepted via cmd i served s = true) (hb : begun via cmd i s = b) {checks act}
    (hc : ∀ q ∈ checks b, q.1 = false) : command via cmd i served checks act s = act b := by
  subst hb
  exact command_runs h hc

/-- The hub of a START that names another root: it is no root and has no parent until a calibration gives it one (R57). -/
def calDetached (s : State) : State := { s with time := { s.time with root := false, parentPort := none } }

section Start
variable {via : Via} {root : BitVec 16} {setroot : Bool} {rootGt : Word} {s b : State}
  (h : accepted via 0x0060 (.timeCalStart via root setroot rootGt) false s = true)
  (hb : begun via 0x0060 (.timeCalStart via root setroot rootGt) s = b)
  (hd : denied b via .opPlat .sealedLevel = false) (hin : inTorus b root = true) (hcal : b.time.cal = none)
include h hb hd hin hcal

/-- R64, R65: a START that names this hub runs here as root. -/
theorem exec_timeCalStart_of_self (hr : root = chipOf b) : exec (.timeCalStart via root setroot rootGt) s =
    .next (rootCal 0 via (if setroot && decide (b.time.state = .free) then setRootGt rootGt b else b)) := by
  refine congrArg Host.Outcome.next ((command_runs_at h hb ?_).trans (if_pos hr))
  simp [hd, hin, hcal]

/-- R69: with no trained port a START for another root ends at once. -/
theorem exec_timeCalStart_of_no_port (hr : root ≠ chipOf b) (hp : childPort b.free (calDetached b) = none) :
    exec (.timeCalStart via root setroot rootGt) s =
      .next (treeDone 0 (treeWords 0 b.free [unreachedEntry (calDetached b) 0] 0 0 (calDetached b))
        (ownerOf (calDetached b) via) none (respond via rPending [] { calDetached b with free := b.free + 1 })) := by
  refine congrArg Host.Outcome.next ((command_runs_at h hb ?_).trans ((if_neg hr).trans ?_))
  · simp [hd, hin, hcal]
  · rw [calDetached] at hp
    simp only [hp]
    rfl

/-- R57: with one it begins a calibration as the child of that port's neighbour. -/
theorem exec_timeCalStart_of_port (hr : root ≠ chipOf b) {p : Nat} (hp : childPort b.free (calDetached b) = some p) :
    exec (.timeCalStart via root setroot rootGt) s =
      .next (beginCal 0 none (ownerOf (calDetached b) via) p false false (respond via rPending [] (calDetached b))) := by
  refine congrArg Host.Outcome.next ((command_runs_at h hb ?_).trans ((if_neg hr).trans ?_))
  · simp [hd, hin, hcal]
  · rw [calDetached] at hp
    simp only [hp]
    rfl

end Start

section Link
variable {via : Via} {chip : BitVec 16} {port : BitVec 3} {s b : State}
  (h : accepted via 0x0060 (.timeCalLink via chip port) false s = true)
  (hb : begun via 0x0060 (.timeCalLink via chip port) s = b)
  (hd : denied b via .opPlat .sealedLevel = false) (hcal : b.time.cal = none)
include h hb hd hcal

/-- R69: a LINK of this hub's parent port begins a calibration that answers the command when it ends. -/
theorem exec_timeCalLink_of_self (hc : chip = chipOf b) (hp : b.time.parentPort = some port) :
    exec (.timeCalLink via chip port) s = .next (beginCal 1 (some via) (ownerOf b via) port.toNat false false b) := by
  refine congrArg Host.Outcome.next ((command_runs_at h hb ?_).trans (if_pos hc))
  subst hc
  simp [hd, hp, hcal]

/-- R69: a LINK of another chip's tree link answers what that chip has measured. -/
theorem exec_timeCalLink_of_other (hc : chip ≠ chipOf b) (hin : inTorus b chip = true)
    (htree : Config.calIsTreeLink b.free = true) : ∃ ws, exec (.timeCalLink via chip port) s =
      .next (respond via rOk ws { b with free := b.free + 1, time := { b.time with result := ws } }) := by
  refine ⟨_, congrArg Host.Outcome.next ((command_runs_at h hb ?_).trans (if_neg hc))⟩
  simp [hd, hc, hin, htree, hcal]

end Link

section Sweep
variable {via : Via} {s b : State} (h : accepted via 0x0060 (.timeCalSweep via) false s = true)
  (hb : begun via 0x0060 (.timeCalSweep via) s = b)
  (hd : denied b via .opPlat .sealedLevel = false) (hcal : b.time.cal = none)
include h hb hd hcal

theorem exec_timeCalSweep_of_root (hr : b.time.root = true) : exec (.timeCalSweep via) s = .next (rootCal 2 via b) := by
  refine congrArg Host.Outcome.next ((command_runs_at h hb ?_).trans (if_pos hr))
  simp [hd, hcal]

theorem exec_timeCalSweep_of_no_parent (hr : b.time.root = false) (hp : b.time.parentPort = none) :
    exec (.timeCalSweep via) s = .next (treeDone 2 (treeWords 2 b.free [] 0 0 b) (ownerOf b via) none
      (respond via rPending [] { b with free := b.free + 1 })) := by
  refine congrArg Host.Outcome.next ((command_runs_at h hb ?_).trans ((if_neg (Bool.eq_false_iff.mp hr)).trans ?_))
  · simp [hd, hcal]
  · simp only [hp]

theorem exec_timeCalSweep_of_parent (hr : b.time.root = false) {p : BitVec 3} (hp : b.time.parentPort = some p) :
    exec (.timeCalSweep via) s = .next (beginCal 2 none (ownerOf b via) p.toNat false false (respond via rPending [] b)) := by
  refine congrArg Host.Outcome.next ((command_runs_at h hb ?_).trans ((if_neg (Bool.eq_false_iff.mp hr)).trans ?_))
  · simp [hd, hcal]
  · simp only [hp]

end Sweep

/-! ## A calibration run as root (R64, R65) -/

/-- The state in which a hub runs a calibration as root. -/
def calRooted (s : State) : State := { s with
  free := s.free + 1
  time := { s.time with
    depth := 0, root := true, parentPort := none, calibrated := true, cal := none, slew := 0, adjust := 0
    state := if s.time.refLost then s.time.state else .locked
    onAo := s.time.onAo && s.time.refLost } }

/-- R69: the tree ends at once, or the root waits for it under a calibration of its own. -/
theorem rootCal_ends_or_waits (mode : Nat) (via : Via) (s : State) :
    let y := respond via rPending [] (calRooted s)
    rootCal mode via s = treeDone mode (treeWords mode s.free [] 0 0 y) (ownerOf s via) none y ∨
      ∃ c : Calibration, c.isRoot = true ∧ rootCal mode via s = { y with time := { y.time with cal := some c } } := by
  by_cases hlate : mode = 0 ∧ Config.calLate s.free = true ∧
      (List.range 6).any (trained (respond via rPending [] (calRooted s))) = true
  · exact .inr ⟨_, rfl, if_pos hlate⟩
  · exact .inl (if_neg hlate)

/-! ## The exchanges (R59 to R61, R470) -/

section Exchange
variable {port : BitVec 3} {depart : Nat} {s : State}

theorem exec_timeExchange_eq (port : BitVec 3) (depart : Nat) (s : State) :
    exec (.timeExchange port depart) s = execTimeExchange port depart s := rfl

theorem exec_timeExchange_of_no_cal (hcal : s.time.cal = none) : exec (.timeExchange port depart) s = .next s := by
  simp only [exec_timeExchange_eq, execTimeExchange, hcal]

/-- The last request, if any, left at least 1 µs before `now`. -/
theorem lastSend_all_iff {c : Calibration} {now : GT} :
    (c.lastSend.all fun t => decide (t + 4000 ≤ now)) = true ↔ ∀ t, c.lastSend = some t → t + 4000 ≤ now := by
  simp only [Option.all_eq_true, decide_eq_true_eq]

/-- R61: the next of sixteen requests leaves on the calibration's port. -/
theorem exec_timeExchange_of_due {c : Calibration} (hcal : s.time.cal = some c) (hport : c.port = port) (hroot : c.isRoot = false)
    (hnext : c.nextExch < 16) (hbasic : basic s = false) (hlast : ∀ t, c.lastSend = some t → t + 4000 ≤ hubAt s depart) :
    exec (.timeExchange port depart) s = .next (sendAt (hubAt s depart) port.toNat false
      (mkFrame s (portOf s port.toNat).neighbour 0x20 0 2 [wn c.nextExch, 0] 16)
      { s with time := { s.time with cal := some { c with
        nextExch := c.nextExch + 1, lastSend := some (hubAt s depart), sent := c.sent ++ [BitVec.ofNat 4 c.nextExch] } } }) := by
  simp only [exec_timeExchange_eq, execTimeExchange, hcal]
  rw [if_pos ⟨hport, hroot, hnext, hbasic, lastSend_all_iff.mpr hlast⟩]

theorem exec_timeExchange_of_not_due {c : Calibration} (hcal : s.time.cal = some c)
    (hnot : c.port ≠ port ∨ c.isRoot = true ∨ 16 ≤ c.nextExch ∨ basic s = true ∨
      ∃ t, c.lastSend = some t ∧ hubAt s depart < t + 4000) : exec (.timeExchange port depart) s = .next s := by
  simp only [exec_timeExchange_eq, execTimeExchange, hcal]
  refine congrArg Host.Outcome.next (if_neg ?_)
  rintro ⟨hport, hroot, hnext, hbasic, hlast⟩
  obtain h | h | h | h | ⟨t, ht, hlt⟩ := hnot
  · exact h hport
  · simp [h] at hroot
  · omega
  · simp [h] at hbasic
  · exact absurd (lastSend_all_iff.mp hlast t ht) (Nat.not_le.mpr hlt)

end Exchange

section Request
variable {port : BitVec 3} (exch : BitVec 4) (t1 : Word) (arrive depart : Nat) {s : State}

/-- R470: a trained port of a serving hub answers in hardware, with its arrival and its departure. -/
theorem exec_timeReqReceive_of_trained (hs : serving s = true) (ht : trained s port.toNat = true) :
    ∃ f : Frame, exec (.timeReqReceive port exch t1 arrive depart) s = .next (sendAt (hubAt s depart) port.toNat false f
      { s with iz := { s.iz with timeAnswers := s.iz.timeAnswers + 1 } }) ∧ f.hdr.resp = true ∧ f.hdr.type = 0x21 ∧
      f.payload = [pk [(0, 4, exch.toNat), (8, 4, timeStateCode s.time.state), (16, 8, s.time.depth.toNat)], t1,
        wn (hubAt s arrive), 0, (s.time.asym.getD port.toNat 0).setWidth 64] :=
  ⟨_, congrArg Host.Outcome.next (if_pos (by rw [hs, ht]; rfl)), rfl, rfl, rfl⟩

theorem exec_timeReqReceive_of_no_answer (hnot : serving s = false ∨ trained s port.toNat = false) :
    exec (.timeReqReceive port exch t1 arrive depart) s = .next s := by
  refine congrArg Host.Outcome.next (if_neg ?_)
  rcases hnot with h | h <;> simp [h]

end Request

section Response
variable {port : BitVec 3} {exch pst : BitVec 4} {depth : BitVec 8} {t1 t2 t3 : Word} {corr : BitVec 32} {arrive : Nat}
  {pre : Bool} {s : State}

/-- R59, R60: the exchange that a response completes. -/
def exchangeOf (port : BitVec 3) (t1 t2 t3 : Word) (corr : BitVec 32) (arrive : Nat) (pre : Bool) (s : State) : Exchange where
  fwd := (t2.toNat : Int) - t1.toNat
  rev := (hubAt s arrive : Int) - t3.toNat
  asym := toSigned 32 (s.time.asym.getD port.toNat 0).toNat - toSigned 32 corr.toNat
  preempted := pre

/-- The calibration with that exchange among those kept. -/
def withExchange (e : Exchange) (exch : BitVec 4) (depth : BitVec 8) (c : Calibration) : Calibration :=
  { c with got := c.got ++ [e], sent := c.sent.filter (· ≠ exch), depth := depth }

theorem exec_timeRspReceive_eq : exec (.timeRspReceive port exch pst depth t1 t2 t3 corr arrive pre) s =
    execTimeRspReceive port exch pst depth t1 t2 t3 corr arrive pre s := rfl

/-- R61: a response of an outstanding request keeps one exchange, and the sixteenth completes the calibration. -/
theorem exec_timeRspReceive_of_outstanding {c : Calibration} (hcal : s.time.cal = some c) (hport : c.port = port)
    (hsent : exch ∈ c.sent) (hpst : pst = 2 ∨ c.measureOnly = true) :
    let c' := withExchange (exchangeOf port t1 t2 t3 corr arrive pre s) exch depth c
    exec (.timeRspReceive port exch pst depth t1 t2 t3 corr arrive pre) s =
      .next (if 16 ≤ c'.got.length then nextRetrained (finishCal c' s)
        else { s with time := { s.time with cal := some c' } }) := by
  simp only [exec_timeRspReceive_eq, execTimeRspReceive, hcal]
  exact congrArg Host.Outcome.next (if_pos ⟨hport, hpst, hsent⟩)

theorem exec_timeRspReceive_of_no_cal (hcal : s.time.cal = none) :
    exec (.timeRspReceive port exch pst depth t1 t2 t3 corr arrive pre) s = .next s := by
  simp only [exec_timeRspReceive_eq, execTimeRspReceive, hcal]

theorem exec_timeRspReceive_of_not_outstanding {c : Calibration} (hcal : s.time.cal = some c)
    (hnot : c.port ≠ port ∨ exch ∉ c.sent ∨ pst ≠ 2 ∧ c.measureOnly = false) :
    exec (.timeRspReceive port exch pst depth t1 t2 t3 corr arrive pre) s = .next s := by
  simp only [exec_timeRspReceive_eq, execTimeRspReceive, hcal]
  refine congrArg Host.Outcome.next (if_neg ?_)
  rintro ⟨hport, hpst, hsent⟩
  obtain h | h | ⟨hstate, hmeasure⟩ := hnot
  · exact h hport
  · exact h hsent
  · exact hpst.elim hstate (by simp [hmeasure])

end Response

/-! ## The deadline (R69) -/

section Deadline
variable {s : State}

theorem exec_timeCalTimeout_eq (s : State) : exec .timeCalTimeout s = execTimeCalTimeout s := rfl

theorem exec_timeCalTimeout_of_no_cal (hcal : s.time.cal = none) : exec .timeCalTimeout s = .next s := by
  simp only [exec_timeCalTimeout_eq, execTimeCalTimeout, hcal]

variable {c : Calibration} (hcal : s.time.cal = some c)
include hcal

theorem exec_timeCalTimeout_of_before (hdue : hubGt s < c.deadline) : exec .timeCalTimeout s = .next s := by
  simp only [exec_timeCalTimeout_eq, execTimeCalTimeout, hcal, if_neg (Nat.not_le.mpr hdue)]

variable (hdue : c.deadline ≤ hubGt s)
include hdue

theorem exec_timeCalTimeout_of_automatic (hauto : c.automatic = true) :
    exec .timeCalTimeout s = .next (nextRetrained (abortCal s)) := by
  simp only [exec_timeCalTimeout_eq, execTimeCalTimeout, hcal, if_pos hdue, if_pos hauto]

/-- R69: the command that waits for the calibration answers TIMEOUT. -/
theorem exec_timeCalTimeout_of_waiting (hauto : c.automatic = false) {v : Via} (hv : c.via = some v) :
    exec .timeCalTimeout s = .next (nextRetrained (respond v rTimeout [] (abortCal s))) := by
  simp only [exec_timeCalTimeout_eq, execTimeCalTimeout, hcal, if_pos hdue, if_neg (Bool.eq_false_iff.mp hauto), hv]

theorem exec_timeCalTimeout_of_tree (hauto : c.automatic = false) (hv : c.via = none) : ∃ ws, exec .timeCalTimeout s =
    .next (nextRetrained (treeDone c.mode.toNat ws c.owner (if c.mode = 0 then some rTimeout else none) (abortCal s))) := by
  simp only [exec_timeCalTimeout_eq, execTimeCalTimeout, hcal, if_pos hdue, if_neg (Bool.eq_false_iff.mp hauto), hv]
  exact ⟨_, rfl⟩

end Deadline

/-! ## The obligation -/

/-- Settles O26: the three forms of TIME_CAL by who is named and what port there is, the exchanges by what is outstanding, and
the timeout by the deadline and by who waits. -/
theorem timeCalibrationComplete : Obligations.TimeCalibrationComplete := by
  refine ⟨⟨fun via root setroot rootGt s h hd hin hcal => ⟨exec_timeCalStart_of_self h rfl hd hin hcal,
        exec_timeCalStart_of_no_port h rfl hd hin hcal, fun p hr => exec_timeCalStart_of_port h rfl hd hin hcal hr⟩,
      fun via chip port s h hd hcal => ⟨exec_timeCalLink_of_self h rfl hd hcal, exec_timeCalLink_of_other h rfl hd hcal⟩,
      fun via s h hd hcal => ⟨exec_timeCalSweep_of_root h rfl hd hcal, exec_timeCalSweep_of_no_parent h rfl hd hcal,
        fun p hr => exec_timeCalSweep_of_parent h rfl hd hcal hr⟩,
      fun mode via s => ⟨calRooted s, rfl, rfl, rfl, rfl, fun h => ?locked, fun h => ?lost,
        rootCal_ends_or_waits mode via s⟩⟩,
    fun port depart s c hcal => ⟨exec_timeExchange_of_due hcal, exec_timeExchange_of_not_due hcal⟩,
    fun port depart s => exec_timeExchange_of_no_cal,
    fun port exch t1 arrive depart s => ⟨exec_timeReqReceive_of_trained exch t1 arrive depart,
      exec_timeReqReceive_of_no_answer exch t1 arrive depart⟩,
    fun port exch pst depth t1 t2 t3 corr arrive pre s c hcal hport hsent hpst => ?response,
    fun port exch pst depth t1 t2 t3 corr arrive pre s h => ?noResponse, fun s => exec_timeCalTimeout_of_no_cal,
    fun s c hcal => ⟨exec_timeCalTimeout_of_before hcal, exec_timeCalTimeout_of_automatic hcal,
      fun hdue hauto v => exec_timeCalTimeout_of_waiting hcal hdue hauto, exec_timeCalTimeout_of_tree hcal⟩⟩
  case locked => exact if_neg (Bool.eq_false_iff.mp h)
  case lost => exact if_pos h
  case response =>
    have hrun := exec_timeRspReceive_of_outstanding (depth := depth) (t1 := t1) (t2 := t2) (t3 := t3) (corr := corr)
      (arrive := arrive) (pre := pre) hcal hport hsent hpst
    have hlen : (withExchange (exchangeOf port t1 t2 t3 corr arrive pre s) exch depth c).got.length = c.got.length + 1 :=
      List.length_append
    exact ⟨_, _, rfl, rfl, rfl, fun hlt => hrun.trans (congrArg Host.Outcome.next (if_neg (by omega))),
      fun hge => hrun.trans (congrArg Host.Outcome.next (if_pos (by omega)))⟩
  case noResponse =>
    obtain hcal | ⟨c, hcal, hnot⟩ := h
    · exact exec_timeRspReceive_of_no_cal hcal
    · exact exec_timeRspReceive_of_not_outstanding hcal hnot

end Sys2Proof.Machine
end

/-! # Narrow sessions (R43, R531, R532, R535, R546, R547, R551) -/
section
namespace Sys2Proof.Machine

/-! ## LOCAL_READ (R547) -/

theorem decide_and_eq_false {p : Prop} [Decidable p] {c : Bool} (h : p → c = false) : (decide p && c) = false := by
  by_cases hp : p
  · rw [h hp, Bool.and_false]
  · rw [decide_eq_false hp, Bool.false_and]

/-- A LOCAL_READ of a well-formed range that its session may read answers the bytes. -/
theorem exec_localRead_of_range {via : Via} {space : BitVec 2} {offset : BitVec 32} {length : BitVec 12} {s b : State}
    (h : accepted via 0x0F00 (.localRead via space offset length) true s = true)
    (hb : begun via 0x0F00 (.localRead via space offset length) s = b) (hn : isNarrow via = true)
    (hd : denied b via .opPlatVen .sealedLevel = false) (hspace : space.toNat < 2) (hlo : 8 ≤ length.toNat)
    (hhi : length.toNat ≤ 3520) (hmod : length.toNat % 8 = 0) (hsize : offset.toNat + length.toNat ≤ localSize b space)
    (hbuf : space = 0 → recordsOf b (whoOf b via) = false ∧ sessionRuns b = false) :
    exec (.localRead via space offset length) s =
      .next (respond via rOk (wordsOf (localBytes b space offset.toNat length.toNat)) b) := by
  refine congrArg Host.Outcome.next (command_runs_at h hb ?_)
  have hlen : ¬ (length.toNat < 8 ∨ 3520 < length.toNat ∨ length.toNat % 8 ≠ 0) := by omega
  have hrange : (decide (2 ≤ space.toNat) || decide (length.toNat < 8 ∨ 3520 < length.toNat ∨ length.toNat % 8 ≠ 0) ||
      decide (localSize b space < offset.toNat + length.toNat)) = false := by
    rw [decide_eq_false hlen, decide_eq_false (Nat.not_le.mpr hspace), decide_eq_false (Nat.not_lt.mpr hsize)]
    rfl
  have hrecords : (decide (space = 0) && recordsOf b (whoOf b via)) = false := decide_and_eq_false fun h0 => (hbuf h0).1
  have hruns : (decide (space = 0) && sessionRuns b) = false := decide_and_eq_false fun h0 => (hbuf h0).2
  rw [hn, hd, hrange, hrecords, hruns]
  simp

/-! ## What ends at an instant (R43, R531, R532, R535) -/

section Expiry
variable {s : State}

theorem expireSession_of_none (h : s.narrow.until_ = none) : expireSession s = s := by
  simp only [expireSession, h]

theorem expireSession_of_over {t : GT} (h : s.narrow.until_ = some t) (ht : t ≤ hubGt s) : expireSession s = endSession s := by
  simp only [expireSession, h, if_pos ht]

theorem expireSession_of_running {t : GT} (h : s.narrow.until_ = some t) (ht : hubGt s < t) : expireSession s = s := by
  simp only [expireSession, h, if_neg (Nat.not_le.mpr ht)]

theorem exec_inclGrantExpiry_eq (platform : Bool) (s : State) :
    exec (.inclGrantExpiry platform) s = execInclGrantExpiry platform s := rfl

variable {platform : Bool} {g : InclGrant}

theorem exec_inclGrantExpiry_of_over (hg : grantOf s (some (if platform then .platform else .operator)) = some g)
    (ht : g.notAfter.toNat ≤ hubGt s) :
    exec (.inclGrantExpiry platform) s = .next (endGrant (if platform then 2 else 1) s) := by
  simp only [exec_inclGrantExpiry_eq, execInclGrantExpiry, hg, if_pos ht]

theorem exec_inclGrantExpiry_of_running (hg : grantOf s (some (if platform then .platform else .operator)) = some g)
    (ht : hubGt s < g.notAfter.toNat) : exec (.inclGrantExpiry platform) s = .next s := by
  simp only [exec_inclGrantExpiry_eq, execInclGrantExpiry, hg, if_neg (Nat.not_le.mpr ht)]

theorem exec_sessionExpiry_eq (s : State) : exec .sessionExpiry s = .next (expireSession s) := rfl

theorem exec_lockoutExpiry_eq (s : State) : exec .lockoutExpiry s = execLockoutExpiry s := rfl

theorem exec_lockoutExpiry_of_over {t : GT} (h : s.protect.lockedUntil = some t) (ht : t ≤ hubGt s) :
    exec .lockoutExpiry s = .next { s with protect := { s.protect with lockedUntil := none } } := by
  simp only [exec_lockoutExpiry_eq, execLockoutExpiry, h, if_pos ht]

theorem exec_lockoutExpiry_of_running {t : GT} (h : s.protect.lockedUntil = some t) (ht : hubGt s < t) :
    exec .lockoutExpiry s = .next s := by
  simp only [exec_lockoutExpiry_eq, execLockoutExpiry, h, if_neg (Nat.not_le.mpr ht)]

/-- R532: a session that has ended has no frame waiting. -/
theorem endSession_outQ (s : State) : (endSession s).narrow.outQ = [] := rfl

theorem freshSession_of_not_manufacture {lc : Lifecycle} (h : lc ≠ .manufacture) (n : Narrow) :
    freshSession lc n = { n with level := .sealedLevel, who := none, until_ := none } := if_neg h

/-- R532: but in MANUFACTURE it is SEALED. -/
theorem endSession_level (h : s.fuses.lifecycle ≠ .manufacture) : (endSession s).narrow.level = .sealedLevel := by
  simp only [endSession, freshSession_of_not_manufacture h]

theorem endSession_who (h : s.fuses.lifecycle ≠ .manufacture) : (endSession s).narrow.who = none := by
  simp only [endSession, freshSession_of_not_manufacture h]

end Expiry

/-! ## RESPONSE (R535, R542, R543) -/

/-- The narrow port once RESPONSE has captured the last response's result. -/
def responseCaptured (n : Narrow) : Narrow :=
  { n with ir := 0x11, drCapture := n.respResult.setWidth 64 :: List.replicate 31 0 }

section Response
variable {bs : List Byte} {s e : State} (hpow : s.power ≠ .off) (hlim : limited s = false) (he : expireSession s = e)
include hpow hlim he

theorem exec_response_of_locked (hlock : locked e = true) :
    exec (.response bs) s = .next { e with narrow := { responseCaptured e.narrow with respResult := rBusy } } := by
  subst he
  exact congrArg Host.Outcome.next ((if_neg hpow).trans ((if_neg (Bool.eq_false_iff.mp hlim)).trans (if_pos hlock)))

/-- R535: a response that is admitted opens its session. -/
theorem exec_response_of_granted (hlock : locked e = false) {l : DebugLevel} {w : Principal} {t : GT}
    (hgrant : responseGrants e (wordsOf (bs.take 64)) ((bs.drop 64).take 96) ((bs.drop 160).take 96) = some (l, w, t)) :
    exec (.response bs) s = .next { e with
      narrow := { responseCaptured e.narrow with
        challenge := none, level := l, who := some w, until_ := some t, respResult := rOk }
      protect := { e.protect with fails := 0 } } := by
  subst he
  refine congrArg Host.Outcome.next ((if_neg hpow).trans ((if_neg (Bool.eq_false_iff.mp hlim)).trans
    ((if_neg (Bool.eq_false_iff.mp hlock)).trans ?_)))
  simp only [hgrant]
  rfl

/-- R535: any other is a failure, and from the eighth on locks the port out. -/
theorem exec_response_of_refused (hlock : locked e = false)
    (hgrant : responseGrants e (wordsOf (bs.take 64)) ((bs.drop 64).take 96) ((bs.drop 160).take 96) = none) :
    exec (.response bs) s = .next { e with
      narrow := { responseCaptured e.narrow with challenge := none, respResult := rDenied }
      protect := { e.protect with
        fails := satInc e.protect.fails
        lockedUntil := if 8 ≤ satInc e.protect.fails then some (hubGt e + 40000000000) else e.protect.lockedUntil } } := by
  subst he
  refine congrArg Host.Outcome.next ((if_neg hpow).trans ((if_neg (Bool.eq_false_iff.mp hlim)).trans
    ((if_neg (Bool.eq_false_iff.mp hlock)).trans ?_)))
  simp only [hgrant]
  rfl

end Response

/-! ## DWEP_UPDATE and a relayed request's timeout (R546, R547, R551) -/

section Frames
variable {s : State}

theorem exec_dwepUpdate_of_powered (hpow : s.power ≠ .off) (hlim : limited s = false) (shifted : List Word) (whole : Bool) :
    exec (.dwepUpdate shifted whole) s = .next (judgePass shifted { expireSession s with
      narrow := releaseOffered whole (expireSession s).narrow }) :=
  congrArg Host.Outcome.next (if_neg (by simp [hpow, hlim]))

/-- R546: a pass whose first word has type 0 shifts no frame in. -/
theorem judgePass_of_no_frame {ws : List Word} (h : bits (ws.getD 0 0) 63 60 = 0) (s : State) : judgePass ws s = s :=
  if_pos h

theorem exec_narrowRemoteTimeout_eq (seq : BitVec 16) (s : State) :
    exec (.narrowRemoteTimeout seq) s = execNarrowRemoteTimeout seq s := rfl

variable {seq : BitVec 16} {o : OpenReq} {dst : BitVec 16} {ix : Nat} {t : GT}
  (ho : (s.narrow.open_.find? fun o => o.seq == seq && o.remote.isSome && !o.answered) = some o)
  (hr : o.remote = some (dst, ix, t))
include ho hr

/-- R551: the request is answered TIMEOUT for the chip it was relayed to, and its tracker entry closed. -/
theorem exec_narrowRemoteTimeout_of_over (ht : t ≤ hubGt s) {e : TrackEntry} (he : tget ix s.iz.tracker = some e)
    (hw : responseWaits s ix e = false) :
    exec (.narrowRemoteTimeout seq) s = .next (answerOpen o.key dst rTimeout (closeTrack ix s)) := by
  simp only [exec_narrowRemoteTimeout_eq, execNarrowRemoteTimeout, ho, hr, he, hw, if_pos, ht, and_self]

theorem exec_narrowRemoteTimeout_of_running (ht : hubGt s < t) : exec (.narrowRemoteTimeout seq) s = .next s := by
  simp only [exec_narrowRemoteTimeout_eq, execNarrowRemoteTimeout, ho, hr, Nat.not_le.mpr ht, false_and, if_false]

end Frames

/-! ## The obligation -/

/-- Settles O30: each expiry by whether its instant has come, RESPONSE by the lockout and by what `responseGrants` says. -/
theorem narrowSessionsComplete : Obligations.NarrowSessionsComplete := by
  refine ⟨⟨fun via space offset length s h => ?localRead,
      fun platform s g hg => ⟨exec_inclGrantExpiry_of_over hg, exec_inclGrantExpiry_of_running hg⟩,
      fun s t ht => ⟨fun hover => ?sessionOver, fun hrun => ?sessionRuns⟩, fun s hnone => ?noSession,
      fun s t ht => ⟨exec_lockoutExpiry_of_over ht, exec_lockoutExpiry_of_running ht⟩,
      fun s => ⟨endSession_outQ s, fun hlc => ⟨endSession_level hlc, endSession_who hlc⟩⟩⟩,
    fun bs s hpow hlim => ⟨exec_response_of_locked hpow hlim rfl,
      fun l w t hlock => exec_response_of_granted hpow hlim rfl hlock, exec_response_of_refused hpow hlim rfl⟩,
    fun shifted whole s hpow hlim => ⟨exec_dwepUpdate_of_powered hpow hlim shifted whole, fun hnone => ?noFrame⟩,
    fun seq s o dst ix t ho hr => ⟨fun e ht => exec_narrowRemoteTimeout_of_over ho hr ht,
      exec_narrowRemoteTimeout_of_running ho hr⟩⟩
  case localRead =>
    intro b n hn hd hspace hlo hhi hmod hsize hbuf
    exact exec_localRead_of_range h rfl hn hd hspace hlo hhi hmod hsize hbuf
  case sessionOver => rw [exec_sessionExpiry_eq, expireSession_of_over ht hover]
  case sessionRuns => rw [exec_sessionExpiry_eq, expireSession_of_running ht hrun]
  case noSession => rw [exec_sessionExpiry_eq, expireSession_of_none hnone]
  case noFrame => rw [exec_dwepUpdate_of_powered hpow hlim, judgePass_of_no_frame hnone]

end Sys2Proof.Machine
end

/-! # Leaf rows (R50, R74, R75, R133, R135, R164, R178, R185, R285) -/
section
namespace Sys2Proof.Machine

/-- A key's own value in a table changed at that key. -/
theorem tget_tmod_same {α : Type} (k : Nat) (f : α → α) (t : Tab α) : tget k (tmod k f t) = (tget k t).map f := by
  induction t with
  | nil => rfl
  | cons p t ih =>
    obtain ⟨k', v⟩ := p
    by_cases hk : k' = k
    · simp [tmod, tget, hk]
    · simp [tmod, tget, hk, ih]

/-! ## Stalls and PROG records (R164, R285) -/

section Records
variable {core : CoreIx} {eng : EngIx} {cyc : Nat} {s : State} {co : Core} (hc : coreOf s core.toNat = some co)
  (hv : leafValid s (clusterOf core.toNat) = true)

theorem exec_crockStallEntry_eq (core : CoreIx) (eng : EngIx) (cyc : Nat) (s : State) :
    exec (.crockStallEntry core eng cyc) s = execCrockStallEntry core eng cyc s := rfl

theorem exec_progRecordTimeout_eq (core : CoreIx) (eng : EngIx) (cyc : Nat) (s : State) :
    exec (.progRecordTimeout core eng cyc) s = execProgRecordTimeout core eng cyc s := rfl

include hc hv in
/-- R285: a stall of 256 GT is put in the crock, stamped at its start. -/
theorem exec_crockStallEntry_of_due (hrep : (engOf co eng.toNat).lRep = 2) (hnew : (engOf co eng.toNat).stallLogged = false)
    (hlast : (engOf co eng.toNat).lReason + 256 ≤ leafGt s (clusterOf core.toNat) cyc) :
    exec (.crockStallEntry core eng cyc) s = .next (modEng core.toNat eng.toNat (fun x => { x with stallLogged := true })
      (crockPut core.toNat eng.toNat 3 (engOf co eng.toNat).lCur
        ((engOf co eng.toNat).lStall.toNat * 2 ^ 32 + (engOf co eng.toNat).lChan.toNat) (engOf co eng.toNat).lReason s)) := by
  simp only [exec_crockStallEntry_eq, execCrockStallEntry, hc, Option.map_some]
  exact congrArg Host.Outcome.next (if_pos (by simp only [hrep, hnew, hv, hlast]; rfl))

include hc in
theorem exec_crockStallEntry_of_not_due (hnot : (engOf co eng.toNat).lRep ≠ 2 ∨ (engOf co eng.toNat).stallLogged = true ∨
    leafGt s (clusterOf core.toNat) cyc < (engOf co eng.toNat).lReason + 256) :
    exec (.crockStallEntry core eng cyc) s = .next s := by
  simp only [exec_crockStallEntry_eq, execCrockStallEntry, hc, Option.map_some]
  refine congrArg Host.Outcome.next (if_neg ?_)
  obtain hrep | hlogged | hearly := hnot
  · simp only [decide_eq_false hrep, Bool.false_and]
    exact Bool.false_ne_true
  · simp only [hlogged, Bool.not_true, Bool.and_false, Bool.false_and]
    exact Bool.false_ne_true
  · simp only [decide_eq_false (Nat.not_le.mpr hearly), Bool.and_false]
    exact Bool.false_ne_true

/-- The leaf's increment per observation cycle (R47). -/
def leafInc (s : State) (cl : Nat) : Nat := ((tget cl s.leaves).map (·.interp.inc)).getD 0

include hc hv in
/-- R164: 64 observation cycles after its first entry a PROG record is closed. -/
theorem exec_progRecordTimeout_of_due {p : ProgOpen} (hp : (engOf co eng.toNat).prog = some p)
    (hdue : p.first + 64 * leafInc s (clusterOf core.toNat) / 65536 ≤ leafGt s (clusterOf core.toNat) cyc) :
    exec (.progRecordTimeout core eng cyc) s =
      .next (traceFlush (clusterOf core.toNat) (closeProg core.toNat eng.toNat none s)) := by
  simp only [exec_progRecordTimeout_eq, execProgRecordTimeout, hc, Option.bind_some, hp]
  exact congrArg Host.Outcome.next (if_pos (Bool.and_eq_true_iff.mpr ⟨hv, decide_eq_true hdue⟩))

include hc in
theorem exec_progRecordTimeout_of_before {p : ProgOpen} (hp : (engOf co eng.toNat).prog = some p)
    (hearly : leafGt s (clusterOf core.toNat) cyc < p.first + 64 * leafInc s (clusterOf core.toNat) / 65536) :
    exec (.progRecordTimeout core eng cyc) s = .next s := by
  simp only [exec_progRecordTimeout_eq, execProgRecordTimeout, hc, Option.bind_some, hp]
  refine congrArg Host.Outcome.next (if_neg fun h => ?_)
  exact Nat.not_le.mpr hearly (of_decide_eq_true (Bool.and_eq_true_iff.mp h).2)

include hc in
theorem exec_progRecordTimeout_of_none (hp : (engOf co eng.toNat).prog = none) :
    exec (.progRecordTimeout core eng cyc) s = .next s := by
  simp only [exec_progRecordTimeout_eq, execProgRecordTimeout, hc, Option.bind_some, hp]

end Records

/-! ## The observation link (R50, R74, R75, R178) -/

section ObsLink
variable {core : CoreIx} {cyc : Nat} {s : State} {co : Core} (hc : coreOf s core.toNat = some co)

theorem exec_obsLinkWordRead_eq (core : CoreIx) (cyc : Nat) (s : State) :
    exec (.obsLinkWordRead core cyc) s = execObsLinkWordRead core cyc s := rfl

theorem exec_clockStopDetect_eq (core : CoreIx) (cyc : Nat) (s : State) :
    exec (.clockStopDetect core cyc) s = execClockStopDetect core cyc s := rfl

/-- The core after the leaf has read `w` from it, `rest` being the core without the word: its link's stamp and count of reads,
and where it stands in the map of core cycles to stamps (R50). -/
def coreAfterRead (s : State) (cl cyc : Nat) (co : Core) (w : UpWord) (rest : Core) : Core :=
  { rest with
    lastStamp := (wordStamp s cl cyc co w).1, clockStopped := false, reads := (wordStamp s cl cyc co w).2
    readAt := linkStamp s cl cyc
    lastFin := match w.kind with | .fin e _ _ _ _ _ _ => some e | _ => none
    map := mapTake w.cc (wordStamp s cl cyc co w).1 (if co.clockStopped then {} else rest.map) }

include hc

theorem exec_obsLinkWordRead_of_empty (hu : upTake co = none) : exec (.obsLinkWordRead core cyc) s = .next s := by
  simp only [exec_obsLinkWordRead_eq, execObsLinkWordRead, hc, hu]

theorem exec_obsLinkWordRead_of_invalid (hv : leafValid s (clusterOf core.toNat) = false) :
    exec (.obsLinkWordRead core cyc) s = .next s := by
  cases hu : upTake co with
  | none => exact exec_obsLinkWordRead_of_empty hc hu
  | some p =>
    simp only [exec_obsLinkWordRead_eq, execObsLinkWordRead, hc, hu, hv, Bool.false_and, Bool.false_eq_true, if_false]

/-- R50: a word taken is merged under its stamp; after a clock taken as stopped the core's times begin anew. -/
theorem exec_obsLinkWordRead_of_word (hs : serving s = true) {w : UpWord} {rest : Core} (hu : upTake co = some (w, rest))
    (hv : leafValid s (clusterOf core.toNat) = true) : exec (.obsLinkWordRead core cyc) s =
      .next (let c := core.toNat
        let cl := clusterOf c
        let g := (wordStamp s cl cyc co w).1
        let k := mergedKind s c co w.kind
        let r := modCore c (fun _ => coreAfterRead s cl cyc co w rest) s
        leafMerge cl (addEvent cl g (.word c k) (readKind c k co.lastStamp g
          (if co.clockStopped then restartBlock c r else r)))) := by
  simp only [exec_obsLinkWordRead_eq, execObsLinkWordRead, hc, hu, hv, hs, Bool.and_self, if_true]
  rfl

theorem exec_clockStopDetect_of_not_silent (hnot : linkSilent s (clusterOf core.toNat) cyc co = false ∨
    co.clockStopped = true ∨ co.quietStamp.isSome = true) : exec (.clockStopDetect core cyc) s = .next s := by
  simp only [exec_clockStopDetect_eq, execClockStopDetect, hc]
  refine congrArg Host.Outcome.next (if_pos ?_)
  rcases hnot with h | h | h <;> simp only [h, Bool.not_false, Bool.true_or, Bool.or_true]

variable (hs : serving s = true) (hq : linkSilent s (clusterOf core.toNat) cyc co = true) (hrun : co.clockStopped = false)
  (hquiet : co.quietStamp = none)
include hs hq hrun hquiet

/-- R74: the clock of a silent core of which the leaf knows no INFLIGHT is taken as stopped. -/
theorem exec_clockStopDetect_of_unknown (hi : synthInflight s core.toNat co = none) : exec (.clockStopDetect core cyc) s =
    .next (let c := core.toNat
      leafMerge (clusterOf c) (withdrawCore c (skimGap c false (modCore c (fun x => { x with clockStopped := true }) s)))) := by
  simp only [exec_clockStopDetect_eq, execClockStopDetect, hc]
  refine congrArg Host.Outcome.next ((if_neg ?_).trans ?_)
  · simp [hs, hq, hrun, hquiet]
  · simp only [hi]

/-- R75, R178: of any other the leaf brings QUIET under the last stamp. -/
theorem exec_clockStopDetect_of_inflight {infl : BitVec 8} (hi : synthInflight s core.toNat co = some infl) :
    exec (.clockStopDetect core cyc) s =
      .next (let c := core.toNat
        let cl := clusterOf c
        let k := UpKind.quiet infl 0 0 true []
        leafMerge cl (addEvent cl co.lastStamp (.word c k) (readKind c k co.lastStamp co.lastStamp
          (enterQuiet c (modCore c (fun x => { x with quietDone := true, pailLoss := 0xF }) s))))) := by
  simp only [exec_clockStopDetect_eq, execClockStopDetect, hc]
  refine congrArg Host.Outcome.next ((if_neg ?_).trans ?_)
  · simp [hs, hq, hrun, hquiet]
  · simp only [hi]

end ObsLink

/-! ## Counter crossings (R185) -/

section Crossing
variable {core : CoreIx} {eng : EngIx} {dc : Nat} {i : BitVec 4} {s : State} {co : Core}

/-- A watched counter of a present engine has reached its threshold and not crossed since it was below. -/
def crossingDue (b : State) (c e i : Nat) (co : Core) : Bool :=
  cmpCounter (newestBlock b (clusterOf c)) i c e && slotReached (newestBlock b (clusterOf c)) i co e &&
    !(engOf co e).crossed.getLsbD i && engPresent co e

theorem exec_counterCrossing_of_taken (hp : portTaken s core.toNat = true)
    (hc : coreOf (rowState core.toNat dc s) core.toNat = some co) :
    exec (.counterCrossing core eng dc i) s = .next (let c := core.toNat
      let e := eng.toNat
      let b := rowState c dc s
      if crossingDue b c e i.toNat co then
        upPush c (.crossing i eng (cycleTags (engOf co e)))
          (modEng c e (fun en => { en with crossed := setBit en.crossed i.toNat true }) b)
      else b) := by
  refine congrArg Host.Outcome.next ((tapRow_taken hp dc 0 _).trans ?_)
  simp only [hc]
  rfl

theorem crossingDue_eq_true {b : State} {c e i : Nat} (hpres : engPresent co e = true)
    (hcmp : cmpCounter (newestBlock b (clusterOf c)) i c e = true)
    (hslot : slotReached (newestBlock b (clusterOf c)) i co e = true) (hnew : (engOf co e).crossed.getLsbD i = false) : crossingDue b c e i co = true := by
  rw [crossingDue, hpres, hcmp, hslot, hnew]
  rfl

theorem crossingDue_eq_false {b : State} {c e i : Nat} (hnot : engPresent co e = false ∨
    cmpCounter (newestBlock b (clusterOf c)) i c e = false ∨ slotReached (newestBlock b (clusterOf c)) i co e = false ∨
    (engOf co e).crossed.getLsbD i = true) : crossingDue b c e i co = false := by
  rw [crossingDue]
  rcases hnot with h | h | h | h <;> simp [h]

end Crossing

/-! ## Accounts (R133, R135) -/

section Accounts
variable {s : State} {a : Account} {l : List Account}

theorem exec_accountWord_eq (s : State) : exec .accountWord s = execAccountWord s := rfl

theorem exec_accountWord_of_none (h : s.accounts = []) : exec .accountWord s = .next s := by
  simp only [exec_accountWord_eq, execAccountWord, h]

/-- The context table's entry with an account's cycles, and its end where it has one. -/
def accountedCtx (a : Account) (x : Ctx) : Ctx :=
  match a.ended with
  | none => { x with busy := x.busy + wn a.cycles, accrued := true }
  | some st => countEnd st { x with busy := x.busy + wn a.cycles, accrued := true }

/-- The state in which the oldest account has been added to its context. -/
def accountAdded (a : Account) (l : List Account) (s : State) : State :=
  { s with accounts := l, ctxs := tmod a.ctx.toNat (accountedCtx a) s.ctxs }

theorem tget_accountAdded {x : Ctx} (hx : tget a.ctx.toNat s.ctxs = some x) :
    tget a.ctx.toNat (accountAdded a l s).ctxs = some (accountedCtx a x) := by
  simp only [accountAdded, tget_tmod_same, hx, Option.map_some]

variable (h : s.accounts = a :: l) (hs : serving s = true)
include h hs

/-- R133, R135: an account of a defined context is added to it, and an end resolves what waits for it. -/
theorem exec_accountWord_of_defined {x : Ctx} (hx : tget a.ctx.toNat s.ctxs = some x) (hd : x.defined = true) :
    exec .accountWord s =
      .next (if a.ended.isSome then contextEnded a.ctx.toNat (accountAdded a l s) else accountAdded a l s) := by
  have hdef : ctxDefined { s with accounts := l } a.ctx.toNat = true := by
    simp only [ctxDefined, hx, Option.map_some, Option.getD_some, hd]
  simp only [exec_accountWord_eq, execAccountWord, h]
  exact congrArg Host.Outcome.next ((if_neg (by simp [hs])).trans (if_pos hdef))

/-- R135: of a context not defined only the end counts, as unattributed. -/
theorem exec_accountWord_of_undefined (hd : ctxDefined s a.ctx.toNat = false) : exec .accountWord s = .next { s with
    accounts := l, ao := if a.ended.isSome then { s.ao with unattrib := s.ao.unattrib + 1 } else s.ao } := by
  have hundef : ¬ ctxDefined { s with accounts := l } a.ctx.toNat = true := Bool.eq_false_iff.mp hd
  simp only [exec_accountWord_eq, execAccountWord, h]
  refine congrArg Host.Outcome.next ((if_neg (by simp [hs])).trans ((if_neg hundef).trans ?_))
  split <;> rfl

end Accounts

/-! ## The obligation -/

/-- Settles O45: each row of the leaf by whether its instant has come and what it finds, the crossing on the row state. -/
theorem leafRowsComplete : Obligations.LeafRowsComplete := by
  refine ⟨fun core eng cyc s co hc hv => ⟨exec_crockStallEntry_of_due hc hv, exec_crockStallEntry_of_not_due hc,
      fun p => exec_progRecordTimeout_of_due hc hv, fun p => exec_progRecordTimeout_of_before hc,
      exec_progRecordTimeout_of_none hc⟩,
    fun core cyc s co hc hs => ⟨exec_obsLinkWordRead_of_empty hc, fun w rest => exec_obsLinkWordRead_of_word hc hs,
      exec_obsLinkWordRead_of_invalid hc, exec_clockStopDetect_of_not_silent hc,
      fun hq hrun hquiet => ⟨exec_clockStopDetect_of_unknown hc hs hq hrun hquiet,
        fun infl => exec_clockStopDetect_of_inflight hc hs hq hrun hquiet⟩⟩,
    fun core eng dc i s co hp hc => ⟨fun hpres hcmp hslot hnew => ?crosses, fun hnot => ?noCrossing⟩,
    fun s => exec_accountWord_of_none, fun s a l x h hs hx hd => ?defined, fun s a l => exec_accountWord_of_undefined⟩
  case crosses =>
    exact (exec_counterCrossing_of_taken hp hc).trans
      (congrArg Host.Outcome.next (if_pos (crossingDue_eq_true hpres hcmp hslot hnew)))
  case noCrossing =>
    exact (exec_counterCrossing_of_taken hp hc).trans
      (congrArg Host.Outcome.next (if_neg (Bool.eq_false_iff.mp (crossingDue_eq_false hnot))))
  case defined =>
    have hrun := exec_accountWord_of_defined h hs hx hd
    refine ⟨accountAdded a l s, accountedCtx a x, rfl, tget_accountAdded hx, fun hnone => ?_, fun st hst => ?_⟩
    · exact ⟨hrun.trans (by rw [hnone]; rfl), by rw [accountedCtx, hnone]⟩
    · exact ⟨hrun.trans (by rw [hst]; rfl), by rw [accountedCtx, hst]⟩

end Sys2Proof.Machine
end

/-! # Rind rows (R79, R256 to R259, R410 to R412, R595, R596, R598) -/
section
namespace Sys2Proof.Machine

/-! ## The verdict on a packet (R256, R410, R411, R595, R598) -/

/-- A cut of the rind holds a packet of this tag: it departed at or after T, or the rind's GT is not valid (R256). -/
def rindCutHolds (s : State) (n : Nat) (tagged : Bool) (tag : BitVec 20) (g : GT) : Bool :=
  tagged && (rindCuts s).any fun x => !tpValid s n || postTag g x.t tag

/-- A reply of an old generation on a link that checks it (R410). -/
def rindStale (s : State) (n : Nat) (reply : Bool) (echo : BitVec 16) (dpart : PartIx) : Bool :=
  reply && !s.ties.linkNogen.getLsbD n && decide (echo ≠ s.gens.chip ++ partGen s dpart.toNat)

section Verdict
variable {s : State} {n : Nat} (tagged : Bool) (tag : BitVec 20) (reply : Bool) (echo : BitVec 16) (dpart : PartIx) (g : GT)

theorem rindVerdict_of_closed (hclosed : (s.rind.links.getD n {}).closed = true) :
    rindVerdict s n tagged tag reply echo dpart g = (2, false) := if_pos hclosed

variable (hopen : (s.rind.links.getD n {}).closed = false)
include hopen

theorem rindVerdict_of_held (hheld : (s.rind.links.getD n {}).held = true) :
    rindVerdict s n tagged tag reply echo dpart g = (1, false) :=
  (if_neg (Bool.eq_false_iff.mp hopen)).trans (if_pos hheld)

variable (hfree : (s.rind.links.getD n {}).held = false)
include hfree

theorem rindVerdict_of_cutHolds (hcut : rindCutHolds s n tagged tag g = true) :
    rindVerdict s n tagged tag reply echo dpart g = (1, false) :=
  (if_neg (Bool.eq_false_iff.mp hopen)).trans ((if_neg (Bool.eq_false_iff.mp hfree)).trans (if_pos hcut))

/-- With no hold the generations alone decide. -/
theorem rindVerdict_of_no_hold (hcut : rindCutHolds s n tagged tag g = false) :
    rindVerdict s n tagged tag reply echo dpart g = if rindStale s n reply echo dpart then (2, true) else (0, false) :=
  (if_neg (Bool.eq_false_iff.mp hopen)).trans ((if_neg (Bool.eq_false_iff.mp hfree)).trans (if_neg (Bool.eq_false_iff.mp hcut)))

end Verdict

/-! ## Packets of a link (R79, R257 to R259, R412, R596) -/

section Packets
variable {link : BitVec 4} {s : State}

/-- A link after a packet with verdict `v`: `tg` says that the packet's tag is judged, `g` is the rind's GT. -/
def rindLinkAfter (tg closed : Bool) (tag : BitVec 20) (g : GT) (v : Nat × Bool) (y : RindLink) : RindLink :=
  { y with
    verdict := BitVec.ofNat 2 v.1
    held := y.held || decide (v.1 = 1)
    lastTag := if tg = true ∧ v.1 = 0 then some tag else y.lastTag
    lastG := if tg = true ∧ v.1 = 0 then g else y.lastG
    closedDrop := if closed = true then satInc y.closedDrop else y.closedDrop
    genDrop := if v.2 = true then satInc y.genDrop else y.genDrop }

/-- What a cut of the rind counts of that packet. -/
def cutLinkAfter (tg closed : Bool) (v : Nat × Bool) (k : CutLink) : CutLink :=
  { k with
    held := if v.1 = 1 then satInc k.held else k.held
    untagged := if tg = false ∧ closed = false then satInc k.untagged else k.untagged }

theorem exec_rindPacket_of_present (hpres : s.ties.linkPresent.getLsbD link.toNat = true) (hs : serving s = true)
    (tagged : Bool) (tag : BitVec 20) (reply : Bool) (echo : BitVec 16) (dpart : PartIx) (g : GT) :
    exec (.rindPacket link tagged tag reply echo dpart g) s =
      .next (let n := link.toNat
        let tg := tagged && !s.ties.linkUntagged.getLsbD n
        let closed := (s.rind.links.getD n {}).closed
        let v := rindVerdict s n tg tag reply echo dpart g
        countLink n (cutLinkAfter tg closed v) (modRind n (rindLinkAfter tg closed tag g v) s)) := by
  refine congrArg Host.Outcome.next ((if_pos (by rw [hpres, hs]; rfl)).trans ?_)
  dsimp only
  generalize (tagged && !s.ties.linkUntagged.getLsbD link.toNat) = tg
  simp only [Bool.and_eq_true, Bool.not_eq_true', decide_eq_true_eq]
  rfl

theorem exec_rindTxDrop_of_present (hpres : s.ties.linkPresent.getLsbD link.toNat = true) (hs : serving s = true) :
    exec (.rindTxDrop link) s = .next (modRind link.toNat (fun l =>
      if l.closed then { l with closedDrop := satInc l.closedDrop } else l) s) :=
  congrArg Host.Outcome.next (if_pos (by rw [hpres, hs]; rfl))

variable (habs : s.ties.linkPresent.getLsbD link.toNat = false)
include habs

theorem exec_rindPacket_of_absent (tagged : Bool) (tag : BitVec 20) (reply : Bool) (echo : BitVec 16) (dpart : PartIx) (g : GT) :
    exec (.rindPacket link tagged tag reply echo dpart g) s = .next s :=
  congrArg Host.Outcome.next (if_neg (by simp [habs]))

theorem exec_rindTxDrop_of_absent : exec (.rindTxDrop link) s = .next s :=
  congrArg Host.Outcome.next (if_neg (by simp [habs]))

end Packets

/-! ## The opening of links (R596) -/

section Opens
variable (s : State)

/-- The links that an instant which has come names. -/
def linksDue (s : State) : BitVec 16 :=
  (s.rec_.opens.filter fun q => decide (q.1 ≤ hubGt s)).foldl (fun b q => b ||| q.2) 0

theorem getLsbD_foldl_or {w : Nat} (l : List (GT × BitVec w)) (b : BitVec w) (n : Nat) :
    (l.foldl (fun b q => b ||| q.2) b).getLsbD n = (b.getLsbD n || l.any fun q => q.2.getLsbD n) := by
  induction l generalizing b with
  | nil => simp
  | cons q l ih => rw [List.foldl_cons, ih, BitVec.getLsbD_or, List.any_cons, Bool.or_assoc]

theorem linksDue_getLsbD (n : Nat) :
    (linksDue s).getLsbD n = s.rec_.opens.any fun q => decide (q.1 ≤ hubGt s) && q.2.getLsbD n := by
  have hzero : (0 : BitVec 16).getLsbD n = false := BitVec.getLsbD_zero
  rw [linksDue, getLsbD_foldl_or, hzero, Bool.false_or, List.any_filter]

/-- The state after RIND_LINKS_OPEN. -/
def linksOpened (s : State) : State := { s with
  rec_ := { s.rec_ with opens := s.rec_.opens.filter fun q => decide (hubGt s < q.1) }
  rind := { s.rind with
    links := s.rind.links.zipIdx.map fun p => if (linksDue s).getLsbD p.2 then { p.1 with closed := false } else p.1 } }

theorem exec_rindLinksOpen_eq : exec .rindLinksOpen s = .next (linksOpened s) := by
  have hkept : (s.rec_.opens.filter fun q => decide (¬ q.1 ≤ hubGt s)) = s.rec_.opens.filter fun q => decide (hubGt s < q.1) :=
    List.filter_congr fun q _ => decide_eq_decide.mpr Nat.not_le
  rw [linksOpened, ← hkept]
  rfl

theorem linksOpened_links_length : (linksOpened s).rind.links.length = s.rind.links.length := by
  rw [linksOpened, List.length_map, List.length_zipIdx]

/-- R596: a link is opened where an instant that has come names it, and else is as it was. -/
theorem linksOpened_link {n : Nat} {l : RindLink} (hl : s.rind.links[n]? = some l) :
    (linksOpened s).rind.links[n]? = some (if (s.rec_.opens.any fun q =>
      decide (q.1 ≤ hubGt s) && q.2.getLsbD n) = true then { l with closed := false } else l) := by
  rw [← linksDue_getLsbD, linksOpened, List.getElem?_map, List.getElem?_zipIdx, hl, Nat.zero_add]
  rfl

end Opens

/-! ## The obligation -/

/-- Settles O50: the packet rows by whether the link is present, the verdict by what holds first, the opening link by link. -/
theorem rindRowsComplete : Obligations.RindRowsComplete := by
  refine ⟨fun link tagged tag reply echo dpart g s hpres hs => ?packet,
    fun link tagged tag reply echo dpart g s habs =>
      ⟨exec_rindPacket_of_absent habs tagged tag reply echo dpart g, exec_rindTxDrop_of_absent habs⟩,
    fun link s => exec_rindTxDrop_of_present,
    fun s => ⟨_, exec_rindLinksOpen_eq s, rfl, rfl, linksOpened_links_length s, fun n l => linksOpened_link s⟩⟩
  case packet =>
    refine ⟨exec_rindPacket_of_present hpres hs tagged tag reply echo dpart g, rindVerdict_of_closed _ tag reply echo dpart g,
      rindVerdict_of_held _ tag reply echo dpart g, rindVerdict_of_cutHolds _ tag reply echo dpart g,
      fun hopen hfree hcut hstale => ?_, fun hopen hfree hcut hstale => ?_⟩
    · exact (rindVerdict_of_no_hold _ tag reply echo dpart g hopen hfree hcut).trans (if_pos hstale)
    · exact (rindVerdict_of_no_hold _ tag reply echo dpart g hopen hfree hcut).trans (if_neg (Bool.eq_false_iff.mp hstale))

end Sys2Proof.Machine
end

/-! # Cores under the operations of the shim (R88, R96, R119, R120) -/
section
namespace Sys2Proof.Machine

/-! ## One core of the state -/

/-- Core `c` is present and has the property `P`. -/
def CoreAt (c : Nat) (P : Core → Prop) (s : State) : Prop := ∃ co, coreOf s c = some co ∧ P co

section OneCore
variable {c : Nat} {s : State} {P Q : Core → Prop}

theorem coreOf_modCore_same (f : Core → Core) : coreOf (modCore c f s) c = (coreOf s c).map f := tget_tmod_same c f s.cores

/-- A key's value in a table changed at another key. -/
theorem tget_tmod_of_ne {α : Type} {k n : Nat} (hk : k ≠ n) (f : α → α) (t : Tab α) : tget k (tmod n f t) = tget k t := by
  induction t with
  | nil => rfl
  | cons p t ih =>
    obtain ⟨k', v⟩ := p
    by_cases hn : k' = n
    · have hother : ¬ n = k := fun h => hk h.symm
      simp [tmod, tget, hn, hother]
    · simp [tmod, tget, hn, ih]

theorem coreOf_modCore_of_ne {k : Nat} (hk : k ≠ c) (f : Core → Core) : coreOf (modCore c f s) k = coreOf s k :=
  tget_tmod_of_ne hk f s.cores

theorem CoreAt.imp (hPQ : ∀ co, P co → Q co) : CoreAt c P s → CoreAt c Q s
  | ⟨co, hco, h⟩ => ⟨co, hco, hPQ co h⟩

theorem CoreAt.of_coreOf {co : Core} (hc : coreOf s c = some co) (h : CoreAt c P s) : P co := by
  obtain ⟨co', hco', hP⟩ := h
  exact Option.some.inj (hc.symm.trans hco') ▸ hP

theorem CoreAt.modCore {f : Core → Core} (hf : ∀ co, P co → Q (f co)) : CoreAt c P s → CoreAt c Q (modCore c f s)
  | ⟨co, hco, h⟩ => ⟨f co, by rw [coreOf_modCore_same, hco]; rfl, hf co h⟩

end OneCore

/-! ## The upward link of a core -/

/-- The core with the upward link of `w`: its queue, the words that wait and the drop counts. -/
def withLink (w co : Core) : Core :=
  { co with
    upQ := w.upQ, upCtl := w.upCtl, upBuf := w.upBuf, upThin := w.upThin, upAhead := w.upAhead, dropCmds := w.dropCmds
    dropProg := w.dropProg, dropData := w.dropData, dropSlots := w.dropSlots, dropEmpty := w.dropEmpty
    dropOver := w.dropOver, dropErrs := w.dropErrs, dropElems := w.dropElems, obW := w.obW, sinceWord := w.sinceWord }

/-- `co'` is `co` but for its upward link. -/
def OnlyLink (co co' : Core) : Prop := co' = withLink co' co

section Link
variable {co co' co'' : Core}

theorem OnlyLink.trans (h : OnlyLink co co') (h' : OnlyLink co' co'') : OnlyLink co co'' := by
  rw [OnlyLink] at h h' ⊢
  rw [h] at h'
  exact h'

theorem OnlyLink.engs (h : OnlyLink co co') : co'.engs = co.engs := by rw [h]; rfl

theorem OnlyLink.cc (h : OnlyLink co co') : co'.cc = co.cc := by rw [h]; rfl

theorem onlyLink_tellDrops (co : Core) : OnlyLink co (tellDrops co) := by
  rw [tellDrops]
  split <;> rfl

theorem onlyLink_dropProtected (w : UpWord) (co : Core) : OnlyLink co (dropProtected w co) := by
  rw [dropProtected]
  repeat' split
  all_goals rfl

theorem onlyLink_dropThinned (w : UpWord) (co : Core) : OnlyLink co (dropThinned w co) := by
  rw [dropThinned]
  split <;> rfl

/-- A word captured waits or is counted as dropped; the rest of the core is as it was. -/
theorem onlyLink_upWrite (k : UpKind) (co : Core) : OnlyLink co (upWrite k co) := by
  rw [upWrite]
  split
  · rfl
  · split
    · exact (onlyLink_tellDrops co).trans rfl
    · exact onlyLink_dropProtected _ co
  · split
    · exact (onlyLink_tellDrops co).trans rfl
    · exact onlyLink_dropThinned _ co

theorem onlyLink_upCycle (co : Core) : OnlyLink co (upCycle co) := by
  rw [upCycle]
  have htold : OnlyLink co (if co.upQ.length < 48 && decide (co.upBuf.length < 16) then tellDrops co else co) := by
    split
    · exact onlyLink_tellDrops co
    · rfl
  refine htold.trans ?_
  generalize (if co.upQ.length < 48 && decide (co.upBuf.length < 16) then tellDrops co else co) = told
  split
  · split <;> rfl
  · split <;> rfl
  · split
    · rfl
    · exact OnlyLink.trans (co' := { told with upThin := _ }) rfl (onlyLink_dropThinned _ _)
  · rfl

theorem onlyLink_upRun (n : Nat) (co : Core) : OnlyLink co (upRun n co) := by
  induction n generalizing co with
  | zero => rfl
  | succ n ih => exact OnlyLink.trans (co' := { co with sinceWord := co.sinceWord + 1 }) rfl ((onlyLink_upCycle _).trans (ih _))

theorem onlyLink_linkCycles (dc : Nat) (co : Core) : OnlyLink co (linkCycles dc co) :=
  OnlyLink.trans (co' := { co with upAhead := co.upAhead - dc }) rfl ((onlyLink_upRun _ _).trans rfl)

end Link

/-! ## What the shim's operations change outside the core -/

/-- `t` is `s` but for core `c` and the always-on counts. -/
structure ShimOnly (c : Nat) (s t : State) : Prop where
  frame : t = { s with cores := t.cores, ao := t.ao }
  others : ∀ k, k ≠ c → coreOf t k = coreOf s k

section Frame
variable {c : Nat} {s t u : State}

theorem ShimOnly.refl (c : Nat) (s : State) : ShimOnly c s s := ⟨rfl, fun _ _ => rfl⟩

theorem ShimOnly.trans (h : ShimOnly c s t) (h' : ShimOnly c t u) : ShimOnly c s u where
  frame := by
    have hu := h'.frame
    rw [h.frame] at hu
    exact hu
  others k hk := (h'.others k hk).trans (h.others k hk)

theorem shimOnly_modCore (c : Nat) (f : Core → Core) (s : State) : ShimOnly c s (modCore c f s) :=
  ⟨rfl, fun _ hk => coreOf_modCore_of_ne hk f⟩

/-- Writing a word upward changes the core's link, and counts what a dropped word carried. -/
theorem upPush_of_core {co : Core} (hc : coreOf s c = some co) (k : UpKind) :
    upPush c k s = modCore c (upWrite k) { s with ao := { s.ao with
      lostCycles := s.ao.lostCycles + wn (lostBy k co).1, lostCmds := s.ao.lostCmds + wn (lostBy k co).2 } } := by
  rw [upPush, hc]

theorem shimOnly_upPush (c : Nat) (k : UpKind) (s : State) : ShimOnly c s (upPush c k s) := by
  cases hc : coreOf s c with
  | none => rw [upPush, hc]; exact .refl c s
  | some co => rw [upPush_of_core hc]; exact ⟨rfl, fun _ hk => coreOf_modCore_of_ne hk _⟩

theorem shimOnly_upPushAll (c : Nat) (ks : List UpKind) (s : State) : ShimOnly c s (upPushAll c ks s) := by
  induction ks generalizing s with
  | nil => exact .refl c s
  | cons k ks ih => exact (shimOnly_upPush c k s).trans (ih _)

end Frame

/-! ## What they keep of the core -/

/-- A property of a core that its upward link has no part in. -/
def LinkFree (P : Core → Prop) : Prop := ∀ co w, P co → P (withLink w co)

section Kept
variable {c : Nat} {s : State} {P : Core → Prop}

theorem LinkFree.upWrite (hP : LinkFree P) {co : Core} (h : P co) (k : UpKind) : P (upWrite k co) := by
  rw [onlyLink_upWrite k co]
  exact hP co _ h

theorem CoreAt.upPush (hP : LinkFree P) (h : CoreAt c P s) (k : UpKind) : CoreAt c P (upPush c k s) := by
  obtain ⟨co, hc, hco⟩ := h
  rw [upPush_of_core hc]
  exact CoreAt.modCore (P := P) (fun x hx => hP.upWrite hx k) ⟨co, hc, hco⟩

theorem CoreAt.upPushAll (hP : LinkFree P) (h : CoreAt c P s) (ks : List UpKind) : CoreAt c P (upPushAll c ks s) := by
  induction ks generalizing s with
  | nil => exact h
  | cons k ks ih => exact ih (h.upPush hP k)

end Kept

/-! ## Violations (R96) -/

/-- A property of a core that neither its upward link nor its count of violations has a part in. -/
structure PortFree (P : Core → Prop) : Prop where
  link : LinkFree P
  violations : ∀ co v, P co → P { co with violations := v }

section Violations
variable {c : Nat} {s t u : State} {P : Core → Prop}

theorem ShimOnly.ite {q : Prop} [Decidable q] (ht : ShimOnly c s t) (hu : ShimOnly c s u) :
    ShimOnly c s (if q then t else u) := by
  split
  · exact ht
  · exact hu

theorem CoreAt.ite {q : Prop} [Decidable q] (ht : CoreAt c P t) (hu : CoreAt c P u) : CoreAt c P (if q then t else u) := by
  split
  · exact ht
  · exact hu

/-- An operation that a condition guards keeps what the operation keeps. -/
theorem CoreAt.guarded {q : Prop} [Decidable q] (h : CoreAt c P s) (ht : CoreAt c P s → CoreAt c P t) :
    CoreAt c P (if q then t else s) := .ite (ht h) h

theorem shimOnly_violateN (c row : Nat) (e : Option Nat) (n : Nat) (s : State) : ShimOnly c s (violateN c row e n s) := by
  cases hc : coreOf s c with
  | none => rw [violateN, hc]; exact .refl c s
  | some co => rw [violateN, hc]; exact (shimOnly_modCore c _ s).trans (shimOnly_upPushAll c _ _)

theorem shimOnly_judgeFenced (c : Nat) (e : Option Nat) (co : Core) (s : State) : ShimOnly c s (judgeFenced c e co s) :=
  .ite (shimOnly_violateN c 13 e 1 s) (.refl c s)

/-- A violation is counted and written upward; all else of the core is kept. -/
theorem CoreAt.violateN (hP : PortFree P) (h : CoreAt c P s) (row : Nat) (e : Option Nat) (n : Nat) :
    CoreAt c P (violateN c row e n s) := by
  obtain ⟨co, hc, hco⟩ := h
  rw [Machine.violateN, hc]
  exact CoreAt.upPushAll hP.link (CoreAt.modCore (P := P) (fun x hx => hP.violations x _ hx) ⟨co, hc, hco⟩) _

theorem CoreAt.judgeFenced (hP : PortFree P) (h : CoreAt c P s) (e : Option Nat) (co : Core) :
    CoreAt c P (judgeFenced c e co s) :=
  h.guarded fun h => h.violateN hP 13 e 1

end Violations

/-! ## Engines of a core (R83, R88) -/

/-- A whole core whose engine `e` has the property `Q`. -/
def HasEng (e : Nat) (Q : Engine → Prop) (co : Core) : Prop := co.engs.length = 8 ∧ Q (engOf co e)

theorem tget_mem {α : Type} {k : Nat} {v : α} {t : Tab α} (h : tget k t = some v) : (k, v) ∈ t := by
  induction t with
  | nil => cases h
  | cons p t ih =>
    obtain ⟨k', v'⟩ := p
    rw [tget] at h
    split at h
    case isTrue hk => cases h; exact hk ▸ List.mem_cons_self
    case isFalse => exact List.mem_cons_of_mem _ (ih h)

theorem coresWhole_length {s : State} {c : Nat} {co : Core} (hw : coresWhole s = true) (hc : coreOf s c = some co) :
    co.engs.length = 8 :=
  of_decide_eq_true (List.all_eq_true.mp hw _ (tget_mem hc))

section Engines
variable {c e : Nat} {s : State} {Q R : Engine → Prop}

theorem length_modEngC (e : Nat) (f : Engine → Engine) (co : Core) : (modEngC e f co).engs.length = co.engs.length :=
  List.length_modify ..

theorem engOf_modEngC_same {co : Core} (he : e < co.engs.length) (f : Engine → Engine) :
    engOf (modEngC e f co) e = f (engOf co e) := by
  simp [engOf, modEngC, List.getD_eq_getElem?_getD, he]

theorem engOf_modEngC_of_ne {k : Nat} (hk : k ≠ e) (f : Engine → Engine) (co : Core) :
    engOf (modEngC k f co) e = engOf co e := by
  simp [engOf, modEngC, List.getD_eq_getElem?_getD, hk]

theorem portFree_hasEng (e : Nat) (Q : Engine → Prop) : PortFree (HasEng e Q) := ⟨fun _ _ h => h, fun _ _ h => h⟩

theorem HasEng.modEngC {f : Engine → Engine} {co : Core} (he : e < 8) (hf : ∀ en, Q en → R (f en)) (h : HasEng e Q co) :
    HasEng e R (modEngC e f co) := by
  obtain ⟨hlen, hQ⟩ := h
  refine ⟨(length_modEngC e f co).trans hlen, ?_⟩
  rw [engOf_modEngC_same (hlen ▸ he)]
  exact hf _ hQ

theorem CoreAt.modEng {f : Engine → Engine} (he : e < 8) (hf : ∀ en, Q en → R (f en)) (h : CoreAt c (HasEng e Q) s) :
    CoreAt c (HasEng e R) (modEng c e f s) :=
  h.modCore fun _ hco => hco.modEngC he hf

/-- A change of any one engine that keeps `Q` keeps it of engine `e`. -/
theorem CoreAt.modEng_any {f : Engine → Engine} (he : e < 8) (hf : ∀ en, Q en → Q (f en)) (h : CoreAt c (HasEng e Q) s)
    (k : Nat) : CoreAt c (HasEng e Q) (Machine.modEng c k f s) := by
  by_cases hk : k = e
  · subst hk
    exact h.modEng he hf
  · refine h.modCore fun co hco => ?_
    obtain ⟨hlen, hQ⟩ := hco
    exact ⟨(length_modEngC k f co).trans hlen, (engOf_modEngC_of_ne hk f co).symm ▸ hQ⟩

/-! ## The end of a command (R88, R129 to R133) -/

theorem shimOnly_endCommand (c e : Nat) (st : BitVec 2) (im : Bool) (s : State) : ShimOnly c s (endCommand c e st im s) := by
  rw [endCommand]
  split
  · exact .refl c s
  · dsimp only
    split
    · exact .refl c s
    · exact (shimOnly_modCore c _ s).trans (shimOnly_upPush c _ _)

/-- An engine after the end of its command `t`, `f` cycles past the command's last. -/
def ended (t : Tags) (f : Nat) (counted : Bool) (en : Engine) : Engine :=
  { en with cur := none, last := some t, accounted := 0, fresh := f, counted := counted }

/-- An engine with no command is left alone; else its command is the last one. -/
theorem CoreAt.endCommand (he : e < 8) (hidle : ∀ en, Q en → en.cur = none → R en)
    (hend : ∀ en t f k, Q en → en.cur = some t → R (ended t f k en)) (h : CoreAt c (HasEng e Q) s) (st : BitVec 2)
    (im : Bool) : CoreAt c (HasEng e R) (endCommand c e st im s) := by
  obtain ⟨co, hc, hlen, hQ⟩ := h
  simp only [Machine.endCommand, hc]
  cases ht : (engOf co e).cur with
  | none => exact ⟨co, hc, hlen, hidle _ hQ ht⟩
  | some t =>
    have hbusy : CoreAt c (HasEng e fun en => Q en ∧ en.cur = some t) s := ⟨co, hc, hlen, hQ, ht⟩
    exact (hbusy.modEng he fun en hen => hend en t 1 en.counted hen.1 hen.2).upPush (portFree_hasEng e R).link _

end Engines

end Sys2Proof.Machine
end

/-! # Core stream rows (R91, R93 to R96, R123, R183, R187, R213, R340, R344) -/
section
namespace Sys2Proof.Machine

/-! ## Each row's meaning at a core that takes it -/

section Streams
variable {core : CoreIx} {eng : EngIx} {dc : Nat} {s : State} {co : Core} (hp : portTaken s core.toNat = true)
  (he : engLive s core.toNat eng.toNat = true) (hc : coreOf (rowState core.toNat dc s) core.toNat = some co)
include hp he hc

/-- R93, R94: a slot operation is judged against the fence, then written upward as its mark or as its word. -/
theorem exec_slotOperation_of_taken (op : BitVec 2) (full : Bool) (slot : BitVec 20) (peer : BitVec 16) (pv : Bool) :
    exec (.slotOperation core dc op full slot eng peer pv) s =
      .next (let c := core.toNat
        let tags := cycleTags (engOf co eng.toNat)
        let j := judgeFenced c (some eng.toNat) co (rowState c dc s)
        if decide (op = 1 ∨ op = 2) && !full then upPush c (.slotMark eng tags false slot peer pv) j
        else if decide (op = 0) && full then upPush c (.slotMark eng tags true slot peer pv) j
        else upPush c (.slotOp eng tags op full slot) j) :=
  congrArg Host.Outcome.next (namedRow_taken hp he hc 1 _)

theorem exec_storeBeat_of_stream_off (hso : co.soEn = false) (cnt : BitVec 7) (idx : BitVec 32) (data : BitVec 256)
    (scale : BitVec 16) : exec (.storeBeat core dc eng cnt idx data scale) s =
      .next (violate core.toNat 10 (some eng.toNat) (rowState core.toNat dc s)) :=
  congrArg Host.Outcome.next ((namedRow_taken hp he hc 1 _).trans (if_pos (by rw [hso]; rfl)))

section On
variable (hso : co.soEn = true)
include hso

theorem exec_storeBeat_of_no_capture (hx : capOf (rowState core.toNat dc s) (clusterOf core.toNat) = none) (cnt : BitVec 7)
    (idx : BitVec 32) (data : BitVec 256) (scale : BitVec 16) :
    exec (.storeBeat core dc eng cnt idx data scale) s = .next (rowState core.toNat dc s) := by
  refine congrArg Host.Outcome.next ((namedRow_taken hp he hc 1 _).trans ((if_neg (by simp [hso])).trans ?_))
  rw [hx]

/-- R213: under a capture a beat's violations are counted, and its elements go upward, those left out counted. -/
theorem exec_storeBeat_of_capture {x : Capture} (hx : capOf (rowState core.toNat dc s) (clusterOf core.toNat) = some x)
    (cnt : BitVec 7) (idx : BitVec 32) (data : BitVec 256) (scale : BitVec 16) :
    exec (.storeBeat core dc eng cnt idx data scale) s =
      .next (let c := core.toNat
        let e := eng.toNat
        let b := rowState c dc s
        let r := beatElems x.p c eng (cycleTags (engOf co e)) cnt.toNat idx data scale
        let v := violateN c 12 (some e) (cnt.toNat - elemsPerBeat x.p.elfmt)
          (if spansBlocks x.p cnt.toNat idx then violate c 9 (some e) b else b)
        upPushAll c r.1 (modCore c (fun y => { y with dropElems := y.dropElems + r.2 }) v)) := by
  refine congrArg Host.Outcome.next ((namedRow_taken hp he hc 1 _).trans ((if_neg (by simp [hso])).trans ?_))
  rw [hx]

end On

/-- R95, R340: an error report of a positive count is counted and written upward. -/
theorem exec_coreErrorReport_of_taken (cls : BitVec 2) (n : BitVec 4) (code : BitVec 16) (addr : BitVec 32) :
    exec (.coreErrorReport core dc cls n eng code addr) s =
      .next (let c := core.toNat
        let b := rowState c dc s
        if n = 0 then b
        else upPush c (.error eng (cycleTags (engOf co eng.toNat)) cls n code addr) (countError c cls n.toNat b)) :=
  congrArg Host.Outcome.next (namedRow_taken hp he hc n.toNat _)

/-- R91: retired code is judged against the fence, and written upward where a session or a comparator wants it. -/
theorem exec_programRetire_of_taken (ret : BitVec 2) (br : Bool) (tgt : BitVec 24) :
    exec (.programRetire core eng dc ret br tgt) s =
      .next (let c := core.toNat
        let e := eng.toNat
        let b := rowState c dc s
        let j := judgeFenced c (some e) co b
        if ret = 0 then b
        else if (sessionNames j (hubSession j) c e && kindIn (hubSession j) 1) || comparatorOn j c 1 (some e) then
          upPush c (.prog eng (cycleTags (engOf co e)) ret br tgt) j
        else j) :=
  congrArg Host.Outcome.next (engRow_taken hp he hc 1 _)

/-- R183: an access of the engine that the core selects is written upward where a session or a comparator wants it. -/
theorem exec_dataAccess_of_selected {co0 : Core} (h0 : coreOf s core.toNat = some co0) (hsel : co0.daSel = eng) (wr : Bool)
    (size : BitVec 2) (addr : BitVec 32) (data : Word) : exec (.dataAccess core dc wr size addr data) s =
      .next (let c := core.toNat
        let b := rowState c dc s
        if (hubTracedCore b c && kindIn (hubSession b) 2) || comparatorOn b c 2 none then
          upPush c (.data eng (cycleTags (engOf co eng.toNat)) wr size addr data) b
        else b) := by
  have hdaSel : ((coreOf s core.toNat).map fun x : Core => x.daSel).getD 0 = eng := by rw [h0, ← hsel]; rfl
  change Host.Outcome.next (engRow _ (((coreOf s core.toNat).map fun x : Core => x.daSel).getD 0).toNat _ _ _ _) = _
  rw [hdaSel]
  exact congrArg Host.Outcome.next (engRow_taken hp he hc 1 _)

end Streams

/-! ## The obligation -/

/-- Settles O42: each row's meaning on the row state, split by the operands and by what wants its word. -/
theorem coreStreamRowsComplete : Obligations.CoreStreamRowsComplete := by
  intro core eng dc s co c e b tags j hp he hc
  refine ⟨fun op full slot peer pv => ⟨fun hop hfull => ?markEmpty, fun hop hfull => ?markFull, fun hread hfill => ?slotWord⟩,
    fun cnt idx data scale hso => exec_storeBeat_of_stream_off hp he hc hso cnt idx data scale,
    fun cnt idx data scale hso hx => exec_storeBeat_of_no_capture hp he hc hso hx cnt idx data scale,
    fun cnt idx data scale x hso hx => exec_storeBeat_of_capture hp he hc hso hx cnt idx data scale,
    fun cls n code addr hn => ?error, fun cls code addr => exec_coreErrorReport_of_taken hp he hc cls 0 code addr,
    fun ret br tgt hret => ⟨fun hw => ?retired, fun hw => ?unwanted⟩,
    fun br tgt => exec_programRetire_of_taken hp he hc 0 br tgt,
    fun wr size addr data co0 h0 hsel => ⟨fun hw => ?access, fun hw => ?unwantedAccess⟩⟩
  case markEmpty =>
    exact (exec_slotOperation_of_taken hp he hc op full slot peer pv).trans
      (congrArg Host.Outcome.next (if_pos (by rw [decide_eq_true hop, hfull]; rfl)))
  case markFull =>
    subst hop hfull
    exact exec_slotOperation_of_taken hp he hc 0 true slot peer pv
  case slotWord =>
    refine (exec_slotOperation_of_taken hp he hc op full slot peer pv).trans (congrArg Host.Outcome.next ?_)
    refine (if_neg ?_).trans (if_neg ?_)
    · simp only [Bool.and_eq_true, decide_eq_true_eq, Bool.not_eq_true', not_and, Bool.not_eq_false]
      exact hread
    · simp only [Bool.and_eq_true, decide_eq_true_eq, not_and, Bool.not_eq_true]
      exact hfill
  case error =>
    exact (exec_coreErrorReport_of_taken hp he hc cls n code addr).trans (congrArg Host.Outcome.next (if_neg hn))
  case retired =>
    exact (exec_programRetire_of_taken hp he hc ret br tgt).trans (congrArg Host.Outcome.next ((if_neg hret).trans (if_pos hw)))
  case unwanted =>
    exact (exec_programRetire_of_taken hp he hc ret br tgt).trans
      (congrArg Host.Outcome.next ((if_neg hret).trans (if_neg (Bool.eq_false_iff.mp hw))))
  case access =>
    exact (exec_dataAccess_of_selected hp he hc h0 hsel wr size addr data).trans (congrArg Host.Outcome.next (if_pos hw))
  case unwantedAccess =>
    exact (exec_dataAccess_of_selected hp he hc h0 hsel wr size addr data).trans
      (congrArg Host.Outcome.next (if_neg (Bool.eq_false_iff.mp hw)))

end Sys2Proof.Machine
end

/-! # Stop rows at the core (R97 to R102, R138, R254, R255) -/
section
namespace Sys2Proof.Machine

/-! ## The leaf arms a core (R97, R254, R255) -/

/-- The leaf has to answer for the core: the core is of the cut and not heard, and the leaf's GT is at most 256 before T. -/
def armDue (id : BitVec 32) (c cyc : Nat) (x : Cut) (co : Core) (s : State) : Prop :=
  c ∈ x.unheard ∧ co.claim = some id ∧ leafValid s (clusterOf c) = true ∧ x.t ≤ leafGt s (clusterOf c) cyc + 256

section Leaf
variable {core : CoreIx} {cyc : Nat} {id n : BitVec 32} {s : State} {x : Cut} {co : Core}

theorem exec_leafStopArm_eq (core : CoreIx) (cyc : Nat) (id n : BitVec 32) (s : State) :
    exec (.leafStopArm core cyc id n) s = execLeafStopArm core cyc id n s := rfl

theorem exec_leafStopArm_of_none (h : activeCut s id = none ∨ coreOf s core.toNat = none) :
    exec (.leafStopArm core cyc id n) s = .next s := by
  rw [exec_leafStopArm_eq, execLeafStopArm]
  rcases h with h | h
  · simp only [h]
  · cases activeCut s id <;> simp only [h]

variable (hx : activeCut s id = some x) (hc : coreOf s core.toNat = some co)
include hx hc

theorem exec_leafStopArm_of_not_due (hdue : ¬ armDue id core.toNat cyc x co s) :
    exec (.leafStopArm core cyc id n) s = .next s := by
  simp only [exec_leafStopArm_eq, execLeafStopArm, hx, hc]
  exact congrArg Host.Outcome.next (if_neg hdue)

variable (hdue : armDue id core.toNat cyc x co s)
include hdue

/-- R254: a core out of service is excluded from T on, and left alone before. -/
theorem exec_leafStopArm_of_excluded (hout : excludedNow co = true) : exec (.leafStopArm core cyc id n) s =
    .next (if x.t ≤ leafGt s (clusterOf core.toNat) cyc then
      excludeCore id core.toNat (coreReports co) (modCore core.toNat dropArm s) else s) := by
  simp only [exec_leafStopArm_eq, execLeafStopArm, hx, hc]
  exact congrArg Host.Outcome.next ((if_pos hdue).trans (if_pos hout))

variable (hin : excludedNow co = false)
include hin

theorem exec_leafStopArm_of_armed (harmed : core.toNat ∉ x.unarmed) : exec (.leafStopArm core cyc id n) s = .next s := by
  simp only [exec_leafStopArm_eq, execLeafStopArm, hx, hc]
  refine congrArg Host.Outcome.next ((if_pos hdue).trans ((if_neg (Bool.eq_false_iff.mp hin)).trans (if_pos ?_)))
  rw [decide_eq_false harmed]
  rfl

/-- R97, R255: a core not armed yet is sent its arm, and answered for where its clock is stopped. -/
theorem exec_leafStopArm_of_unarmed (hun : core.toNat ∈ x.unarmed) : exec (.leafStopArm core cyc id n) s =
    .next (if co.clockStopped then answerCore id core.toNat co x.t s
      else modCut id (fun x => { x with unarmed := x.unarmed.filter (· ≠ core.toNat) })
        (downPush core.toNat (.stopArm (stopCycle co x.t n) x.hard id) s)) := by
  simp only [exec_leafStopArm_eq, execLeafStopArm, hx, hc]
  refine congrArg Host.Outcome.next ((if_pos hdue).trans ((if_neg (Bool.eq_false_iff.mp hin)).trans (if_neg ?_)))
  rw [decide_eq_true hun]
  exact Bool.false_ne_true

end Leaf

/-! ## The shim reads an arm (R98, R100, R138, R255) -/

/-- The word that the shim may read in this cycle: the front of its downward queue, where it has read none in it yet. -/
def nextDown (co : Core) : Option DownWord := if co.downRead = true then none else co.downQ.head?

/-- The state after the shim has taken the front word off its queue. -/
def armRead (c : Nat) (s : State) : State := modCore c (fun x => { downPop x with downRead := true }) s

section Shim
variable {core : CoreIx} {dc : Nat} {s : State} {co : Core}

theorem exec_shimArmReceive_eq (core : CoreIx) (dc : Nat) (s : State) :
    exec (.shimArmReceive core dc) s = execShimArmReceive core dc s := rfl

theorem exec_shimHoldRaise_eq (core : CoreIx) (dc : Nat) (s : State) :
    exec (.shimHoldRaise core dc) s = execShimHoldRaise core dc s := rfl

theorem exec_shimStopCycle_eq (core : CoreIx) (dc cyc : Nat) (s : State) :
    exec (.shimStopCycle core dc cyc) s = execShimStopCycle core dc cyc s := rfl

section Live
variable (hl : tapLive s core.toNat = true) (hc : coreOf (tapAdvance core.toNat dc s) core.toNat = some co)
include hl hc

section Arms
variable {n id : BitVec 32} {hard : Bool}

theorem exec_shimArmReceive_of_no_arm (hno : ∀ w, nextDown co = some w → isArm w = false) :
    exec (.shimArmReceive core dc) s = .next (tapAdvance core.toNat dc s) := by
  rw [nextDown] at hno
  simp only [exec_shimArmReceive_eq, execShimArmReceive, hl, if_true, hc]
  cases hw : (if co.downRead = true then none else co.downQ.head?) with
  | none => rfl
  | some w => simp [hno w hw]

/-- R98, R100: a stop arm of an active cut stops the core on arrival where its cycle has come, and is latched otherwise. -/
theorem exec_shimArmReceive_of_stopArm (hw : nextDown co = some (.stopArm n hard id)) :
    exec (.shimArmReceive core dc) s =
      .next (let c := core.toNat
        let p := armRead c (tapAdvance c dc s)
        if (activeCut p id).isNone then p
        else if ccReached co.cc n then
          if excludedNow co then excludeArmed c id p else stopCore c hard true (cutT p id) none p
        else modCore c (fun x => { x with arm := some (n, hard, id), holdsUp := false }) p) := by
  rw [nextDown] at hw
  simp only [exec_shimArmReceive_eq, execShimArmReceive, hl, if_true, hc, hw, isArm, Bool.not_true, Bool.false_eq_true,
    if_false]
  rfl

theorem exec_shimArmReceive_of_restartArm (hw : nextDown co = some (.restartArm id)) :
    exec (.shimArmReceive core dc) s =
      .next (modCore core.toNat raiseHolds (armRead core.toNat (tapAdvance core.toNat dc s))) := by
  rw [nextDown] at hw
  simp only [exec_shimArmReceive_eq, execShimArmReceive, hl, if_true, hc, hw, isArm, Bool.not_true, Bool.false_eq_true,
    if_false]
  rfl

theorem exec_shimArmReceive_of_sampleArm {set : BitVec 2} {k : Nat} (hw : nextDown co = some (.sampleArm n set k)) :
    exec (.shimArmReceive core dc) s =
      .next (modCore core.toNat (fun x => { x with sampleArms := x.sampleArms ++ [(n, set, k, ccReached co.cc n)] })
        (armRead core.toNat (tapAdvance core.toNat dc s))) := by
  rw [nextDown] at hw
  simp only [exec_shimArmReceive_eq, execShimArmReceive, hl, if_true, hc, hw, isArm, Bool.not_true, Bool.false_eq_true,
    if_false]
  rfl

end Arms

/-! ## An arm latched (R99, R101, R102) -/

section Latched
variable {n id : BitVec 32} {hard : Bool} (ha : co.arm = some (n, hard, id))
include ha

/-- R101: from cycle N - 4 the holds of a core in service that is not to be frozen are raised. -/
theorem exec_shimHoldRaise_of_latched : exec (.shimHoldRaise core dc) s =
    .next (let c := core.toNat
      let b := tapAdvance c dc s
      if ccReached (co.cc + 4) n && !(hard && decide (c ∈ scanGroup b)) && coreInService co then
        modCore c (fun x => { raiseHolds x with holdsUp := true }) b
      else b) := by
  simp only [exec_shimHoldRaise_eq, execShimHoldRaise, hl, if_true, hc, ha]

theorem exec_shimStopCycle_of_before (hn : ccReached co.cc n = false) (cyc : Nat) :
    exec (.shimStopCycle core dc cyc) s = .next (tapAdvance core.toNat dc s) := by
  simp only [exec_shimStopCycle_eq, execShimStopCycle, hl, if_true, hc, ha, hn, Bool.not_false]

/-- R102, R254: at cycle N the core is stopped, or excluded where it is out of service. -/
theorem exec_shimStopCycle_of_reached (hn : ccReached co.cc n = true) (cyc : Nat) :
    exec (.shimStopCycle core dc cyc) s =
      .next (let c := core.toNat
        let b := tapAdvance c dc s
        if excludedNow co then excludeArmed c id b
        else stopCore c hard false (cutT b id) (some (leafGt b (clusterOf c) cyc)) b) := by
  simp only [exec_shimStopCycle_eq, execShimStopCycle, hl, if_true, hc, ha, hn, Bool.not_true, Bool.false_eq_true, if_false]

end Latched

section Unlatched
variable (ha : co.arm = none)
include ha

theorem exec_shimHoldRaise_of_not_armed : exec (.shimHoldRaise core dc) s = .next (tapAdvance core.toNat dc s) := by
  simp only [exec_shimHoldRaise_eq, execShimHoldRaise, hl, if_true, hc, ha]

theorem exec_shimStopCycle_of_not_armed (cyc : Nat) :
    exec (.shimStopCycle core dc cyc) s = .next (tapAdvance core.toNat dc s) := by
  simp only [exec_shimStopCycle_eq, execShimStopCycle, hl, if_true, hc, ha]

end Unlatched

end Live

section Dead
variable (hd : tapLive s core.toNat = false)
include hd

theorem exec_shimArmReceive_of_dead : exec (.shimArmReceive core dc) s = .next s :=
  congrArg Host.Outcome.next (if_neg (Bool.eq_false_iff.mp hd))

theorem exec_shimHoldRaise_of_dead : exec (.shimHoldRaise core dc) s = .next s :=
  congrArg Host.Outcome.next (if_neg (Bool.eq_false_iff.mp hd))

theorem exec_shimStopCycle_of_dead (cyc : Nat) : exec (.shimStopCycle core dc cyc) s = .next s :=
  congrArg Host.Outcome.next (if_neg (Bool.eq_false_iff.mp hd))

end Dead

end Shim

/-! ## The obligation -/

/-- A stop arm read, split as the statement splits it: of no active cut, still to come, or come. -/
theorem stopArm_read_cases {core : CoreIx} {dc : Nat} {s : State} {co : Core} {n id : BitVec 32} {hard : Bool}
    (hl : tapLive s core.toNat = true) (hc : coreOf (tapAdvance core.toNat dc s) core.toNat = some co)
    (hw : nextDown co = some (.stopArm n hard id)) :
    let c := core.toNat
    let p := armRead c (tapAdvance c dc s)
    (activeCut p id = none → exec (.shimArmReceive core dc) s = .next p) ∧
    ((activeCut p id).isSome = true → ccReached co.cc n = false → exec (.shimArmReceive core dc) s =
      .next (modCore c (fun x => { x with arm := some (n, hard, id), holdsUp := false }) p)) ∧
    ((activeCut p id).isSome = true → ccReached co.cc n = true → exec (.shimArmReceive core dc) s =
      .next (if excludedNow co = true then excludeArmed c id p else stopCore c hard true (cutT p id) none p)) := by
  have hread := exec_shimArmReceive_of_stopArm hl hc hw
  refine ⟨fun hcut => ?_, fun hcut hn => ?_, fun hcut hn => ?_⟩
  · exact hread.trans (congrArg Host.Outcome.next (if_pos (Option.isNone_iff_eq_none.mpr hcut)))
  · have hactive := mt Option.isNone_iff_eq_none.mp (Option.isSome_iff_ne_none.mp hcut)
    exact hread.trans (congrArg Host.Outcome.next ((if_neg hactive).trans (if_neg (Bool.eq_false_iff.mp hn))))
  · have hactive := mt Option.isNone_iff_eq_none.mp (Option.isSome_iff_ne_none.mp hcut)
    exact hread.trans (congrArg Host.Outcome.next ((if_neg hactive).trans (if_pos hn)))

/-- Settles O48: the leaf's row by whether it is due, the shim's by the word read and by the arm latched. -/
theorem stopRowsAtTheCoreComplete : Obligations.StopRowsAtTheCoreComplete := by
  refine ⟨fun core cyc id n s x co hx hc => ⟨exec_leafStopArm_of_not_due hx hc, fun hdue hout ht => ?excluded,
      fun hdue hout ht => ?early, fun hdue => exec_leafStopArm_of_armed hx hc hdue, fun hdue hin hun hstop => ?answered,
      fun hdue hin hun hrun => ?sent⟩,
    fun core cyc id n s => exec_leafStopArm_of_none,
    fun core dc s co hl hc => ⟨exec_shimArmReceive_of_no_arm hl hc, fun n hard id => stopArm_read_cases hl hc,
      fun id => exec_shimArmReceive_of_restartArm hl hc, fun n set k => exec_shimArmReceive_of_sampleArm hl hc,
      fun n hard id ha => ⟨fun hr => ?raised, fun hr => ?notRaised, fun cyc =>
        ⟨fun hn => exec_shimStopCycle_of_before hl hc ha hn cyc, fun hn => exec_shimStopCycle_of_reached hl hc ha hn cyc⟩⟩,
      fun ha cyc => ⟨exec_shimHoldRaise_of_not_armed hl hc ha, exec_shimStopCycle_of_not_armed hl hc ha cyc⟩⟩,
    fun core dc cyc s hd =>
      ⟨exec_shimArmReceive_of_dead hd, exec_shimHoldRaise_of_dead hd, exec_shimStopCycle_of_dead hd cyc⟩⟩
  case excluded => exact (exec_leafStopArm_of_excluded hx hc hdue hout).trans (congrArg Host.Outcome.next (if_pos ht))
  case early =>
    exact (exec_leafStopArm_of_excluded hx hc hdue hout).trans (congrArg Host.Outcome.next (if_neg (Nat.not_le.mpr ht)))
  case answered => exact (exec_leafStopArm_of_unarmed hx hc hdue hin hun).trans (congrArg Host.Outcome.next (if_pos hstop))
  case sent =>
    exact (exec_leafStopArm_of_unarmed hx hc hdue hin hun).trans
      (congrArg Host.Outcome.next (if_neg (Bool.eq_false_iff.mp hrun)))
  case raised => exact (exec_shimHoldRaise_of_latched hl hc ha).trans (congrArg Host.Outcome.next (if_pos hr))
  case notRaised =>
    exact (exec_shimHoldRaise_of_latched hl hc ha).trans (congrArg Host.Outcome.next (if_neg (Bool.eq_false_iff.mp hr)))

end Sys2Proof.Machine
end

/-! # Steering, epoch and keep-alive rows (R92, R96, R99, R104, R105, R119) -/
section
namespace Sys2Proof.Machine

/-! ## A firing at its unit (R92, R96) -/

/-- What a core shows after a firing of unit `u` whose next pair is `tok` and `dat`: that pair, `n` firings, and whether
the pair that fired was half present. -/
def Fired (u : BitVec 2) (n : List Nat) (half tok dat : Bool) (x : Core) : Prop :=
  x.tok.getLsbD u.toNat = tok ∧ x.dat.getLsbD u.toNat = dat ∧ x.firings = n ∧ x.halfFired.getLsbD u.toNat = half

theorem fired_fire (u : BitVec 2) (half tok dat : Bool) (old : BitVec 6) (x : Core) :
    Fired u (x.firings.modify u.toNat (· + 1)) half tok dat (fire u half tok dat old x) :=
  ⟨getLsbD_setBit_same _ u.isLt tok, getLsbD_setBit_same _ u.isLt dat, rfl, getLsbD_setBit_same _ u.isLt half⟩

/-- The state after the judgements of a firing and its word: nothing of the unit has changed yet. -/
def fireJudged (c : Nat) (unit : BitVec 2) (co : Core) (s : State) : State :=
  let held := co.stHold.getLsbD unit.toNat
  let half := !(co.tok.getLsbD unit.toNat && co.dat.getLsbD unit.toNat)
  let s := judgeFenced c none co s
  let s := if held || half || co.arm.isSome then upPush c (.fired unit held half) s else s
  let s := if held then violate c 6 none s else s
  if half then violate c 7 none s else s

/-- A released unit is held again and reported done. -/
def fireReported (c : Nat) (unit : BitVec 2) (co : Core) (s : State) : State :=
  if co.stReleased.getLsbD unit.toNat && !co.stHold.getLsbD unit.toNat then
    let fired := setBit co.stFired unit.toNat true
    upPush c (.stepDone none fired) (modCore c (fun x => { x with
      stHold := setBit x.stHold unit.toNat true, stReleased := setBit x.stReleased unit.toNat false, stFired := fired }) s)
  else s

section Firing
variable {c : Nat} {unit : BitVec 2} {co : Core} {s : State}

/-- A firing's judgements and its word touch the core's link and its count of violations only. -/
theorem CoreAt.fireJudged {P : Core → Prop} (hP : PortFree P) (h : CoreAt c P s) (unit : BitVec 2) (co : Core) :
    CoreAt c P (fireJudged c unit co s) := by
  refine .guarded (.guarded (.guarded (h.judgeFenced hP none co) ?_) ?_) ?_
  · exact fun h => h.upPush hP.link _
  · exact fun h => h.violateN hP 6 none 1
  · exact fun h => h.violateN hP 7 none 1

theorem fireJudged_of_free (hh : co.stHold.getLsbD unit.toNat = false) (ht : co.tok.getLsbD unit.toNat = true)
    (hd : co.dat.getLsbD unit.toNat = true) (hf : fencedAcked co = false) (ha : co.arm = none) :
    fireJudged c unit co s = s := by
  simp [fireJudged, judgeFenced, hh, ht, hd, hf, ha]

theorem CoreAt.fireReported {n : List Nat} {half tok dat : Bool} (h : CoreAt c (Fired unit n half tok dat) s) (co : Core) :
    CoreAt c (Fired unit n half tok dat) (fireReported c unit co s) := by
  refine h.guarded fun h => CoreAt.upPush (P := Fired unit n half tok dat) ?_ (CoreAt.modCore ?_ h) _
  · exact fun _ _ hx => hx
  · exact fun _ hx => hx

end Firing

/-! ## Each row's meaning at a core that takes it -/

section Rows
variable {core : CoreIx} {dc : Nat} {s : State} {co : Core}
  (hp : portTaken s core.toNat = true) (hc : coreOf (rowState core.toNat dc s) core.toNat = some co)
include hp hc

section Steering
variable {unit : BitVec 2} (tok dat : Bool) (old : BitVec 6)

theorem exec_steeringArrival_of_present (hu : steerLive co unit = true) :
    exec (.steeringArrival core dc unit tok dat old) s =
      .next (modCore core.toNat (fun x => showSteer unit tok dat old (arrive unit tok dat x)) (rowState core.toNat dc s)) :=
  congrArg Host.Outcome.next ((coreRow_taken hp hc 1 _).trans (if_pos hu))

theorem exec_steeringArrival_of_absent (hu : steerLive co unit = false) :
    exec (.steeringArrival core dc unit tok dat old) s = .next (rowState core.toNat dc s) :=
  congrArg Host.Outcome.next ((coreRow_taken hp hc 1 _).trans (if_neg (Bool.eq_false_iff.mp hu)))

/-- R92, R96: a firing is judged, then recorded with the next pair shown, and reported where its unit was released. -/
theorem exec_steeringFire_of_present (hu : steerLive co unit = true) :
    exec (.steeringFire core dc unit tok dat old) s =
      .next (let c := core.toNat
        let half := !(co.tok.getLsbD unit.toNat && co.dat.getLsbD unit.toNat)
        fireReported c unit co (modCore c (fire unit half tok dat old) (fireJudged c unit co (rowState c dc s)))) :=
  congrArg Host.Outcome.next ((coreRow_taken hp hc 1 _).trans (if_neg (by simp [hu])))

theorem exec_steeringFire_of_absent (hu : steerLive co unit = false) :
    exec (.steeringFire core dc unit tok dat old) s = .next (rowState core.toNat dc s) :=
  congrArg Host.Outcome.next ((coreRow_taken hp hc 1 _).trans (if_pos (by simp [hu])))

/-- A free unit with both levels high, of a core not fenced and with no arm: nothing is judged, and the firing is recorded. -/
theorem exec_steeringFire_of_free (hu : steerLive co unit = true) (hh : co.stHold.getLsbD unit.toNat = false)
    (ht : co.tok.getLsbD unit.toNat = true) (hd : co.dat.getLsbD unit.toNat = true) (hf : fencedAcked co = false)
    (ha : co.arm = none) : exec (.steeringFire core dc unit tok dat old) s =
      .next (let c := core.toNat
        fireReported c unit co (modCore c (fire unit false tok dat old) (rowState c dc s))) := by
  have hwhole : (!(co.tok.getLsbD unit.toNat && co.dat.getLsbD unit.toNat)) = false := by rw [ht, hd]; rfl
  refine (exec_steeringFire_of_present hp hc tok dat old hu).trans ?_
  dsimp only
  rw [hwhole, fireJudged_of_free hh ht hd hf ha]

/-- A firing of a present unit leaves its next pair, its count and its mark, whatever is judged and reported with it. -/
theorem exec_steeringFire_fired (hu : steerLive co unit = true) :
    ∃ t, exec (.steeringFire core dc unit tok dat old) s = .next t ∧ CoreAt core.toNat (Fired unit
      (co.firings.modify unit.toNat (· + 1)) (!(co.tok.getLsbD unit.toNat && co.dat.getLsbD unit.toNat)) tok dat) t := by
  refine ⟨_, exec_steeringFire_of_present hp hc tok dat old hu, ?_⟩
  have hkept : CoreAt core.toNat (fun x => x.firings = co.firings) (rowState core.toNat dc s) := ⟨co, hc, rfl⟩
  have hjudged := hkept.fireJudged ⟨fun _ _ hx => hx, fun _ _ hx => hx⟩ unit co
  refine (CoreAt.modCore ?_ hjudged).fireReported co
  intro x hx
  rw [← hx]
  exact fired_fire unit _ tok dat old x

end Steering

theorem exec_epochChange_of_shown : exec (.epochChange core dc co.epoch) s = .next (rowState core.toNat dc s) :=
  congrArg Host.Outcome.next ((coreRow_taken hp hc 1 _).trans (if_pos rfl))

/-- R96, R105: another epoch is shown with its word upward; one held is a violation and ends a step. -/
theorem exec_epochChange_of_new {epoch : BitVec 8} (hne : epoch ≠ co.epoch) : exec (.epochChange core dc epoch) s =
    .next (let c := core.toNat
      let b := rowState c dc s
      let w := upPush c (.epoch co.epoch epoch co.epochHold co.tok co.dat (oldTokens co))
        (modCore c (fun x => { x with epoch := epoch, epochReq := false }) (if co.epochHold then violate c 8 none b else b))
      if co.epochHold then epochStops c w else w) :=
  congrArg Host.Outcome.next ((coreRow_taken hp hc 1 _).trans (if_neg hne.symm))

theorem exec_epochRequest_of_taken : exec (.epochRequest core dc) s =
    .next (epochStops core.toNat (modCore core.toNat (fun x => { x with epochReq := true }) (rowState core.toNat dc s))) :=
  congrArg Host.Outcome.next (coreRow_taken hp hc 1 _)

/-- R119: a keep-alive word enters the queue at the fourth cycle after the last word, where thinned words may. -/
theorem exec_keepAlive_of_taken : exec (.keepAlive core dc) s =
    .next (if 4 ≤ co.sinceWord ∧ co.upQ.length < 48 then
      modCore core.toNat (fun x => upPut { cc := x.cc, kind := .keepAlive } x) (rowState core.toNat dc s)
      else rowState core.toNat dc s) :=
  congrArg Host.Outcome.next (coreRow_taken hp hc 0 _)

end Rows

/-! ## The obligation -/

/-- Settles O41: each row's meaning on the row state, by what the core holds. -/
theorem steeringAndEpochRowsComplete : Obligations.SteeringAndEpochRowsComplete := by
  intro core dc s co c b hp hc
  refine ⟨fun unit tok dat old hu => exec_steeringArrival_of_present hp hc tok dat old hu,
    fun unit tok dat old hu => ⟨exec_steeringArrival_of_absent hp hc tok dat old hu,
      exec_steeringFire_of_absent hp hc tok dat old hu⟩,
    fun unit tok dat old hu hh ht hd hf ha => ⟨fun hr => ?notReleased, fun hr => ?released⟩,
    fun unit tok dat old hu => ?fired, exec_epochChange_of_shown hp hc, fun epoch hne hh => ?free, fun epoch hne hh => ?held,
    exec_epochRequest_of_taken hp hc, fun hnot => ?early, fun h4 h48 => ?word⟩
  case notReleased =>
    refine (exec_steeringFire_of_free hp hc tok dat old hu hh ht hd hf ha).trans (congrArg Host.Outcome.next (if_neg ?_))
    rw [hr]
    exact Bool.false_ne_true
  case released =>
    refine (exec_steeringFire_of_free hp hc tok dat old hu hh ht hd hf ha).trans (congrArg Host.Outcome.next (if_pos ?_))
    rw [hr, hh]
    rfl
  case fired =>
    obtain ⟨t, hexec, co', hco', htok, hdat, hfirings, hhalf⟩ := exec_steeringFire_fired hp hc tok dat old hu
    exact ⟨t, co', hexec, hco', htok, hdat, hfirings, hhalf⟩
  case free =>
    have hnew := exec_epochChange_of_new hp hc hne
    rw [hh] at hnew
    exact hnew
  case held =>
    have hnew := exec_epochChange_of_new hp hc hne
    rw [hh] at hnew
    exact hnew
  case early =>
    refine (exec_keepAlive_of_taken hp hc).trans (congrArg Host.Outcome.next (if_neg ?_))
    omega
  case word => exact (exec_keepAlive_of_taken hp hc).trans (congrArg Host.Outcome.next (if_pos ⟨h4, h48⟩))

end Sys2Proof.Machine
end

/-! # Acknowledgements and resets of a core (R107, R108, R112 to R114, R396, R402) -/
section
namespace Sys2Proof.Machine

/-! ## Fences, aborts and state accesses (R107, R108, R112, R113) -/

/-- The state in which a fence has been acknowledged and settled. -/
def fenceAcked (c : Nat) (s : State) : State :=
  fenceSettled c false (modCore c (fun x => { x with fenceAck := true, fenceDue := none }) s)

/-- A rung 3 that waits for the fence goes on to its reset. -/
def fenceGoesOn (c : Nat) (f : State) : State :=
  match findUnit f fun u => decide (u.rung = 3 ∧ u.core = c ∧ u.phase = .fence) with
  | some (id, u) => rungSettle id (rung3Reset id u f)
  | none => f

/-- The unit of a rung 1 that waits for the abort is finished. -/
def abortFinishes (c : Nat) (rung : Option (BitVec 16)) (l : State) : State :=
  match rung with
  | none => l
  | some id => match (rungOf l id).bind fun r => r.units.find? fun u => decide (u.rung = 1 ∧ u.core = c) with
    | some u => finishUnit id u l
    | none => l

theorem abortFinishes_of_unit {c : Nat} {id : BitVec 16} {u : RungUnit} {l : State}
    (hu : ((rungOf l id).bind fun r => r.units.find? fun u => decide (u.rung = 1 ∧ u.core = c)) = some u) :
    abortFinishes c (some id) l = finishUnit id u l := by
  simp only [abortFinishes, hu]

section Taken
variable {core : CoreIx} {dc : Nat} {s : State} {co : Core}
  (hp : portTaken s core.toNat = true) (hc : coreOf (rowState core.toNat dc s) core.toNat = some co)
include hp hc

/-- R112: the first acknowledgement of a fence settles it. -/
theorem exec_fenceAck_of_taken : exec (.fenceAck core dc) s =
    .next (if co.fence && !co.fenceAck then fenceGoesOn core.toNat (fenceAcked core.toNat (rowState core.toNat dc s))
      else rowState core.toNat dc s) := by
  refine congrArg Host.Outcome.next ((tapRow_taken hp dc 1 _).trans ?_)
  simp only [hc]
  rfl

/-- R113: an acknowledged abort lowers its holds, and the next one begins. -/
theorem exec_abortAck_of_taken : exec (.abortAck core dc) s =
    .next (if co.abortReq then pumpAborts core.toNat (abortFinishes core.toNat ((co.abortQ.head?).bind (·.2))
        (modCore core.toNat lowerAbortHolds (rowState core.toNat dc s)))
      else rowState core.toNat dc s) := by
  refine congrArg Host.Outcome.next ((tapRow_taken hp dc 1 _).trans ?_)
  simp only [hc]
  cases (co.abortQ.head?).bind (·.2) <;> rfl

/-- R107, R108: an acknowledgement ends the access that stands, and is a violation with none standing or past its time. -/
theorem exec_stateAccessAck_of_taken (rdata : Word) (err : BitVec 2) : exec (.stateAccessAck core dc rdata err) s =
    .next (let c := core.toNat
      let b := rowState c dc s
      if !co.saReq then violate c (if co.saTimedOut then 11 else 10) none b
      else if 1024 < (co.cc - co.saSince).toNat then violate c 11 none (accessEnds c 0 rTimeout true 17 co b)
      else accessEnds c rdata (saCode err) false 2 co b) := by
  refine congrArg Host.Outcome.next ((tapRow_taken hp dc 1 _).trans ?_)
  simp only [hc]

theorem exec_stateAccessTimeout_of_taken : exec (.stateAccessTimeout core dc) s =
    .next (if co.saReq && decide (1024 ≤ (co.cc - co.saSince).toNat) then
        accessEnds core.toNat 0 rTimeout true 17 co (rowState core.toNat dc s)
      else rowState core.toNat dc s) := by
  refine congrArg Host.Outcome.next ((tapRow_taken hp dc 0 _).trans ?_)
  simp only [hc]

end Taken

/-! ## Resets of an engine and of the core (R114, R396) -/

/-- A rung 2 on the engine takes its last step. -/
def engineOut (c e : Nat) (r : State) : State :=
  match findUnit r fun u => decide (u.rung = 2 ∧ u.core = c ∧ u.eng = e) with
  | some (id, u) => finishUnit id u (leaveEngineReset c e (advEngineGen 2 c e r))
  | none => r

/-- A rung 3 on the core, or a test's closing reset, takes its last step. -/
def coreOut (c : Nat) (r : State) : State :=
  match findUnit r fun u => decide (u.rung = 3 ∧ u.core = c ∧ u.phase ≠ .fence) with
  | some (id, u) => finishUnit id u (reset3Ends c r)
  | none => if closingOn r c then closeTest c (reset3Ends c r) else r

section Resets
variable {core : CoreIx} {eng : EngIx} {dc : Nat} {s : State} {co : Core}

theorem exec_engineResetAssert_of_not_live (he : engLive s core.toNat eng.toNat = false) :
    exec (.engineResetAssert core eng dc) s = .next s :=
  congrArg Host.Outcome.next (if_neg (Bool.eq_false_iff.mp he))

theorem exec_engineResetRelease_eq (core : CoreIx) (eng : EngIx) (dc : Nat) (s : State) :
    exec (.engineResetRelease core eng dc) s = execEngineResetRelease core eng dc s := rfl

theorem exec_coreResetAssert_eq (core : CoreIx) (dc : Nat) (s : State) :
    exec (.coreResetAssert core dc) s = execCoreResetAssert core dc s := rfl

theorem exec_coreResetRelease_eq (core : CoreIx) (dc : Nat) (s : State) :
    exec (.coreResetRelease core dc) s = execCoreResetRelease core dc s := rfl

section Standing
variable (h0 : coreOf s core.toNat = some co)
include h0

theorem exec_engineResetRelease_of_out (hout : engPresent co eng.toNat = false ∨ (engOf co eng.toNat).rstN = true) :
    exec (.engineResetRelease core eng dc) s = .next s := by
  simp only [exec_engineResetRelease_eq, execEngineResetRelease, h0]
  refine congrArg Host.Outcome.next (if_neg ?_)
  rcases hout with h | h <;> simp [h]

theorem exec_coreResetAssert_of_in (hin : co.rstN = false) : exec (.coreResetAssert core dc) s = .next s := by
  simp only [exec_coreResetAssert_eq, execCoreResetAssert, h0, hin, Bool.false_eq_true, if_false]

theorem exec_coreResetRelease_of_out (hout : co.rstN = true) : exec (.coreResetRelease core dc) s = .next s := by
  simp only [exec_coreResetRelease_eq, execCoreResetRelease, h0, hout, Bool.not_true, Bool.false_eq_true, if_false]

end Standing

variable (hp : portTaken s core.toNat = true)
include hp

theorem exec_engineResetAssert_of_live (he : engLive s core.toNat eng.toNat = true) :
    exec (.engineResetAssert core eng dc) s = .next (assertEngine core.toNat (rowState core.toNat dc s) eng.toNat) :=
  congrArg Host.Outcome.next ((if_pos he).trans (tapRow_taken hp dc 1 _))

variable (h0 : coreOf s core.toNat = some co)
include h0

/-- R114: the release lets the engine out, and finishes a rung 2 that waits. -/
theorem exec_engineResetRelease_of_in (hpres : engPresent co eng.toNat = true) (hin : (engOf co eng.toNat).rstN = false) :
    exec (.engineResetRelease core eng dc) s = .next (engineOut core.toNat eng.toNat
      (modEng core.toNat eng.toNat (fun en => { en with rstN := true }) (rowState core.toNat dc s))) := by
  simp only [exec_engineResetRelease_eq, execEngineResetRelease, h0]
  refine congrArg Host.Outcome.next ((if_pos ?_).trans (tapRow_taken hp dc 1 _))
  rw [hpres, hin]
  rfl

/-- R396: every engine is in reset, and the core with its epoch and epoch request 0 (log entry 97). -/
theorem exec_coreResetAssert_of_out (hout : co.rstN = true) : exec (.coreResetAssert core dc) s =
    .next (modCore core.toNat (fun x => { x with rstN := false, rstReq := false, epoch := 0, epochReq := false })
      ((enginesOf co).foldl (assertEngine core.toNat) (rowState core.toNat dc s))) := by
  simp only [exec_coreResetAssert_eq, execCoreResetAssert, h0]
  exact congrArg Host.Outcome.next ((if_pos hout).trans (tapRow_taken hp dc 1 _))

/-- R396: the release lets core and engines out, and finishes what waits for it. -/
theorem exec_coreResetRelease_of_in (hin : co.rstN = false) : exec (.coreResetRelease core dc) s =
    .next (coreOut core.toNat (modCore core.toNat (fun x => { x with
      rstN := true, engs := x.engs.map fun en => { en with rstN := true } }) (rowState core.toNat dc s))) := by
  simp only [exec_coreResetRelease_eq, execCoreResetRelease, h0]
  exact congrArg Host.Outcome.next ((if_pos (by rw [hin]; rfl)).trans (tapRow_taken hp dc 1 _))

end Resets

/-! ## An engine in reset (R83, R396) -/

/-- An engine in reset has no request, no command and shows IDLE. -/
def InReset (en : Engine) : Prop := en.rstN = false ∧ en.rstReq = false ∧ en.cur = none ∧ en.rep = 0

theorem assertEngine_inReset {c e : Nat} {s : State} (he : e < 8) (h : CoreAt c (HasEng e fun _ => True) s) :
    CoreAt c (HasEng e InReset) (assertEngine c s e) := by
  have hended : CoreAt c (HasEng e fun en => en.cur = none) (endCommand c e 2 false s) :=
    h.endCommand he (fun _ _ hidle => hidle) (fun _ _ _ _ _ _ => rfl) 2 false
  exact (CoreAt.ite hended (hended.upPush (portFree_hasEng e _).link _)).modEng he fun _ hcur => ⟨rfl, rfl, hcur, rfl⟩

/-! ## The deadline of a fence (R402) -/

/-- The core's own fence is overdue at `now`. -/
def fenceLate (now : GT) (co : Core) : Bool := (co.fenceDue.map fun d => decide (d ≤ now)).getD false

/-- A FENCE command waits for the core beyond its time. -/
def fenceWaits (c : Nat) (s : State) : Bool := s.rec_.fences.any fun w => decide (c ∈ w.waiting ∧ w.due ≤ hubGt s)

/-- The state in which the core's fence is settled without its acknowledgement. -/
def fenceOverdue (c : Nat) (late : Bool) (s : State) : State :=
  fenceSettled c late (modCore c (fun x => { x with fenceDue := if late then none else x.fenceDue }) s)

/-- The unit of a rung 3 on the core that waits for a fence beyond its time. -/
def overdueUnit (c : Nat) (now : GT) (f : State) : Option (BitVec 16 × RungUnit) :=
  findUnit f fun u => decide (u.rung = 3 ∧ u.core = c ∧ u.phase = .fence ∧ u.due ≤ now)

/-- R393: a unit without its acknowledgement escalates, or fails where R40 refuses that, or goes on to its reset. -/
def goesWithoutAck (id : BitVec 16) (u : RungUnit) (g : State) : State :=
  match rungOf g id with
  | none => g
  | some r => match escalateUnit r u g with
    | some h => rungSettle id h
    | none => if mayReach r 4 then rungSettle id (modRung id (unitFailed u false) g) else rungSettle id (rung3Reset id u g)

section WithoutAck
variable {id : BitVec 16} {u : RungUnit} {g : State}

theorem goesWithoutAck_of_no_rung (hr : rungOf g id = none) : goesWithoutAck id u g = g := by
  simp only [goesWithoutAck, hr]

variable {r : Rung} (hr : rungOf g id = some r)
include hr

theorem goesWithoutAck_of_escalated {h : State} (hesc : escalateUnit r u g = some h) :
    goesWithoutAck id u g = rungSettle id h := by
  simp only [goesWithoutAck, hr, hesc]

theorem goesWithoutAck_of_not_escalated (hesc : escalateUnit r u g = none) : goesWithoutAck id u g =
    if mayReach r 4 then rungSettle id (modRung id (unitFailed u false) g) else rungSettle id (rung3Reset id u g) := by
  simp only [goesWithoutAck, hr, hesc]

end WithoutAck

section Deadline
variable {core : CoreIx} {s : State} {co : Core}

theorem exec_fenceAckTimeout_eq (core : CoreIx) (s : State) :
    exec (.fenceAckTimeout core) s = execFenceAckTimeout core s := rfl

variable (hc : coreOf s core.toNat = some co)
include hc

theorem exec_fenceAckTimeout_of_not_due
    (hnot : serving s = false ∨ (fenceLate (hubGt s) co || fenceWaits core.toNat s) = false) :
    exec (.fenceAckTimeout core) s = .next s := by
  simp only [exec_fenceAckTimeout_eq, execFenceAckTimeout, hc, Option.map_some, Option.getD_some]
  refine congrArg Host.Outcome.next (if_neg fun h => ?_)
  obtain ⟨hs, hdue⟩ := Bool.and_eq_true_iff.mp h
  rcases hnot with hns | hnd
  · exact Bool.false_ne_true (hns.symm.trans hs)
  · exact Bool.false_ne_true (hnd.symm.trans hdue)

variable (hs : serving s = true) (hdue : (fenceLate (hubGt s) co || fenceWaits core.toNat s) = true)
include hs hdue

/-- R402: from the deadline on the fence is settled, and a rung 3 whose deadline it is goes on without it. -/
theorem exec_fenceAckTimeout_of_due : exec (.fenceAckTimeout core) s =
    .next (match overdueUnit core.toNat (hubGt s) (fenceOverdue core.toNat (fenceLate (hubGt s) co) s) with
      | none => fenceOverdue core.toNat (fenceLate (hubGt s) co) s
      | some (id, u) => goesWithoutAck id u (modRung id (fun r => { r with noack := true })
          (fenceOverdue core.toNat (fenceLate (hubGt s) co) s))) := by
  simp only [exec_fenceAckTimeout_eq, execFenceAckTimeout, hc, Option.map_some, Option.getD_some]
  exact congrArg Host.Outcome.next (if_pos (Bool.and_eq_true_iff.mpr ⟨hs, hdue⟩))

end Deadline

/-! ## The obligation -/

/-- Settles O44: each row's meaning on the row state, by what stands and what waits for it. -/
theorem coreAcknowledgementsComplete : Obligations.CoreAcknowledgementsComplete := by
  refine ⟨fun core dc s co hp hc => ⟨fun hf ha => ?acked, fun hnot => ?notAcked, fun hreq => ?noAbort, fun hreq => ?aborted,
      fun rdata err => ⟨fun hreq hin => ?answered, fun hreq hlate => ?answeredLate, fun hreq => ?unasked⟩,
      fun hreq htime => ?timedOut, fun hnot => ?inTime⟩,
    fun core eng dc s co hp h0 => ⟨exec_engineResetAssert_of_live hp, exec_engineResetAssert_of_not_live,
      fun hpres hin => ?engineReleased, exec_engineResetRelease_of_out h0, exec_coreResetAssert_of_out hp h0,
      exec_coreResetAssert_of_in h0, exec_coreResetRelease_of_out h0, fun hin => ?coreReleased⟩,
    fun c e s co hw hc he => ?asserted,
    fun core s co hc => ⟨exec_fenceAckTimeout_of_not_due hc, fun hs hdue => ?overdue⟩⟩
  case acked =>
    have hrow := (exec_fenceAck_of_taken hp hc).trans (congrArg Host.Outcome.next (if_pos (by rw [hf, ha]; rfl)))
    refine ⟨fun hnone => hrow.trans ?_, fun id u hsome => hrow.trans ?_⟩
    · simp only [fenceGoesOn, fenceAcked, hnone]
    · simp only [fenceGoesOn, fenceAcked, hsome]
  case notAcked =>
    refine (exec_fenceAck_of_taken hp hc).trans (congrArg Host.Outcome.next (if_neg ?_))
    rcases hnot with h | h <;> simp [h]
  case noAbort =>
    exact (exec_abortAck_of_taken hp hc).trans (congrArg Host.Outcome.next (if_neg (Bool.eq_false_iff.mp hreq)))
  case aborted =>
    have hrow := (exec_abortAck_of_taken hp hc).trans (congrArg Host.Outcome.next (if_pos hreq))
    refine ⟨fun hnone => ?_, fun id u hsome hu => ?_⟩
    · rw [hnone] at hrow
      exact hrow
    · rw [hsome, abortFinishes_of_unit hu] at hrow
      exact hrow
  case answered =>
    refine (exec_stateAccessAck_of_taken hp hc rdata err).trans (congrArg Host.Outcome.next ?_)
    exact (if_neg (by simp [hreq])).trans (if_neg (Nat.not_lt.mpr hin))
  case answeredLate =>
    refine (exec_stateAccessAck_of_taken hp hc rdata err).trans (congrArg Host.Outcome.next ?_)
    exact (if_neg (by simp [hreq])).trans (if_pos hlate)
  case unasked =>
    exact (exec_stateAccessAck_of_taken hp hc rdata err).trans (congrArg Host.Outcome.next (if_pos (by rw [hreq]; rfl)))
  case timedOut =>
    refine (exec_stateAccessTimeout_of_taken hp hc).trans (congrArg Host.Outcome.next (if_pos ?_))
    rw [hreq, decide_eq_true htime]
    rfl
  case inTime =>
    refine (exec_stateAccessTimeout_of_taken hp hc).trans (congrArg Host.Outcome.next (if_neg ?_))
    rcases hnot with h | h
    · simp [h]
    · rw [decide_eq_false (Nat.not_le.mpr h), Bool.and_false]
      exact Bool.false_ne_true
  case engineReleased =>
    have hrow := exec_engineResetRelease_of_in (dc := dc) hp h0 hpres hin
    refine ⟨fun hnone => hrow.trans ?_, fun id u hsome => hrow.trans ?_⟩
    · simp only [engineOut, hnone]
    · simp only [engineOut, hsome]
  case coreReleased =>
    have hrow := exec_coreResetRelease_of_in (dc := dc) hp h0 hin
    refine ⟨fun hnone hopen => hrow.trans ?_, fun hnone hclosing => hrow.trans ?_, fun id u hsome => hrow.trans ?_⟩
    · simp only [coreOut, hnone, hopen, Bool.false_eq_true, if_false]
    · simp only [coreOut, hnone, hclosing, if_true]
    · simp only [coreOut, hsome]
  case asserted =>
    obtain ⟨co', hco', -, hreset⟩ := assertEngine_inReset he ⟨co, hc, coresWhole_length hw hc, trivial⟩
    exact ⟨co', hco', hreset⟩
  case overdue =>
    have hrow := exec_fenceAckTimeout_of_due hc hs hdue
    refine ⟨fun hnone => ?_, fun id u hsome => ?_⟩
    · rw [overdueUnit, fenceOverdue, fenceLate, hnone] at hrow
      exact hrow
    · rw [overdueUnit, fenceOverdue, fenceLate, hsome] at hrow
      refine ⟨fun hr => ?_, fun r hr => ⟨fun h hesc => ?_, fun hesc hmay => ?_, fun hesc hmay => ?_⟩⟩
      · exact hrow.trans (congrArg Host.Outcome.next (goesWithoutAck_of_no_rung hr))
      · exact hrow.trans (congrArg Host.Outcome.next (goesWithoutAck_of_escalated hr hesc))
      · exact hrow.trans (congrArg Host.Outcome.next ((goesWithoutAck_of_not_escalated hr hesc).trans (if_pos hmay)))
      · exact hrow.trans (congrArg Host.Outcome.next
          ((goesWithoutAck_of_not_escalated hr hesc).trans (if_neg (Bool.eq_false_iff.mp hmay))))

end Sys2Proof.Machine
end

/-! # Command rows and the cycles of a core (R88 to R90, R101, R117, R125 to R129) -/
section
namespace Sys2Proof.Machine

/-! ## The cycles keep every core whole (R90, R121) -/

/-- A core with a place for each of its eight engines. -/
def Whole (co : Core) : Prop := co.engs.length = 8

theorem portFree_whole : PortFree Whole := ⟨fun _ _ h => h, fun _ _ h => h⟩

section Cycles
variable (co : Core)

theorem accessRises_engs : (accessRises co).engs = co.engs := by
  rw [accessRises]
  split
  · split <;> rfl
  · rfl

theorem accessRises_cc : (accessRises co).cc = co.cc := by
  rw [accessRises]
  split
  · split <;> rfl
  · rfl

theorem shimAccess_engs (w : DownWord) : (shimAccess w co).engs = co.engs := accessRises_engs _

theorem scanPins_engs : (scanPins co).engs = co.engs := by
  rw [scanPins]
  split
  · split <;> rfl
  · rfl

theorem scanPins_cc : (scanPins co).cc = co.cc := by
  rw [scanPins]
  split
  · split <;> rfl
  · rfl

theorem tickCore_engs (dc : Nat) : (tickCore dc co).engs = co.engs := by
  rw [tickCore, accessRises_engs, scanPins_engs]
  exact (onlyLink_linkCycles dc _).engs

/-- CC goes on with `ts_clk` whatever the counters do. -/
theorem tickCore_cc (dc : Nat) : (tickCore dc co).cc = co.cc + BitVec.ofNat 32 dc := by
  rw [tickCore, accessRises_cc, scanPins_cc]
  exact (onlyLink_linkCycles dc _).cc

theorem advCore_engs_length (dc : Nat) : (advCore dc co).1.engs.length = co.engs.length := by
  rw [advCore]
  split
  · rfl
  · split <;> simp

theorem lowerHolds_engs_length : (lowerHolds co).engs.length = co.engs.length := by
  rw [lowerHolds]
  split
  · rfl
  · simp

end Cycles

section WholeCore
variable {c : Nat} {s : State} (h : CoreAt c Whole s)
include h

theorem CoreAt.modCore_whole {f : Core → Core} (hf : ∀ co, (f co).engs.length = co.engs.length) :
    CoreAt c Whole (Machine.modCore c f s) :=
  h.modCore fun co hco => (hf co).trans hco

theorem epochReport_whole : CoreAt c Whole (epochReport c s) := by
  obtain ⟨co, hc, hco⟩ := h
  rw [epochReport, hc]
  exact CoreAt.upPush portFree_whole.link (CoreAt.modCore_whole ⟨co, hc, hco⟩ fun _ => by simp) _

theorem runNow_whole (resume : Bool) : CoreAt c Whole (runNow c resume s) :=
  (h.modCore_whole (f := fun co => shimRuns resume { co with runAt := none }) fun _ =>
    lowerHolds_engs_length _).guarded epochReport_whole

theorem runDue_whole : CoreAt c Whole (runDue c s) := by
  obtain ⟨co, hc, hco⟩ := h
  have h : CoreAt c Whole s := ⟨co, hc, hco⟩
  rw [runDue, hc]
  dsimp only
  split
  · exact h.guarded fun h => runNow_whole h _
  · exact h

theorem shimTakes_whole (w : DownWord) : CoreAt c Whole (shimTakes w c s) := by
  cases w with
  | access wr space eng addr wdata gen => exact h.modCore_whole fun co => congrArg List.length (shimAccess_engs co _)
  | release engs units => exact (h.modCore_whole fun co => by simp [shimRelease]).guarded epochReport_whole
  | run resume n =>
    obtain ⟨co, hc, hco⟩ := h
    have h : CoreAt c Whole s := ⟨co, hc, hco⟩
    cases n with
    | none => exact runNow_whole h resume
    | some k =>
      have hrun : CoreAt c Whole (modCore c (fun x => { x with runAt := some (k, resume) }) s) := h.modCore_whole fun _ => rfl
      unfold shimTakes
      simp only [hc]
      exact .ite (runNow_whole h resume) hrun
  | scan => exact h.modCore_whole fun co => congrArg List.length (scanPins_engs _)
  | stopArm n hard id => exact h
  | restartArm id => exact h
  | sampleArm n set k => exact h

end WholeCore

theorem shimReads_whole {c : Nat} {s : State} (h : CoreAt c Whole s) (n : Nat) : CoreAt c Whole (shimReads n c s) := by
  induction n generalizing s with
  | zero => exact h
  | succ n ih =>
    rw [shimReads]
    split
    · exact h
    · exact .ite h (ih (shimTakes_whole (h.modCore_whole (f := downPop) fun _ => rfl) _))

theorem tapAdvance_whole {c : Nat} {s : State} (h : CoreAt c Whole s) (dc : Nat) : CoreAt c Whole (tapAdvance c dc s) := by
  obtain ⟨co, hc, hco⟩ := h
  rw [tapAdvance, hc]
  refine CoreAt.ite ⟨co, hc, hco⟩ (CoreAt.modCore_whole (shimReads_whole (runDue_whole ?_) dc) fun _ => rfl)
  refine CoreAt.upPushAll portFree_whole.link ⟨_, by rw [coreOf_modCore_same, hc]; rfl, ?_⟩ _
  exact (congrArg List.length (tickCore_engs _ dc)).trans ((advCore_engs_length co dc).trans hco)

theorem refreshCrossed_whole {c : Nat} {s : State} (h : CoreAt c Whole s) : CoreAt c Whole (refreshCrossed c s) :=
  h.modCore_whole fun _ => by simp

theorem rowState_whole {c : Nat} {s : State} (h : CoreAt c Whole s) (dc : Nat) : CoreAt c Whole (rowState c dc s) :=
  refreshCrossed_whole (tapAdvance_whole (refreshCrossed_whole h) dc)

/-- A core that takes its rows is present, and whole after the cycles of a row. -/
theorem rowState_whole_of_taken {c dc : Nat} {s : State} (hw : coresWhole s = true) (hp : portTaken s c = true) :
    CoreAt c Whole (rowState c dc s) := by
  have hlive := portTaken_tapLive hp
  cases hc : coreOf s c with
  | none => rw [tapLive, hc] at hlive; cases hlive
  | some co => exact rowState_whole ⟨co, hc, coresWhole_length hw hc⟩ dc

/-! ## What the cycles count (R90, R117, R125 to R129) -/

section Counting
variable (dc n : Nat)

theorem tapAdvance_zero (c : Nat) (s : State) : tapAdvance c 0 s = s := by
  rw [tapAdvance]
  split <;> rfl

theorem countersRun_of_quiet_or_frozen {co : Core} (h : co.quietDone = true ∨ co.funcClkEn = false) :
    countersRun co = false := by
  rcases h with h | h <;> simp [countersRun, h]

/-- What a change of every engine keeps of each, it keeps of the engine with a number. -/
theorem engOf_map {α : Type} (g : Engine → α) {f : Engine → Engine} (hf : ∀ en, g (f en) = g en) (co : Core) (e : Nat) :
    g (engOf { co with engs := co.engs.map f } e) = g (engOf co e) := by
  simp only [engOf, List.getD_eq_getElem?_getD, List.getElem?_map]
  cases co.engs[e]? with
  | none => rfl
  | some en => exact hf en

/-- With the counters at rest the cycles count nothing (R117, Table 04.7). -/
theorem advCore_of_not_running {co : Core} (h : countersRun co = false) : (advCore dc co).2 = [] ∧
    (advCore dc co).1.coreBusy = co.coreBusy ∧
    ∀ (α : Type) (g : Engine → α) e, (∀ en b f, g { en with beginCC := b, fresh := f } = g en) →
      g (engOf (advCore dc co).1 e) = g (engOf co e) := by
  rw [advCore, h]
  split
  · exact ⟨rfl, rfl, fun _ _ _ _ => rfl⟩
  · exact ⟨rfl, rfl, fun _ g e hg => engOf_map g (fun en => hg en _ _) co e⟩

variable {en : Engine} (hr : en.rstN = true) (hcur : en.cur.isSome = true)
include hr hcur

theorem countCycles_of_busy (hrep : en.rep = 1) : (countCycles false n en).cmdBusy = en.cmdBusy + BitVec.ofNat 48 n ∧
    (countCycles false n en).cmdStall = en.cmdStall := by
  simp [countCycles, cycleState, hr, hcur, hrep]

theorem countCycles_of_stalled (hrep : en.rep = 2) :
    (countCycles false n en).cmdStall = en.cmdStall + BitVec.ofNat 48 n ∧
    (countCycles false n en).cmdBusy = en.cmdBusy := by
  simp [countCycles, cycleState, hr, hcur, hrep]

/-- R125: in the full set a STALLED cycle counts as such and under its reason. -/
theorem countCycles_full_of_stalled (hrep : en.rep = 2) (hfull : en.fullEn = true) :
    (countCycles false n en).full = addFull (4 + en.stall.toNat) n (addFull 1 n en.full) := by
  simp [countCycles, cycleState, hr, hcur, hrep, hfull]

end Counting

theorem addFull_getD_same {i : Nat} {l : List (BitVec 48)} (hi : i < l.length) (n : Nat) :
    (addFull i n l).getD i 0 = l.getD i 0 + BitVec.ofNat 48 n := by
  simp [addFull, List.getD_eq_getElem?_getD, hi]

theorem addFull_getD_of_ne {i k : Nat} (hk : i ≠ k) (n : Nat) (l : List (BitVec 48)) :
    (addFull i n l).getD k 0 = l.getD k 0 := by
  simp [addFull, List.getD_eq_getElem?_getD, hk]

/-- The counters of STALLED and of a stall reason are two places of the full set of twenty. -/
theorem addFull_stalled {l : List (BitVec 48)} (hl : l.length = 20) (stall : BitVec 4) (n : Nat) :
    (addFull (4 + stall.toNat) n (addFull 1 n l)).getD 1 0 = l.getD 1 0 + BitVec.ofNat 48 n ∧
    (addFull (4 + stall.toNat) n (addFull 1 n l)).getD (4 + stall.toNat) 0 =
      l.getD (4 + stall.toNat) 0 + BitVec.ofNat 48 n := by
  have hstall := stall.isLt
  have hlen : (addFull 1 n l).length = 20 := (List.length_modify ..).trans hl
  constructor
  · rw [addFull_getD_of_ne (by omega), addFull_getD_same (by omega)]
  · rw [addFull_getD_same (by omega), addFull_getD_of_ne (by omega)]

end Sys2Proof.Machine
end

/-! # Begins, ends and state changes of a command (R88 to R90, R96, R101, R129) -/
section
namespace Sys2Proof.Machine

/-! ## Ends (R88, R96, R101) -/

section Ends
variable {c e : Nat} {s t : State} {P : Core → Prop} {Q R : Engine → Prop}

/-- A draw of a free value before it changes nothing of what an operation of the shim changes. -/
theorem ShimOnly.withFree (h : ShimOnly c s t) (n : Nat) : ShimOnly c { s with free := n } { t with free := n } where
  frame := by
    rw [h.frame]
  others := h.others

theorem shimOnly_takeStatus (c e : Nat) (st : BitVec 2) (s : State) :
    ∃ n, ShimOnly c { s with free := n } (takeStatus c e st s).2 := by
  rw [takeStatus]
  split
  · exact ⟨s.free + 1, shimOnly_violateN c 4 (some e) 1 _⟩
  · exact ⟨s.free, .refl c s⟩

theorem CoreAt.takeStatus (hP : PortFree P) (h : CoreAt c P s) (e : Nat) (st : BitVec 2) :
    CoreAt c P (takeStatus c e st s).2 := by
  rw [Machine.takeStatus]
  split
  · exact CoreAt.violateN (s := { s with free := s.free + 1 }) hP h 4 (some e) 1
  · exact h

theorem shimOnly_endOwnCycle (c e : Nat) (st : BitVec 2) (s : State) : ShimOnly c s (endOwnCycle c e st s) := by
  rw [endOwnCycle]
  split
  · exact .refl c s
  · dsimp only
    split
    · exact .refl c s
    · exact (shimOnly_modCore c _ s).trans (shimOnly_upPush c _ _)

/-- An end in the command's own last cycle leaves an engine with no command alone; else its command is the last one. -/
theorem CoreAt.endOwnCycle (he : e < 8) (hidle : ∀ en, Q en → en.cur = none → R en)
    (hend : ∀ en t f k, Q en → en.cur = some t → R (ended t f k en)) (h : CoreAt c (HasEng e Q) s) (st : BitVec 2) :
    CoreAt c (HasEng e R) (endOwnCycle c e st s) := by
  obtain ⟨co, hc, hlen, hQ⟩ := h
  simp only [Machine.endOwnCycle, hc]
  cases ht : (engOf co e).cur with
  | none => exact ⟨co, hc, hlen, hidle _ hQ ht⟩
  | some t =>
    have hbusy : CoreAt c (HasEng e fun en => Q en ∧ en.cur = some t) s := ⟨co, hc, hlen, hQ, ht⟩
    exact (hbusy.modEng he fun en hen => hend en t 0 (countersRun co) hen.1 hen.2).upPush (portFree_hasEng e R).link _

theorem shimOnly_portEnd (c e : Nat) (st : BitVec 2) (own : Bool) (co : Core) (en : Engine) (s : State) :
    ∃ n, ShimOnly c { s with free := n } (portEnd c e st own co en s) := by
  have hfence := shimOnly_judgeFenced c (some e) co s
  rw [portEnd]
  split
  · exact ⟨s.free, hfence.trans (shimOnly_violateN c 2 (some e) 1 _)⟩
  · obtain ⟨n, hstatus⟩ := shimOnly_takeStatus c e st (judgeFenced c (some e) co s)
    have htaken := (hfence.withFree n).trans hstatus
    refine ⟨n, ?_⟩
    split
    · exact htaken.trans (shimOnly_endOwnCycle c e _ _)
    · exact htaken.trans (shimOnly_endCommand c e _ false _)

/-- The end of a command at the port: with none in flight (`en`) only a violation is counted. -/
theorem CoreAt.portEnd {en : Engine} (he : e < 8) (hnone : en.cur = none → ∀ x, Q x → R x)
    (hidle : ∀ en, Q en → en.cur = none → R en) (hend : ∀ en t f k, Q en → en.cur = some t → R (ended t f k en))
    (h : CoreAt c (HasEng e Q) s) (st : BitVec 2) (own : Bool) (co : Core) :
    CoreAt c (HasEng e R) (portEnd c e st own co en s) := by
  have hfence := h.judgeFenced (portFree_hasEng e Q) (some e) co
  rw [Machine.portEnd]
  split
  case isTrue hcur =>
    have hviol := hfence.violateN (portFree_hasEng e Q) 2 (some e) 1
    exact hviol.imp fun _ hx => ⟨hx.1, hnone (Option.isNone_iff_eq_none.mp hcur) _ hx.2⟩
  case isFalse =>
    have hstatus := hfence.takeStatus (portFree_hasEng e Q) e st
    exact .ite (hstatus.endOwnCycle he hidle hend _) (hstatus.endCommand he hidle hend _ false)

/-- Only the crock of an engine changes when a unit's change of state is noted, at the shim or at the leaf (R73, R285). -/
theorem CoreAt.noteState (he : e < 8) (hQ : ∀ en o l, Q en → Q { en with overrun := o, crock := l })
    (h : CoreAt c (HasEng e Q) s) (k cause old new : Nat) (t : GT) :
    CoreAt c (HasEng e Q) (noteState c (some k) cause old new t s) := by
  rw [Machine.noteState]
  refine .ite h (.ite ?_ (h.upPush (portFree_hasEng e Q).link _))
  rw [leafOwn]
  refine .ite ?_ h
  refine CoreAt.modEng_any he (fun en hen => ?_) h _
  split
  · exact hQ en _ en.crock hen
  · exact hQ en en.overrun _ hen

theorem softStopped_of_not_soft (h : CoreAt c (HasEng e fun en => en.st ≠ .softStopping) s) : softStopped c e s = s := by
  obtain ⟨co, hc, -, hst⟩ := h
  simp only [softStopped, hc, Option.map_some]
  exact if_neg fun h => hst h.1

/-- R101: a SOFT_STOPPING engine whose command has ended is STOPPED. -/
theorem CoreAt.softStopped {last : Option Tags} (he : e < 8)
    (h : CoreAt c (HasEng e fun en => en.cur = none ∧ en.last = last ∧ en.st = .softStopping) s) :
    CoreAt c (HasEng e fun en => en.cur = none ∧ en.last = last ∧ en.st = .stopped) (softStopped c e s) := by
  obtain ⟨co, hc, hlen, hcur, hlast, hst⟩ := h
  simp only [Machine.softStopped, hc, Option.map_some, hst, hcur, and_self, if_true]
  refine (CoreAt.noteState he (fun _ _ _ hx => hx) (CoreAt.modEng he (Q := fun en => en.cur = none ∧ en.last = last) ?_ ?_)
    e 0 1 2 _).upPush (portFree_hasEng e _).link _
  · exact fun _ hx => ⟨hx.1, hx.2, rfl⟩
  · exact ⟨co, hc, hlen, hcur, hlast⟩

end Ends

/-! ## Runs of a wrong state (R96) -/

/-- An engine after its state or command has changed: a run of row 4 or row 5 begins, goes on or ends. -/
def runsJudged (x : Engine) : Engine := { x with violIdle := row4 x, violBusy := row5 x && (x.violBusy || !x.counted) }

section Runs
variable {c e : Nat} {s : State} {P : Core → Prop}

theorem shimOnly_judgeRuns (c e : Nat) (s : State) : ShimOnly c s (judgeRuns c e s) := by
  rw [judgeRuns]
  split
  · exact .refl c s
  · refine ShimOnly.trans ?_ (shimOnly_modCore c _ _)
    have h4 : ∀ q : Bool, ShimOnly c s (if q then violate c 4 (some e) s else s) := fun q =>
      .ite (shimOnly_violateN c 4 (some e) 1 s) (.refl c s)
    exact .ite ((h4 _).trans (shimOnly_violateN c 5 (some e) 1 _)) (h4 _)

theorem CoreAt.judgeRuns (hP : PortFree P) (hruns : ∀ co, P co → P (modEngC e runsJudged co)) (h : CoreAt c P s) :
    CoreAt c P (judgeRuns c e s) := by
  obtain ⟨co, hc, hco⟩ := h
  have h : CoreAt c P s := ⟨co, hc, hco⟩
  simp only [Machine.judgeRuns, hc]
  refine CoreAt.modCore hruns ((h.guarded ?_).guarded ?_)
  · exact fun h => h.violateN hP 4 (some e) 1
  · exact fun h => h.violateN hP 5 (some e) 1

/-- With neither run there, nothing is counted. -/
theorem judgeRuns_of_no_run {co : Core} (hc : coreOf s c = some co) (h4 : row4 (engOf co e) = false)
    (h5 : row5 (engOf co e) = false) : judgeRuns c e s = modEng c e runsJudged s := by
  simp only [judgeRuns, hc, h4, h5, Bool.false_and, Bool.false_eq_true, if_false]
  rfl

end Runs

/-! ## The shown state (R86, R87) -/

/-- The word of a state that differs from the one that the engine showed. -/
def stateWord (c : Nat) (eng : EngIx) (en : Engine) (st : BitVec 2) (stall : BitVec 4) (chan : BitVec 18) (s : State) : State :=
  if en.rep = st ∧ en.stall = stall ∧ en.chan = chan then s else upPush c (.state eng st stall chan) s

theorem shimOnly_stateWord (c : Nat) (eng : EngIx) (en : Engine) (st : BitVec 2) (stall : BitVec 4) (chan : BitVec 18)
    (s : State) : ShimOnly c s (stateWord c eng en st stall chan s) :=
  .ite (.refl c s) (shimOnly_upPush c _ s)

theorem CoreAt.stateWord {c : Nat} {s : State} {P : Core → Prop} (hP : LinkFree P) (h : CoreAt c P s) (eng : EngIx)
    (en : Engine) (st : BitVec 2) (stall : BitVec 4) (chan : BitVec 18) :
    CoreAt c P (stateWord c eng en st stall chan s) :=
  .ite h (h.upPush hP _)

/-- What an engine shows. -/
def Shows (st : BitVec 2) (stall : BitVec 4) (chan : BitVec 18) (en : Engine) : Prop :=
  en.rep = st ∧ en.stall = stall ∧ en.chan = chan

/-- The channel's validity by the reason as it is shown is its validity by the reason presented (Table 03.1). -/
theorem shownChan_shownStall (st : BitVec 2) (stall : BitVec 4) (chan : BitVec 18) :
    shownChan st (shownStall st stall) chan = shownChan st stall chan := by
  by_cases hst : st = 2
  · rw [shownStall, if_pos hst]
  · rw [shownChan, shownChan, if_neg fun h => hst h.1, if_neg fun h => hst h.1]

/-! ## Begins (R88, R96, R104, R129) -/

/-- A begin's engine, at core cycle `cc`: the command's tags, zero command counters, the values before the begin kept, the state
shown. -/
def begunEngine (cc : BitVec 32) (t : Tags) (st : BitVec 2) (stall : BitVec 4) (chan : BitVec 18) (x : Engine) : Engine :=
  { x with
    cur := some t, beginCC := some cc, counted := false, accounted := 0
    prevBusy := x.cmdBusy, prevStall := x.cmdStall, cmdBusy := 0, cmdStall := 0
    rep := st, stall := stall, chan := chan }

/-- What a begin leaves of its engine: the command's tags, zero command counters and the shown state. -/
def Begun (t : Tags) (st : BitVec 2) (stall : BitVec 4) (chan : BitVec 18) (en : Engine) : Prop :=
  en.cur = some t ∧ en.cmdBusy = 0 ∧ en.cmdStall = 0 ∧ Shows st stall chan en

/-- The command before the begin has ended: by its own end in this cycle, or with a violation by the begin (R88, row 1). -/
def priorEnded (c e : Nat) (endSt : Option (BitVec 2)) (co : Core) (en : Engine) (s : State) : State :=
  match endSt with
  | some x => portEnd c e x false co en s
  | none => if en.cur.isSome then endCommand c e 1 true (violate c 1 (some e) s) else s

/-- A begin's engine has been judged: the command before it, and its hold (row 3). -/
def beginJudged (c e : Nat) (endSt : Option (BitVec 2)) (co : Core) (en : Engine) (s : State) : State :=
  if en.hold then violate c 3 (some e) (priorEnded c e endSt co en s) else priorEnded c e endSt co en s

/-- A released engine that begins a command is held again and reported done (R104). -/
def stepBegins (c : Nat) (eng : EngIx) (en : Engine) (s : State) : State :=
  if en.released && !en.hold then
    upPush c (.stepDone (some eng) 0) (modEng c eng.toNat (fun x => { x with hold := true, stepBegun := true }) s)
  else s

section Begins
variable {c e : Nat} {s : State} {P Q : Core → Prop}

theorem shimOnly_priorEnded (c e : Nat) (endSt : Option (BitVec 2)) (co : Core) (en : Engine) (s : State) :
    ∃ n, ShimOnly c { s with free := n } (priorEnded c e endSt co en s) := by
  cases endSt with
  | some x => exact shimOnly_portEnd c e x false co en s
  | none =>
    refine ⟨s.free, .ite ?_ (.refl c s)⟩
    exact (shimOnly_violateN c 1 (some e) 1 s).trans (shimOnly_endCommand c e 1 true _)

theorem CoreAt.priorEnded (he : e < 8) (h : CoreAt c (HasEng e fun _ => True) s) (endSt : Option (BitVec 2)) (co : Core)
    (en : Engine) : CoreAt c (HasEng e fun _ => True) (priorEnded c e endSt co en s) := by
  cases endSt with
  | some x => exact h.portEnd he (fun _ _ h => h) (fun _ _ _ => trivial) (fun _ _ _ _ _ _ => trivial) x false co
  | none =>
    refine h.guarded fun h => ?_
    have hviol := h.violateN (portFree_hasEng e _) 1 (some e) 1
    exact hviol.endCommand he (fun _ _ _ => trivial) (fun _ _ _ _ _ _ => trivial) 1 true

theorem shimOnly_beginJudged (c e : Nat) (endSt : Option (BitVec 2)) (co : Core) (en : Engine) (s : State) :
    ∃ n, ShimOnly c { s with free := n } (beginJudged c e endSt co en s) := by
  obtain ⟨n, hprior⟩ := shimOnly_priorEnded c e endSt co en s
  exact ⟨n, .ite (hprior.trans (shimOnly_violateN c 3 (some e) 1 _)) hprior⟩

theorem CoreAt.beginJudged (he : e < 8) (h : CoreAt c (HasEng e fun _ => True) s) (endSt : Option (BitVec 2)) (co : Core)
    (en : Engine) : CoreAt c (HasEng e fun _ => True) (beginJudged c e endSt co en s) :=
  (h.priorEnded he endSt co en).guarded fun h => h.violateN (portFree_hasEng e _) 3 (some e) 1

theorem beginJudged_of_free {en : Engine} (hcur : en.cur = none) (hhold : en.hold = false) (co : Core) :
    beginJudged c e none co en s = s := by
  simp [Machine.beginJudged, Machine.priorEnded, hcur, hhold]

theorem shimOnly_beginCommand (c e : Nat) (t : Tags) (st : BitVec 2) (stall : BitVec 4) (chan : BitVec 18) (s : State) :
    ShimOnly c s (beginCommand c e t st stall chan s) := by
  rw [beginCommand]
  split
  · exact .refl c s
  · exact ((shimOnly_modCore c _ s).trans (shimOnly_modCore c _ _)).trans (shimOnly_upPush c _ _)

/-- A begin marks its core by its tags and its engine as begun. -/
theorem CoreAt.beginCommand {t : Tags} {st : BitVec 2} {stall : BitVec 4} {chan : BitVec 18} (hQ : LinkFree Q)
    (hb : ∀ co m cc, P co → Q (modEngC e (begunEngine cc t st stall chan) { co with tainted := m })) (h : CoreAt c P s) :
    CoreAt c Q (beginCommand c e t st stall chan s) := by
  obtain ⟨co, hc, hco⟩ := h
  simp only [Machine.beginCommand, hc]
  refine CoreAt.upPush hQ (CoreAt.modCore (P := fun x => ∃ y m, P y ∧ x = { y with tainted := m }) ?_
    (CoreAt.modCore (P := P) ?_ ⟨co, hc, hco⟩)) _
  · rintro x ⟨y, m, hy, rfl⟩
    exact hb y m co.cc hy
  · exact fun y hy => ⟨y, _, hy, rfl⟩

/-- The engine of a begin, in a core whose taint may have changed with it. -/
theorem hasEng_begun {co : Core} {t : Tags} {st : BitVec 2} {stall : BitVec 4} {chan : BitVec 18} (he : e < 8)
    (hco : Whole co) (m : Bool) (cc : BitVec 32) :
    HasEng e (Begun t st stall chan) (modEngC e (begunEngine cc t st stall chan) { co with tainted := m }) :=
  HasEng.modEngC (Q := fun _ => True) (co := { co with tainted := m }) he (fun _ _ => ⟨rfl, rfl, rfl, rfl, rfl, rfl⟩)
    ⟨hco, trivial⟩

theorem shimOnly_stepBegins (c : Nat) (eng : EngIx) (en : Engine) (s : State) : ShimOnly c s (stepBegins c eng en s) :=
  .ite ((shimOnly_modCore c _ s).trans (shimOnly_upPush c _ _)) (.refl c s)

theorem CoreAt.stepBegins {eng : EngIx} (hP : LinkFree P)
    (hheld : ∀ co, P co → P (modEngC eng.toNat (fun x => { x with hold := true, stepBegun := true }) co)) (h : CoreAt c P s)
    (en : Engine) : CoreAt c P (stepBegins c eng en s) :=
  h.guarded fun h => (h.modCore hheld).upPush hP _

end Begins

/-! ## The rows -/

/-- The tags of a begin rest on the context table alone. -/
theorem tagsNow_congr {s t : State} (h : t.ctxs = s.ctxs) (ctx layer op : BitVec 16) (seq : BitVec 32) :
    tagsNow t ctx layer op seq = tagsNow s ctx layer op seq := by
  simp only [tagsNow, ctxSecure, ctxPriv, h]

/-- A begin after what came before it has been judged: the command begins, its state is shown, a step's release is reported,
and the runs are judged. -/
def commandBegins (c : Nat) (eng : EngIx) (en : Engine) (t : Tags) (st : BitVec 2) (stall : BitVec 4) (chan : BitVec 18)
    (s : State) : State :=
  judgeRuns c eng.toNat (stepBegins c eng en (stateWord c eng en st stall chan
    (beginCommand c eng.toNat t st stall chan s)))

section CommandBegins
variable {c : Nat} {eng : EngIx} {en : Engine} {t : Tags} {st : BitVec 2} {stall : BitVec 4} {chan : BitVec 18} {s : State}

theorem shimOnly_commandBegins (c : Nat) (eng : EngIx) (en : Engine) (t : Tags) (st : BitVec 2) (stall : BitVec 4)
    (chan : BitVec 18) (s : State) : ShimOnly c s (commandBegins c eng en t st stall chan s) :=
  (((shimOnly_beginCommand c _ t st stall chan s).trans (shimOnly_stateWord c eng en st stall chan _)).trans
    (shimOnly_stepBegins c eng en _)).trans (shimOnly_judgeRuns c _ _)

theorem commandBegins_begun (h : CoreAt c (HasEng eng.toNat fun _ => True) s) :
    CoreAt c (HasEng eng.toNat (Begun t st stall chan)) (commandBegins c eng en t st stall chan s) := by
  have hfree := portFree_hasEng eng.toNat (Begun t st stall chan)
  have hbegun := h.beginCommand hfree.link fun co m cc hco => hasEng_begun eng.isLt hco.1 m cc
  refine ((hbegun.stateWord hfree.link eng en st stall chan).stepBegins hfree.link ?_ en).judgeRuns hfree ?_
  · exact fun co hco => hco.modEngC eng.isLt fun _ hx => hx
  · exact fun co hco => hco.modEngC eng.isLt fun _ hx => hx

/-- A begin that shows BUSY or STALLED counts no violation of its own. -/
theorem commandBegins_violations {v : BitVec 16} (hst : st = 1 ∨ st = 2)
    (h : CoreAt c (fun co => Whole co ∧ co.violations = v) s) :
    CoreAt c (fun co => co.violations = v) (commandBegins c eng en t st stall chan s) := by
  have hfree : LinkFree fun co => HasEng eng.toNat (Begun t st stall chan) co ∧ co.violations = v := fun _ _ hx => hx
  have hbegun := h.beginCommand hfree fun co m cc hco => ⟨hasEng_begun eng.isLt hco.1 m cc, hco.2⟩
  have hreported := (hbegun.stateWord hfree eng en st stall chan).stepBegins (eng := eng) hfree
    (fun co hco => ⟨hco.1.modEngC eng.isLt fun _ hx => hx, hco.2⟩) en
  obtain ⟨co, hc, ⟨-, hcur, -, -, hrep, -⟩, hv⟩ := hreported
  have h4 : row4 (engOf co eng.toNat) = false := by
    rcases hst with rfl | rfl <;> simp [row4, hrep]
  have h5 : row5 (engOf co eng.toNat) = false := by simp [row5, hcur]
  rw [commandBegins, judgeRuns_of_no_run hc h4 h5]
  exact CoreAt.modCore (P := fun x => x.violations = v) (fun _ hx => hx) ⟨co, hc, hv⟩

end CommandBegins

section Rows
variable {core : CoreIx} {eng : EngIx} {dc : Nat} {s : State} {co : Core} (hp : portTaken s core.toNat = true)
  (he : engLive s core.toNat eng.toNat = true) (hc : coreOf (rowState core.toNat dc s) core.toNat = some co)
include hp he hc

theorem exec_tsCmdBegin_of_taken (ctx layer op : BitVec 16) (seq : BitVec 32) (st : BitVec 2) (stall : BitVec 4)
    (chan : BitVec 18) (endSt : Option (BitVec 2)) :
    exec (.tsCmdBegin core eng dc ctx layer op seq st stall chan endSt) s =
      .next (let c := core.toNat
        let en := engOf co eng.toNat
        let x := beginJudged c eng.toNat endSt co en (rowState c dc s)
        commandBegins c eng en (tagsNow x ctx layer op seq) st (shownStall st stall) (shownChan st stall chan) x) := by
  rw [← shownChan_shownStall]
  refine congrArg Host.Outcome.next ((engRow_taken hp he hc _ _).trans ?_)
  cases endSt <;> rfl

theorem exec_tsCmdEnd_of_taken (st : BitVec 2) : exec (.tsCmdEnd core eng dc st) s =
    .next (judgeRuns core.toNat eng.toNat (softStopped core.toNat eng.toNat
      (portEnd core.toNat eng.toNat st true co (engOf co eng.toNat) (rowState core.toNat dc s)))) :=
  congrArg Host.Outcome.next (engRow_taken hp he hc 1 _)

/-- An engine shows the state that is presented, and its word goes upward where it differs from the one before. -/
theorem exec_engineStateChange_of_taken (st : BitVec 2) (stall : BitVec 4) (chan : BitVec 18) :
    exec (.engineStateChange core eng dc st stall chan) s =
      .next (let c := core.toNat
        let e := eng.toNat
        judgeRuns c e (stateWord c eng (engOf co e) st (shownStall st stall) (shownChan st stall chan)
          (modEng c e (fun x => { x with rep := st, stall := shownStall st stall, chan := shownChan st stall chan })
            (rowState c dc s)))) := by
  rw [← shownChan_shownStall]
  exact congrArg Host.Outcome.next (engRow_taken hp he hc 1 _)

end Rows

/-! ## The obligation -/

theorem ShimOnly.frame_free {c n : Nat} {b t : State} (h : ShimOnly c { b with free := n } t) :
    t = { b with cores := t.cores, ao := t.ao, free := t.free } := by
  rw [h.frame]

/-- The end of a command in flight leaves it as the last one, and the engine's state as it was. -/
theorem portEnd_ended {c e : Nat} {s : State} {co : Core} {t0 : Tags} (he : e < 8) (hc : coreOf s c = some co) (hw : Whole co)
    (hcur : (engOf co e).cur = some t0) (st : BitVec 2) (own : Bool) :
    CoreAt c (HasEng e fun en => en.cur = none ∧ en.last = some t0 ∧ en.st = (engOf co e).st)
      (portEnd c e st own co (engOf co e) s) := by
  have hstart : CoreAt c (HasEng e fun en => en.cur = some t0 ∧ en.st = (engOf co e).st) s := ⟨co, hc, hw, hcur, rfl⟩
  refine hstart.portEnd he (fun hnone => ?_) (fun en hen hnone => ?_) (fun en t f k hen ht => ?_) st own co
  · exact absurd (hcur.symm.trans hnone) (Option.some_ne_none t0)
  · exact absurd (hen.1.symm.trans hnone) (Option.some_ne_none t0)
  · exact ⟨rfl, ht.symm.trans hen.1, hen.2⟩

section Completes
variable {core : CoreIx} {eng : EngIx} {dc : Nat} {s : State} {co : Core} (hp : portTaken s core.toNat = true)
  (he : engLive s core.toNat eng.toNat = true) (hc : coreOf (rowState core.toNat dc s) core.toNat = some co) (hw : Whole co)
include hp he hc hw

/-- TS_CMD_BEGIN: what it leaves of its engine, of its core's violations, and of all else. -/
theorem tsCmdBegin_completes (ctx layer op : BitVec 16) (seq : BitVec 32) (st : BitVec 2) (stall : BitVec 4)
    (chan : BitVec 18) (endSt : Option (BitVec 2)) :
    ∃ t, exec (.tsCmdBegin core eng dc ctx layer op seq st stall chan endSt) s = .next t ∧
      (∃ n, ShimOnly core.toNat { rowState core.toNat dc s with free := n } t) ∧
      CoreAt core.toNat (HasEng eng.toNat (Begun (tagsNow (rowState core.toNat dc s) ctx layer op seq) st
        (shownStall st stall) (shownChan st stall chan))) t ∧
      (endSt = none → (engOf co eng.toNat).cur = none → (engOf co eng.toNat).hold = false → st = 1 ∨ st = 2 →
        CoreAt core.toNat (fun x => x.violations = co.violations) t) := by
  obtain ⟨n, hjudged⟩ := shimOnly_beginJudged core.toNat eng.toNat endSt co (engOf co eng.toNat) (rowState core.toNat dc s)
  have hctxs : (beginJudged core.toNat eng.toNat endSt co (engOf co eng.toNat) (rowState core.toNat dc s)).ctxs =
      (rowState core.toNat dc s).ctxs := by rw [hjudged.frame]
  refine ⟨_, exec_tsCmdBegin_of_taken hp he hc ctx layer op seq st stall chan endSt,
    ⟨n, hjudged.trans (shimOnly_commandBegins _ eng _ _ st _ _ _)⟩, ?_, fun hend hcur hhold hst => ?_⟩
  · have hstart : CoreAt core.toNat (HasEng eng.toNat fun _ => True) (rowState core.toNat dc s) := ⟨co, hc, hw, trivial⟩
    rw [← tagsNow_congr hctxs]
    exact commandBegins_begun (hstart.beginJudged eng.isLt endSt co _)
  · refine commandBegins_violations hst ?_
    rw [hend, beginJudged_of_free hcur hhold]
    exact ⟨co, hc, hw, rfl⟩

section End
variable {t0 : Tags} (hcur : (engOf co eng.toNat).cur = some t0) (st : BitVec 2)
include hcur

/-- R101: at the end of its command a SOFT_STOPPING engine is STOPPED. -/
theorem tsCmdEnd_of_softStopping (hst : (engOf co eng.toNat).st = .softStopping) :
    ∃ t, exec (.tsCmdEnd core eng dc st) s = .next t ∧ CoreAt core.toNat
      (HasEng eng.toNat fun en => en.cur = none ∧ en.last = some t0 ∧ en.st = .stopped) t := by
  have hended := portEnd_ended eng.isLt hc hw hcur st true
  rw [hst] at hended
  exact ⟨_, exec_tsCmdEnd_of_taken hp he hc st, (hended.softStopped eng.isLt).judgeRuns (portFree_hasEng _ _)
    fun x hx => hx.modEngC eng.isLt fun _ hen => hen⟩

theorem tsCmdEnd_of_not_softStopping (hst : (engOf co eng.toNat).st ≠ .softStopping) :
    ∃ t, exec (.tsCmdEnd core eng dc st) s = .next t ∧ (∃ n, ShimOnly core.toNat { rowState core.toNat dc s with free := n } t) ∧
      CoreAt core.toNat
        (HasEng eng.toNat fun en => en.cur = none ∧ en.last = some t0 ∧ en.st = (engOf co eng.toNat).st) t := by
  have hended := portEnd_ended eng.isLt hc hw hcur st true
  have hsame := softStopped_of_not_soft (hended.imp fun x ⟨hlen, _, _, hkept⟩ =>
    ⟨hlen, fun hsoft => hst (hkept.symm.trans hsoft)⟩)
  have hrow := exec_tsCmdEnd_of_taken hp he hc st
  rw [hsame] at hrow
  obtain ⟨n, hend⟩ := shimOnly_portEnd core.toNat eng.toNat st true co (engOf co eng.toNat) (rowState core.toNat dc s)
  exact ⟨_, hrow, ⟨n, hend.trans (shimOnly_judgeRuns _ _ _)⟩,
    hended.judgeRuns (portFree_hasEng _ _) fun x hx => hx.modEngC eng.isLt fun _ hen => hen⟩

end End

/-- ENGINE_STATE_CHANGE: the engine shows the state, and nothing outside the core and the lost-account counts changes. -/
theorem engineStateChange_completes (st : BitVec 2) (stall : BitVec 4) (chan : BitVec 18) :
    ∃ t, exec (.engineStateChange core eng dc st stall chan) s = .next t ∧
      ShimOnly core.toNat (rowState core.toNat dc s) t ∧
      CoreAt core.toNat (HasEng eng.toNat (Shows st (shownStall st stall) (shownChan st stall chan))) t := by
  have hfree := portFree_hasEng eng.toNat (Shows st (shownStall st stall) (shownChan st stall chan))
  have hstart : CoreAt core.toNat (HasEng eng.toNat fun _ => True) (rowState core.toNat dc s) := ⟨co, hc, hw, trivial⟩
  refine ⟨_, exec_engineStateChange_of_taken hp he hc st stall chan, ?_, CoreAt.judgeRuns hfree ?_
    (CoreAt.stateWord hfree.link (hstart.modEng eng.isLt ?_) eng _ st _ _)⟩
  · exact ((shimOnly_modCore _ _ _).trans (shimOnly_stateWord _ eng _ st _ _ _)).trans (shimOnly_judgeRuns _ _ _)
  · exact fun x hx => hx.modEngC eng.isLt fun _ hen => hen
  · exact fun _ _ => ⟨rfl, rfl, rfl⟩

end Completes

/-- Settles O40: the rows keep to their core and leave their engine as `Begun`, ended or showing; the cycles count by the state
shown. -/
theorem engineCommandRowsCountCycles : Obligations.EngineCommandRowsCountCycles := by
  refine ⟨⟨fun core eng dc ctx layer op seq st stall chan endSt s hw hp he => ?begins,
      fun core eng dc st s co0 t0 hw hp he hc hcur hst => ?ends, fun core eng dc st stall chan s hw hp he => ?shows⟩,
    tapAdvance_zero, fun dc co => tickCore_cc co dc, fun dc co e hrest => ?rest,
    fun n en hr hcur hrep => countCycles_of_busy n hr hcur hrep, fun n en hr hcur hrep => countCycles_of_stalled n hr hcur hrep,
    fun n en hr hfull hlen hrep hcur => ?fullSet, fun dc n s c act hl hd => tapRow_dead hl hd dc n act,
    fun dc n s c act hs hr hd => tapRow_discards hd hs hr dc n act⟩
  case begins =>
    obtain ⟨co1, hc1, hw1⟩ := rowState_whole_of_taken (dc := dc) hw hp
    obtain ⟨t, hexec, ⟨n, honly⟩, ⟨co, hc, -, hcur, hbusy, hstall, hrep, hreason, hchan⟩, hviol⟩ :=
      tsCmdBegin_completes hp he hc1 hw1 ctx layer op seq st stall chan endSt
    refine ⟨t, co, hexec, hc, honly.frame_free, honly.others, hcur, hbusy, hstall, hrep, hreason, hchan, ?_⟩
    intro co0 hc0 hend hidle hfree hst
    cases Option.some.inj (hc1.symm.trans hc0)
    exact (hviol hend hidle hfree hst).of_coreOf hc
  case ends =>
    have hwhole : Whole co0 := (rowState_whole_of_taken hw hp).of_coreOf hc
    by_cases hsoft : (engOf co0 eng.toNat).st = .softStopping
    · obtain ⟨t, hexec, co, hco, -, hnone, hlast, hstop⟩ := tsCmdEnd_of_softStopping hp he hc hwhole hcur st hsoft
      exact ⟨t, co, hexec, hco, hnone, hlast, fun _ => hstop, fun hnot => absurd hsoft hnot⟩
    · obtain ⟨t, hexec, ⟨n, honly⟩, co, hco, -, hnone, hlast, hkept⟩ :=
        tsCmdEnd_of_not_softStopping hp he hc hwhole hcur st hsoft
      exact ⟨t, co, hexec, hco, hnone, hlast, fun h => absurd h hsoft, fun _ => ⟨hkept, honly.frame_free⟩⟩
  case shows =>
    obtain ⟨co1, hc1, hw1⟩ := rowState_whole_of_taken (dc := dc) hw hp
    obtain ⟨t, hexec, honly, co, hco, -, hrep, hreason, hchan⟩ := engineStateChange_completes hp he hc1 hw1 st stall chan
    exact ⟨t, co, hexec, hco, hrep, hreason, hchan, honly.frame⟩
  case rest =>
    obtain ⟨hwords, hcore, hengs⟩ := advCore_of_not_running dc (countersRun_of_quiet_or_frozen hrest)
    exact ⟨hwords, hengs _ Engine.cmdBusy e fun _ _ _ => rfl, hengs _ Engine.cmdStall e fun _ _ _ => rfl,
      hengs _ Engine.full e fun _ _ _ => rfl, hcore⟩
  case fullSet =>
    rw [countCycles_full_of_stalled n hr hcur hrep hfull]
    exact addFull_stalled hlen en.stall n

end Sys2Proof.Machine
end

/-! # Configuration of counters, pail and trace (R128, R136, R144, R147, R149, R152, R176) -/
section
namespace Sys2Proof.Machine

/-! ## CNT_CONFIG (R128) -/

theorem exec_cntConfig_runs {via : Via} {a m : UnitAddr} {full : Bool} {s b : State}
    (h : accepted via 0x0020 (.cntConfig via a m full) false s = true)
    (hb : begun via 0x0020 (.cntConfig via a m full) s = b) (hd : denied b via .opPlatVen .observe = false)
    (harg : setBadArg b a m 0 = false) (hunit : setBadUnit b a m 0 = false) :
    let es := enginesIn b a m
    let away := es.filter fun q => ((coreOf b q.1).map fun co => co.quietStamp.isSome || co.clockStopped).getD false
    let r := es.foldl (fun s q => refreshCrossed q.1 (setFull full q.1 q.2 s)) (if full then truncateTrace b else b)
    exec (.cntConfig via a m full) s = .next (if away = [] then respond via rOk [] r
      else respond via rPartial (away.map fun q => (fullAddr r (engAddr q.1 q.2)).setWidth 64) r) := by
  refine congrArg Host.Outcome.next ((command_runs_at h hb ?_).trans
    (ite_congr (propext List.isEmpty_iff) (fun _ => rfl) fun _ => rfl))
  simp [hd, harg, hunit]

/-! ## PAIL_CONFIG (R136) -/

/-- A configuration that takes effect changes the pail alone. -/
theorem pailTakeNext_eq (i : BitVec 2) (s : State) : pailTakeNext i s = { s with pail := (pailTakeNext i s).pail } := by
  unfold pailTakeNext
  split <;> rfl

/-! The projected rate is of the chip's units, which the pail's state does not change. -/

theorem pailRate_modSet (i : BitVec 2) (f : PailSet → PailSet) (s : State) (p : PailParams) :
    pailRate (modSet i f s) p = pailRate s p := rfl

theorem pailRate_pailTakeNext (i : BitVec 2) (s : State) (p : PailParams) :
    pailRate (pailTakeNext i s) p = pailRate s p := by
  rw [pailTakeNext_eq]
  rfl

/-- What R147 asks of a Tenant's PAIL_CONFIG: a CTX set without command words, of contexts of its own domain, and of no set that
another domain holds. -/
structure TenantMayConfigure (b : State) (p : PailParams) (d : BitVec 8) : Prop where
  ownContexts : p.enable = true → p.kind = 2 ∧ p.cmd = false ∧ pailCtxs b p d ≠ []
  ownSet : (pailCfg (pailSet b p.set)).isSome = true → pailHolder (pailSet b p.set) = d

/-- What R136, R144 and R149 ask of a configuration that enables a set. -/
structure PailAdmitted (b : State) (p : PailParams) : Prop where
  served : basic b = true → p.kind ≠ 1 ∧ (p.kind = 0 → p.ext = false)
  inRange : pailRangeBad b p = false
  inBudget : overBudget b p = false
  goodUnits : p.kind ≠ 2 → setBadUnit b p.addr p.mask 1 = false

theorem TenantMayConfigure.not_denied {b : State} {p : PailParams} {who : Option Principal}
    (h : isTenant who = true → TenantMayConfigure b p (domainOf who)) :
    (isTenant who && ((pailCfg (pailSet b p.set)).isSome && decide (pailHolder (pailSet b p.set) ≠ domainOf who) ||
      (p.enable && (decide (p.kind ≠ 2) || p.cmd)))) = false := by
  refine Bool.and_eq_false_imp.mpr fun hten => ?_
  refine Bool.or_eq_false_iff.mpr ⟨Bool.and_eq_false_imp.mpr fun hsome => ?_, Bool.and_eq_false_imp.mpr fun hen => ?_⟩
  · simp [(h hten).ownSet hsome]
  · obtain ⟨hctx, hcmd, -⟩ := (h hten).ownContexts hen
    simp [hctx, hcmd]

theorem TenantMayConfigure.has_contexts {b : State} {p : PailParams} {who : Option Principal}
    (h : isTenant who = true → TenantMayConfigure b p (domainOf who)) :
    (p.enable && decide (p.kind = 2) && isTenant who && (pailCtxs b p (domainOf who)).isEmpty) = false := by
  refine Bool.and_eq_false_imp.mpr fun hall => ?_
  simp only [Bool.and_eq_true] at hall
  obtain ⟨⟨hen, -⟩, hten⟩ := hall
  obtain ⟨-, -, hctxs⟩ := (h hten).ownContexts hen
  exact Bool.eq_false_iff.mpr (mt List.isEmpty_iff.mp hctxs)

theorem PailAdmitted.good_units {b : State} {p : PailParams} (h : p.enable = true → PailAdmitted b p) :
    (p.enable && decide (p.kind ≠ 2) && setBadUnit b p.addr p.mask 1) = false := by
  refine Bool.and_eq_false_imp.mpr fun hall => ?_
  obtain ⟨hen, hkind⟩ := (Bool.and_eq_true _ _).mp hall
  exact (h hen).goodUnits (of_decide_eq_true hkind)

theorem PailAdmitted.not_degraded {b : State} {p : PailParams} (h : p.enable = true → PailAdmitted b p) :
    (basic b && p.enable && (decide (p.kind = 1) || (decide (p.kind = 0) && p.ext))) = false := by
  refine Bool.and_eq_false_imp.mpr fun hall => ?_
  simp only [Bool.and_eq_true] at hall
  obtain ⟨hbasic, hen⟩ := hall
  obtain ⟨hfull, hext⟩ := (h hen).served hbasic
  rw [decide_eq_false hfull, decide_and_eq_false hext, Bool.or_false]

/-- The configuration that is accepted waits; with no sample open and none to be published it takes effect at once. -/
theorem exec_pailConfig_runs {via : Via} {p : PailParams} {s b : State}
    (h : accepted via 0x0021 (.pailConfig via p) true s = true) (hb : begun via 0x0021 (.pailConfig via p) s = b)
    (hd : denied b via .everyone (if p.enable && (decide (p.kind = 1) || p.cmd) then .observe else .sealedLevel) = false)
    (ht : isTenant (whoOf b via) = true → TenantMayConfigure b p (domainOf (whoOf b via)))
    (he : p.enable = true → PailAdmitted b p) :
    let r := modSet p.set (fun ps => { ps with next := some (p, domainOf (whoOf b via), !isNarrow via, hubGt b) }) b
    exec (.pailConfig via p) s = .next (respond via rOk [wn (if p.enable then pailRate b p else 0)]
      (if (pailSet r p.set).sample = none ∧ (pailSet r p.set).publish = none then pailTakeNext p.set r else r)) := by
  have hrange : p.enable = true → pailRangeBad b p = false := fun hen => (he hen).inRange
  have hbudget : p.enable = true → overBudget b p = false := fun hen => (he hen).inBudget
  refine congrArg Host.Outcome.next ((command_runs_at h hb ?_).trans ?_)
  · simp only [List.mem_cons, List.not_mem_nil, or_false, forall_eq_or_imp, forall_eq]
    exact ⟨Bool.or_eq_false_iff.mpr ⟨hd, TenantMayConfigure.not_denied ht⟩, Bool.and_eq_false_imp.mpr hrange,
      PailAdmitted.good_units he, TenantMayConfigure.has_contexts ht, PailAdmitted.not_degraded he,
      Bool.and_eq_false_imp.mpr hbudget⟩
  · simp only [apply_ite (pailRate · p), pailRate_pailTakeNext, pailRate_modSet, ite_self, Bool.and_eq_true,
      Option.isNone_iff_eq_none]

/-! ## TRACE_CONFIG (R152) -/

theorem pumpHm_trace (n : Nat) (s : State) : (pumpHm n s).trace = s.trace := by
  induction n generalizing s with
  | zero => rfl
  | succ n ih =>
    unfold pumpHm
    split
    · split
      · exact ih _
      · rfl
    · rfl

@[simp] theorem hmAsk_trace (r : HmReq) (s : State) : (hmAsk r s).trace = s.trace := pumpHm_trace _ _

theorem writeSinkControl_trace {s : State} {p : TraceParams} (h : s.trace.cfg = some p) :
    (writeSinkControl s).trace = { s.trace with ctlDue := false } := by
  simp only [writeSinkControl, h, hmAsk_trace]

/-- R152: the state in which a session has just been entered, its sink's control block still unwritten. -/
def sessionEntered (via : Via) (p : TraceParams) (s : State) : State :=
  { s with trace := {
      enabled := true, cfg := some p, owner := whoOf s via, mailbox := !isNarrow via, start := hubGt s
      startState := BitVec.ofNat 4 (timeStateCode s.time.state)
      capacity := if anyFull s then 5767168 else 8388608, milkNext := s.trace.milkNext } }

theorem startSession_eq (via : Via) (p : TraceParams) (s : State) : startSession via p s =
    if p.sink = 2 then writeSinkControl (sessionEntered via p s) else writeHeader (sessionEntered via p s) := rfl

/-- R152: the session runs with the parameters, from the hub's GT on, for its issuer. -/
theorem startSession_trace (via : Via) (p : TraceParams) (s : State) :
    let t := (startSession via p s).trace
    t.enabled = true ∧ t.cfg = some p ∧ t.start = hubGt s ∧ t.owner = whoOf s via := by
  rw [startSession_eq]
  split
  · rw [writeSinkControl_trace (s := sessionEntered via p s) rfl]
    exact ⟨rfl, rfl, rfl, rfl⟩
  · exact ⟨rfl, rfl, rfl, rfl⟩

theorem hubSession_of_enabled {s : State} (h : s.trace.enabled = true) : hubSession s = s.trace.cfg := if_pos h

theorem hubSession_of_not_enabled {s : State} (h : s.trace.enabled = false) : hubSession s = none :=
  if_neg (Bool.eq_false_iff.mp h)

section TraceConfig
variable {via : Via} {p : TraceParams} {s b : State}
  (h : accepted via 0x0022 (.traceConfig via p) false s = true) (hb : begun via 0x0022 (.traceConfig via p) s = b)
  (hd : denied b via .opPlatVen .observe = false)
include h hb hd

section Ends
variable (he : p.enable = false)
include he

theorem exec_traceConfig_of_none_to_end (hoff : b.trace.enabled = false) :
    exec (.traceConfig via p) s = .next (respond via rOk [] b) := by
  refine congrArg Host.Outcome.next ((command_runs_at h hb ?_).trans ?_)
  · simp [hd, he]
  · rw [if_pos (by rw [he]; rfl), if_neg (Bool.eq_false_iff.mp hoff)]

/-- R176: ENABLE 0 ends the session that runs. -/
theorem exec_traceConfig_of_end (hon : b.trace.enabled = true) :
    exec (.traceConfig via p) s = .next (endSession_ (some via) b) := by
  refine congrArg Host.Outcome.next ((command_runs_at h hb ?_).trans ?_)
  · simp [hd, he]
  · rw [if_pos (by rw [he]; rfl), if_pos hon]

end Ends

section Starts
variable (he : p.enable = true) (hincl : inclDenied b via p.incl 0 = false) (hrange : traceRangeBad b p = false)
  (hunit : setBadUnit b p.addr p.mask 0 = false) (hstop : b.trace.stopping = false)
include he hincl hrange hunit hstop

theorem exec_traceConfig_of_start (hoff : b.trace.enabled = false) : exec (.traceConfig via p) s =
    .next (respond via rOk [] (tellLeaves (some p) (selectData none (some p) (startSession via p b)))) := by
  refine congrArg Host.Outcome.next ((command_runs_at h hb ?_).trans ?_)
  · simp [hd, hincl, hrange, hunit, hstop, hubSession_of_not_enabled hoff]
  · rw [if_neg (by simp [he]), if_neg (Bool.eq_false_iff.mp hoff)]

/-- R152: a session with the same sink, and for a host ring the same ring, takes the new parameters and keeps its ring's size. -/
theorem exec_traceConfig_of_replace {q : TraceParams} (hon : b.trace.enabled = true) (hq : b.trace.cfg = some q)
    (hsink : q.sink = p.sink) (hring : p.sink = 2 → q.ringBase = p.ringBase) :
    let new := { p with ringLog2 := q.ringLog2 }
    exec (.traceConfig via p) s = .next (respond via rOk [] (tellLeaves (some new) (selectData (some q) (some new)
      { b with trace := { b.trace with cfg := some new, owner := whoOf b via, mailbox := !isNarrow via } }))) := by
  have hsession : hubSession b = some q := (hubSession_of_enabled hon).trans hq
  refine congrArg Host.Outcome.next ((command_runs_at h hb ?_).trans ?_)
  · simpa [hd, hincl, hrange, hunit, hstop, hsession, hsink] using fun _ => hring
  · rw [if_neg (by simp [he]), if_pos hon, hsession, hq]
    rfl

end Starts
end TraceConfig

/-! ## The obligation -/

/-- Settles O14: each command runs once its checks pass, TRACE_CONFIG by ENABLE and by whether a session runs. -/
theorem counterPailAndTraceCommandsComplete : Obligations.CounterPailAndTraceCommandsComplete := by
  refine ⟨fun _ _ _ _ _ h => exec_cntConfig_runs h rfl, fun _ _ _ h => ?pail,
    fun _ _ _ h => ?trace, startSession_trace⟩
  case pail =>
    intro b who hd htenant henable
    refine exec_pailConfig_runs h rfl hd (fun hten => ?_) fun hen => ?_
    · obtain ⟨hcontexts, hset⟩ := htenant hten
      exact ⟨hcontexts, hset⟩
    · obtain ⟨hserved, hrange, hbudget, hunits⟩ := henable hen
      exact ⟨hserved, hrange, hbudget, hunits⟩
  case trace =>
    intro b hd
    refine ⟨exec_traceConfig_of_none_to_end h rfl hd, exec_traceConfig_of_end h rfl hd,
      fun hen hincl hrange hunit hstop => ⟨exec_traceConfig_of_start h rfl hd hen hincl hrange hunit hstop, ?_⟩⟩
    intro q hon hq hsink hring
    exact exec_traceConfig_of_replace h rfl hd hen hincl hrange hunit hstop hon hq hsink hring

end Sys2Proof.Machine
end

/-! # Rows of the pail (R97, R131, R136 to R139, R142, R143, R145, R148) -/
section
namespace Sys2Proof.Machine

/-! ## The sample instant at the hub (R136, R137, R142, R143, R145) -/

/-- The open sample of the set `ps` and its header, in the state `m` in which READ has been read. -/
def pailOpened (i : BitVec 2) (read : Word) (p : PailParams) (ps : PailSet) (m : State) : State :=
  let n := if p.kind = 2 then (pailCtxs m p ps.domain).length else (coresIn m p.addr p.mask).length
  let o := modSet i (fun q => { q with
    read := read.toNat, nextK := ps.nextK + 1, missed := 0
    sample := some { k := ps.nextK, instant := sampleInstant ps p, expected := n, offset := ps.write } }) m
  pailAppend i [pk [(4, 4, p.kind.toNat), (8, 4, i.toNat)], wn (sampleInstant ps p),
    pk [(48, 16, satN 16 ps.missed), (37, 1, b2n p.cmd), (36, 1, b2n p.ext), (32, 4, timeStateCode o.time.state),
        (0, 32, ps.nextK)]] o

section Instant
variable {i : BitVec 2} {read : Word} {s : State}

theorem exec_pailSampleInstant_eq (i : BitVec 2) (read : Word) (s : State) :
    exec (.pailSampleInstant i read) s = execPailSampleInstant i read s := rfl

theorem exec_pailSampleInstant_of_unconfigured (hc : (pailSet s i).cfg = none) :
    exec (.pailSampleInstant i read) s = .next s := by
  simp only [exec_pailSampleInstant_eq, execPailSampleInstant, hc]

variable {p0 : PailParams} (hc : (pailSet s i).cfg = some p0)
include hc

theorem exec_pailSampleInstant_of_not_due (hnot : serving s = false ∨ hubGt s < sampleInstant (pailSet s i) p0) :
    exec (.pailSampleInstant i read) s = .next s := by
  have hwait : ¬ (serving s && decide (sampleInstant (pailSet s i) p0 ≤ hubGt s)) = true := by
    rcases hnot with h | h
    · simp [h]
    · simp [Nat.not_le.mpr h]
  simp only [exec_pailSampleInstant_eq, execPailSampleInstant, hc, if_neg hwait]

section Due
variable (hs : serving s = true) (hdue : sampleInstant (pailSet s i) p0 ≤ hubGt s)
include hs hdue

/-- Closing the old sample lets a waiting configuration that disables the set take effect. -/
theorem exec_pailSampleInstant_of_disabled (hb : (pailSet (pailClose i s) i).cfg = none) :
    exec (.pailSampleInstant i read) s = .next (pailClose i s) := by
  simp only [exec_pailSampleInstant_eq, execPailSampleInstant, hc, hs, decide_eq_true hdue, Bool.and_self, if_true, hb]

variable {p : PailParams} (hb : (pailSet (pailClose i s) i).cfg = some p)
include hb

theorem exec_pailSampleInstant_of_configured : exec (.pailSampleInstant i read) s =
    .next (let b := pailClose i s
      let ps := pailSet b i
      let m := readMetered b
      let h := pailOpened i read p ps m
      if ps.fault.isSome then pailSkip i b
      else if ps.next.isSome then b
      else if freeBytes ps p read.toNat < largestSample m p then pailSkipFull i p m
      else if p.kind = 2 then pailClose i (pailContexts i p ps.domain h) else h) := by
  simp only [exec_pailSampleInstant_eq, execPailSampleInstant, hc, hs, decide_eq_true hdue, Bool.and_self, if_true, hb]
  rfl

/-- R145: a faulted set skips. -/
theorem exec_pailSampleInstant_of_faulted (hf : (pailSet (pailClose i s) i).fault.isSome = true) :
    exec (.pailSampleInstant i read) s = .next (pailSkip i (pailClose i s)) :=
  (exec_pailSampleInstant_of_configured hc hs hdue hb).trans (congrArg Host.Outcome.next (if_pos hf))

section Sound
variable (hf : (pailSet (pailClose i s) i).fault = none)
include hf

/-- Table 04.6: a waiting configuration is published for before another sample opens. -/
theorem exec_pailSampleInstant_of_waiting (hn : (pailSet (pailClose i s) i).next.isSome = true) :
    exec (.pailSampleInstant i read) s = .next (pailClose i s) := by
  rw [exec_pailSampleInstant_of_configured hc hs hdue hb]
  simp only [hf, hn, Option.isSome_none, Bool.false_eq_true, if_false, if_true]

variable (hn : (pailSet (pailClose i s) i).next = none)
include hn

/-- R143: with no room for the largest sample above READ the set skips. -/
theorem exec_pailSampleInstant_of_no_room
    (hroom : freeBytes (pailSet (pailClose i s) i) p read.toNat < largestSample (readMetered (pailClose i s)) p) :
    exec (.pailSampleInstant i read) s = .next (pailSkipFull i p (readMetered (pailClose i s))) := by
  rw [exec_pailSampleInstant_of_configured hc hs hdue hb]
  simp only [hf, hn, Option.isSome_none, Bool.false_eq_true, if_false, if_pos hroom]

/-- R142, R143: with room the sample opens, a CTX set's at once with its records and its end. -/
theorem exec_pailSampleInstant_of_room
    (hroom : largestSample (readMetered (pailClose i s)) p ≤ freeBytes (pailSet (pailClose i s) i) p read.toNat) :
    exec (.pailSampleInstant i read) s =
      .next (let ps := pailSet (pailClose i s) i
        let h := pailOpened i read p ps (readMetered (pailClose i s))
        if p.kind = 2 then pailClose i (pailContexts i p ps.domain h) else h) := by
  rw [exec_pailSampleInstant_of_configured hc hs hdue hb]
  simp only [hf, hn, Option.isSome_none, Bool.false_eq_true, if_false, if_neg (Nat.not_lt.mpr hroom)]

end Sound
end Due
end Instant

/-! ## The leaf arms a core for a sample (R97, R138, R139) -/

/-- k of an arm of the set that a core cannot spend, being away. -/
def strandedArm (i : BitVec 2) (co : Core) : Option Nat := if coreAway co = true then unspentArm i co else none

/-- The core is marked as armed for the instant `at_` of the set. -/
def armedFor (i : BitVec 2) (at_ : GT) (x : Core) : Core := { x with pailArmed := x.pailArmed.set i.toNat at_ }

section Leaf
variable {i : BitVec 2} {core : CoreIx} {cyc : Nat} {n : BitVec 32} {s : State} {co : Core}

theorem exec_pailLeafArm_eq (i : BitVec 2) (core : CoreIx) (cyc : Nat) (n : BitVec 32) (s : State) :
    exec (.pailLeafArm i core cyc n) s = execPailLeafArm i core cyc n s := rfl

variable (hc : coreOf s core.toNat = some co)
include hc

theorem exec_pailLeafArm_of_invalid (hv : leafValid s (clusterOf core.toNat) = false) :
    exec (.pailLeafArm i core cyc n) s = .next s := by
  simp only [exec_pailLeafArm_eq, execPailLeafArm, hc, hv, if_true]

variable (hv : leafValid s (clusterOf core.toNat) = true)
include hv

section Stranded
variable {k : Nat} (hk : strandedArm i co = some k)
include hk

theorem exec_pailLeafArm_of_stranded_before (ht : leafGt s (clusterOf core.toNat) cyc < co.pailArmed.getD i.toNat 0) :
    exec (.pailLeafArm i core cyc n) s = .next s := by
  rw [strandedArm] at hk
  simp only [exec_pailLeafArm_eq, execPailLeafArm, hc, hv, Bool.true_eq_false, if_false, hk, if_neg (Nat.not_le.mpr ht)]

/-- R139: at its instant the header-only record takes the place of the arm. -/
theorem exec_pailLeafArm_of_stranded_reached (ht : co.pailArmed.getD i.toNat 0 ≤ leafGt s (clusterOf core.toNat) cyc) :
    exec (.pailLeafArm i core cyc n) s =
      .next (headerOnly i core.toNat k co (modCore core.toNat (withdrawArms i) s)) := by
  rw [strandedArm] at hk
  simp only [exec_pailLeafArm_eq, execPailLeafArm, hc, hv, Bool.true_eq_false, if_false, hk, if_pos ht]

end Stranded

section Free
variable (hk : strandedArm i co = none)
include hk

theorem exec_pailLeafArm_of_nothing (ha : armsCore s i core.toNat = none) :
    exec (.pailLeafArm i core cyc n) s = .next s := by
  rw [strandedArm] at hk
  simp only [exec_pailLeafArm_eq, execPailLeafArm, hc, hv, Bool.true_eq_false, if_false, hk, ha]

variable {q : PailParams} {k : Nat} {at_ : GT} (ha : armsCore s i core.toNat = some (q, k, at_))
include ha

theorem exec_pailLeafArm_of_arm : exec (.pailLeafArm i core cyc n) s =
    .next (if leafGt s (clusterOf core.toNat) cyc + (if coreAway co = true then 0 else 256) < at_ then s
      else if coreAway co = true then headerOnly i core.toNat k co (modCore core.toNat (armedFor i at_) s)
      else downPush core.toNat (.sampleArm (stopCycle co at_ n) i k) (modCore core.toNat (armedFor i at_) s)) := by
  rw [strandedArm] at hk
  simp only [exec_pailLeafArm_eq, execPailLeafArm, hc, hv, Bool.true_eq_false, if_false, hk, ha]
  rfl

theorem exec_pailLeafArm_of_before
    (ht : leafGt s (clusterOf core.toNat) cyc + (if coreAway co = true then 0 else 256) < at_) :
    exec (.pailLeafArm i core cyc n) s = .next s :=
  (exec_pailLeafArm_of_arm hc hv hk ha).trans (congrArg Host.Outcome.next (if_pos ht))

/-- R139: an away core gets its header-only record from the instant on. -/
theorem exec_pailLeafArm_of_away (haway : coreAway co = true) (ht : at_ ≤ leafGt s (clusterOf core.toNat) cyc) :
    exec (.pailLeafArm i core cyc n) s =
      .next (headerOnly i core.toNat k co (modCore core.toNat (armedFor i at_) s)) := by
  rw [exec_pailLeafArm_of_arm hc hv hk ha, if_pos haway, Nat.add_zero, if_neg (Nat.not_lt.mpr ht), if_pos haway]

/-- R138: a running core gets its sample arm from 256 GT before the instant on. -/
theorem exec_pailLeafArm_of_running (hrun : coreAway co = false) (ht : at_ ≤ leafGt s (clusterOf core.toNat) cyc + 256) :
    exec (.pailLeafArm i core cyc n) s =
      .next (downPush core.toNat (.sampleArm (stopCycle co at_ n) i k) (modCore core.toNat (armedFor i at_) s)) := by
  have hnear : ¬ coreAway co = true := Bool.eq_false_iff.mp hrun
  rw [exec_pailLeafArm_of_arm hc hv hk ha, if_neg hnear, if_neg (Nat.not_lt.mpr ht), if_neg hnear]

end Free
end Leaf

/-! ## The shim samples (R131, R138) -/

section Shim
variable {core : CoreIx} {dc cyc : Nat} {s : State} {co : Core}

theorem exec_pailShimSample_eq (core : CoreIx) (dc cyc : Nat) (s : State) :
    exec (.pailShimSample core dc cyc) s = execPailShimSample core dc cyc s := rfl

variable (hl : tapLive s core.toNat = true) (hc : coreOf (tapAdvance core.toNat dc s) core.toNat = some co)
include hl hc

theorem exec_pailShimSample_of_none (ha : co.sampleArms.find? (fun q => ccReached co.cc q.1) = none) :
    exec (.pailShimSample core dc cyc) s = .next (tapAdvance core.toNat dc s) := by
  simp only [exec_pailShimSample_eq, execPailShimSample, hl, if_true, hc, ha]

/-- R131, R138: the record of the oldest arm whose cycle has come goes on its way, LATE where the cycle is another. -/
theorem exec_pailShimSample_of_arm {n : BitVec 32} {i : BitVec 2} {k : Nat} {read : Bool}
    (ha : co.sampleArms.find? (fun q => ccReached co.cc q.1) = some (n, i, k, read)) : ∃ skew : Int,
    exec (.pailShimSample core dc cyc) s =
      .next (let b := tapAdvance core.toNat dc s
        modCore core.toNat (fun x => { spendFlags i x with
          sampleArms := eraseFirst (fun q => q == (n, i, k, read)) x.sampleArms })
        { b with pail := { b.pail with
          flight := b.pail.flight ++
            [takeSample co core.toNat (fullSet b i) i k (read || decide (co.cc ≠ n)) skew] } }) := by
  simp only [exec_pailShimSample_eq, execPailShimSample, hl, if_true, hc, ha]
  exact ⟨_, rfl⟩

end Shim

/-! ## A record reaches the hub (R142, R148) -/

/-- The state once the record has left the flight, and the counters it carries are extended. -/
def recordTaken (s : State) (r : PailRec) : State :=
  let f := { s with pail := { s.pail with flight := eraseFirst (fun q => q == r) s.pail.flight } }
  if basic s = true ∨ r.absent = true then f else modCore r.core (fun co =>
    r.engs.foldl (fun co q => modEngC q.1 (extendFull q.2.1) co) (extendLight r.light co)) f

/-- The state once the record is written to the open sample too. -/
def recordWritten (i : BitVec 2) (p : PailParams) (co : Core) (r : PailRec) (m : State) : State :=
  modSet i (fun q => { q with sample := q.sample.map fun x => { x with records := x.records + 1 } })
    (pailAppend i (pailWords (basic m) p co r) m)

/-- What becomes of a record taken off the flight: one of the open sample is written, and the last one expected closes it. -/
def recordArrived (i : BitVec 2) (r : PailRec) (m : State) : State :=
  match (pailSet m i).cfg, (pailSet m i).sample, coreOf m r.core with
  | some p, some o, some co =>
    if o.k = r.k then
      if o.expected ≤ o.records + 1 then pailClose i (recordWritten i p co r m) else recordWritten i p co r m
    else m
  | _, _, _ => m

section Arrived
variable {i : BitVec 2} {r : PailRec} {m : State}

/-- R142: a record of no open sample is dropped. -/
theorem recordArrived_of_other
    (h : (pailSet m i).cfg = none ∨ coreOf m r.core = none ∨ (∀ o, (pailSet m i).sample = some o → o.k ≠ r.k)) :
    recordArrived i r m = m := by
  unfold recordArrived
  split
  · next p o co hp ho hco =>
    obtain h | h | h := h
    · exact absurd (hp.symm.trans h) (Option.some_ne_none p)
    · exact absurd (hco.symm.trans h) (Option.some_ne_none co)
    · exact if_neg (h o ho)
  · rfl

theorem recordArrived_of_open {p : PailParams} {o : OpenSample} {co : Core} (hp : (pailSet m i).cfg = some p)
    (ho : (pailSet m i).sample = some o) (hco : coreOf m r.core = some co) (hk : o.k = r.k) :
    recordArrived i r m =
      if o.expected ≤ o.records + 1 then pailClose i (recordWritten i p co r m) else recordWritten i p co r m := by
  simp only [recordArrived, hp, ho, hco, if_pos hk]

end Arrived

section Arrival
variable {i : BitVec 2} {s : State}

theorem exec_pailRecordArrival_eq (i : BitVec 2) (s : State) :
    exec (.pailRecordArrival i) s = execPailRecordArrival i s := rfl

theorem exec_pailRecordArrival_of_none (hr : s.pail.flight.find? (recordDue s i) = none) :
    exec (.pailRecordArrival i) s = .next s := by
  simp only [exec_pailRecordArrival_eq, execPailRecordArrival, hr]

theorem exec_pailRecordArrival_of_due {r : PailRec} (hr : s.pail.flight.find? (recordDue s i) = some r) :
    exec (.pailRecordArrival i) s = .next (recordArrived i r (recordTaken s r)) := by
  simp only [exec_pailRecordArrival_eq, execPailRecordArrival, hr]
  exact congrArg (fun m => Host.Outcome.next (recordArrived i r m))
    (ite_congr (Bool.or_eq_true _ _) (fun _ => rfl) fun _ => rfl)

end Arrival

/-! ## Housekeeping (R131, R148) -/

theorem exec_housekeepingSample_of_serving {s : State} (hs : serving s = true) (hb : basic s = false) :
    exec .housekeepingSample s =
      .next { s with cores := tmap (fun _ co => extendLight (co.coreBusy :: co.errs)
        { co with engs := co.engs.map fun en => if en.fullEn then extendFull en.full en else en }) s.cores } :=
  congrArg Host.Outcome.next (if_pos (by rw [hs, hb]; rfl))

theorem exec_housekeepingSample_of_not_sampling {s : State} (h : serving s = false ∨ basic s = true) :
    exec .housekeepingSample s = .next s := by
  refine congrArg Host.Outcome.next (if_neg ?_)
  rcases h with h | h <;> simp [h]

/-! ## The obligation -/

/-- Settles O51: the instant by what the set is after its sample is closed, the leaf's row by what there is to arm, the record by
whether its sample is open. -/
theorem pailRowsComplete : Obligations.PailRowsComplete := by
  refine ⟨fun _ _ _ => exec_pailSampleInstant_of_unconfigured, fun _ _ _ _ hc => ⟨exec_pailSampleInstant_of_not_due hc, ?due⟩,
    fun _ _ _ _ _ _ hc => ⟨exec_pailLeafArm_of_invalid hc, ?valid⟩,
    fun _ _ _ _ _ hl hc => ⟨exec_pailShimSample_of_none hl hc, fun _ _ _ _ => exec_pailShimSample_of_arm hl hc⟩,
    fun _ _ => exec_pailRecordArrival_of_none, fun i s r hr => ⟨fun hother => ?dropped, fun p o co hp ho hco hk => ?written⟩,
    fun _ => exec_housekeepingSample_of_serving, fun _ => exec_housekeepingSample_of_not_sampling⟩
  case due =>
    intro hs hdue
    refine ⟨exec_pailSampleInstant_of_disabled hc hs hdue, fun p hb => ?_⟩
    exact ⟨exec_pailSampleInstant_of_faulted hc hs hdue hb, exec_pailSampleInstant_of_waiting hc hs hdue hb,
      exec_pailSampleInstant_of_no_room hc hs hdue hb, exec_pailSampleInstant_of_room hc hs hdue hb⟩
  case valid =>
    intro hv
    refine ⟨fun k hk => ?_, exec_pailLeafArm_of_nothing hc hv, fun q k at_ hk ha => ?_⟩
    · exact ⟨exec_pailLeafArm_of_stranded_before hc hv hk, exec_pailLeafArm_of_stranded_reached hc hv hk⟩
    · exact ⟨exec_pailLeafArm_of_before hc hv hk ha, exec_pailLeafArm_of_away hc hv hk ha,
        exec_pailLeafArm_of_running hc hv hk ha⟩
  case dropped =>
    exact (exec_pailRecordArrival_of_due hr).trans (congrArg Host.Outcome.next (recordArrived_of_other hother))
  case written =>
    exact (exec_pailRecordArrival_of_due hr).trans (congrArg Host.Outcome.next (recordArrived_of_open hp ho hco hk))

end Sys2Proof.Machine
end

/-! # Rows of trace transport and of triggers at the hub (R166, R168 to R176, R194, R200 to R203) -/
section
namespace Sys2Proof.Machine

/-! ## The milk run (R166) -/

/-- The leaves of the partition in the order in which its milk run comes to them. -/
def milkOrder (p : Nat) (s : State) : List Nat := (List.range 64).map fun k => p * 64 + (s.trace.milkNext.getD p 0 + k) % 64

/-- The leaf has records waiting for the milk run. -/
def leafHasRecords (s : State) (cl : Nat) : Bool := ((tget cl s.leaves).map fun l => !l.stream.out.isEmpty).getD false

/-- The beat of the records `out` of a leaf moved to the hub; the partition's milk run goes on with the leaf after it. -/
def beatMoved (p cl : Nat) (out : List (List Word)) (s : State) : State :=
  let r := beatOf out
  { modLeaf cl (fun l => { l with stream := { l.stream with out := r.2 } }) s with
    trace := { s.trace with
      hubQ := s.trace.hubQ ++ r.1.map fun w => (cl, w)
      milkNext := s.trace.milkNext.set p ((cl + 1) % 64) } }

/-- A beat takes the records of its leaf in order and leaves the rest. -/
theorem beatOf_append (out : List (List Word)) : (beatOf out).1 ++ (beatOf out).2 = out := by
  unfold beatOf
  split
  · rfl
  · rfl
  · split <;> rfl

section Milk
variable {part : PartIx} {s : State} (hs : serving s = true)
include hs

theorem exec_milkRunBeat_of_serving : exec (.milkRunBeat part) s =
    .next (((milkOrder part.toNat s).find? (leafHasRecords s)).elim s fun cl =>
      beatMoved part.toNat cl (((tget cl s.leaves).map (·.stream.out)).getD []) s) := by
  refine congrArg Host.Outcome.next ((if_neg (by simp [hs])).trans ?_)
  unfold milkOrder leafHasRecords
  split
  · next hnone => rw [hnone]; rfl
  · next cl hsome => rw [hsome]; rfl

theorem exec_milkRunBeat_of_none (hnone : (milkOrder part.toNat s).find? (leafHasRecords s) = none) :
    exec (.milkRunBeat part) s = .next s := by
  rw [exec_milkRunBeat_of_serving hs, hnone]
  rfl

theorem exec_milkRunBeat_of_ready {cl : Nat} {l : Leaf} (hcl : (milkOrder part.toNat s).find? (leafHasRecords s) = some cl)
    (hl : tget cl s.leaves = some l) : exec (.milkRunBeat part) s = .next (beatMoved part.toNat cl l.stream.out s) := by
  rw [exec_milkRunBeat_of_serving hs, hcl, Option.elim_some, hl]
  rfl

end Milk

/-! ## The sink and READ of the host ring (R169 to R176) -/

theorem exec_traceSinkWrite_of_empty {s : State} (hs : serving s = true) (hq : s.trace.hubQ = []) :
    exec .traceSinkWrite s = .next (traceFinish (ringPump s)) := by
  refine congrArg Host.Outcome.next ((if_neg (by simp [hs])).trans ?_)
  rw [hq]

theorem exec_traceSinkWrite_of_record {s : State} {cl : Nat} {r : List Word} {l : List (Nat × List Word)}
    (hs : serving s = true) (hq : s.trace.hubQ = (cl, r) :: l) : exec .traceSinkWrite s =
      .next (traceFinish (ringPump (sinkTake cl r { s with trace := { s.trace with hubQ := l } }))) := by
  refine congrArg Host.Outcome.next ((if_neg (by simp [hs])).trans ?_)
  rw [hq]

/-- R173: the hub polls READ. -/
def pollsRead (s : State) : Bool := serving s && sessionRuns s && decide (sinkOf s = 2) && readFits s

theorem exec_traceReadPoll_of_polls {read : Word} {s : State} (h : pollsRead s = true) : exec (.traceReadPoll read) s =
    .next (traceFinish (ringPump { readMetered s with trace := { s.trace with read := read.toNat } })) :=
  congrArg Host.Outcome.next (if_pos h)

theorem exec_traceReadPoll_of_not_polls {read : Word} {s : State} (h : pollsRead s = false) :
    exec (.traceReadPoll read) s = .next s :=
  congrArg Host.Outcome.next (if_neg (Bool.eq_false_iff.mp h))

/-! ## A trigger's stop request (R200) -/

/-- The debug level that a stop request is judged by. -/
def stopLevel (b : State) (x : StopAsk) : DebugLevel := if x.mailbox then b.protect.debug else b.narrow.level

/-- The least debug level that allows the stop. -/
def stopLeast (x : StopAsk) : DebugLevel := if x.hard then .invasive else .observe

/-- The stop's set holds a claimed core, or the system is not free for it. -/
def stopBusy (b : State) (x : StopAsk) : Bool :=
  claimed b (stopSet b x).1 (stopSet b x).2 || systemBusy b (namesOther b (stopSet b x).1 (stopSet b x).2)

/-- R200: the code with which the hub discards a stop request, none where it issues the stop. That the debug level and the sixteenth
cut refuse too is the choice of log entry 33. -/
def stopRefusal (b : State) (x : StopAsk) : Option (BitVec 8) :=
  if levelRank (stopLevel b x) < levelRank (stopLeast x) then some rDenied
  else if basic b then some rDegraded
  else if stopBusy b x then some rBusy
  else if 16 ≤ b.cuts.active.length then some rNoResource else none

def issueStop (x : StopAsk) (b : State) : State :=
  originateCut (stopSet b x).1 (stopSet b x).2 x.hard x.t 4000000 {} x.owner b

/-- R200: the request is counted at its sequencer and reported with its code. -/
def discardStop (x : StopAsk) (code : BitVec 8) (b : State) : State :=
  raiseEvent 0x0200 2 [(fullAddr b (clusterAddr x.cluster)).setWidth 64, wn x.seq, wn x.state, x.value.setWidth 64, wn x.stamp,
    code.setWidth 64] {} 0 (seqDrop x.cluster x.seq b)

section Refusals
variable {b : State} {x : StopAsk}

theorem stopRefusal_of_low (hlow : levelRank (stopLevel b x) < levelRank (stopLeast x)) : stopRefusal b x = some rDenied :=
  if_pos hlow

variable (hlevel : ¬ levelRank (stopLevel b x) < levelRank (stopLeast x))
include hlevel

theorem stopRefusal_of_basic (hbasic : basic b = true) : stopRefusal b x = some rDegraded := by
  simp only [stopRefusal, if_neg hlevel, hbasic, if_true]

theorem stopRefusal_of_full_service (hbasic : basic b = false) : stopRefusal b x =
    if stopBusy b x then some rBusy else if 16 ≤ b.cuts.active.length then some rNoResource else none := by
  simp only [stopRefusal, if_neg hlevel, hbasic, Bool.false_eq_true, if_false]

theorem stopRefusal_of_busy (hbasic : basic b = false) (hbusy : stopBusy b x = true) : stopRefusal b x = some rBusy :=
  (stopRefusal_of_full_service hlevel hbasic).trans (if_pos hbusy)

variable (hbasic : basic b = false) (hfree : stopBusy b x = false)
include hbasic hfree

theorem stopRefusal_of_no_cut (hcuts : 16 ≤ b.cuts.active.length) : stopRefusal b x = some rNoResource := by
  rw [stopRefusal_of_full_service hlevel hbasic, hfree, if_neg Bool.false_ne_true, if_pos hcuts]

theorem stopRefusal_of_free_cut (hcuts : b.cuts.active.length < 16) : stopRefusal b x = none := by
  rw [stopRefusal_of_full_service hlevel hbasic, hfree, if_neg Bool.false_ne_true, if_neg (Nat.not_le.mpr hcuts)]

end Refusals

theorem exec_triggerStopRequest_of_none {s : State} (h : s.triggers.stops = []) : exec .triggerStopRequest s = .next s := by
  refine congrArg Host.Outcome.next ?_
  rw [h]

/-- The state once the oldest stop request, of which `l` are the later ones, is taken. -/
def stopTaken (l : List StopAsk) (s : State) : State := { s with triggers := { s.triggers with stops := l } }

section StopRequest
variable {s : State} {x : StopAsk} {l : List StopAsk} (hx : s.triggers.stops = x :: l) (hs : serving s = true)
include hx hs

theorem exec_triggerStopRequest_of_request : exec .triggerStopRequest s =
    .next ((stopRefusal (stopTaken l s) x).elim (issueStop x (stopTaken l s)) fun code => discardStop x code (stopTaken l s)) := by
  refine congrArg Host.Outcome.next ?_
  rw [hx]
  refine (if_neg (by simp [hs])).trans ?_
  change (match stopRefusal (stopTaken l s) x with
    | none => issueStop x (stopTaken l s)
    | some code => discardStop x code (stopTaken l s)) = _
  cases stopRefusal (stopTaken l s) x with
  | none => rfl
  | some code => rfl

theorem exec_triggerStopRequest_of_allowed (hcode : stopRefusal (stopTaken l s) x = none) :
    exec .triggerStopRequest s = .next (issueStop x (stopTaken l s)) := by
  rw [exec_triggerStopRequest_of_request hx hs, hcode]
  rfl

theorem exec_triggerStopRequest_of_refused {code : BitVec 8} (hcode : stopRefusal (stopTaken l s) x = some code) :
    exec .triggerStopRequest s = .next (discardStop x code (stopTaken l s)) := by
  rw [exec_triggerStopRequest_of_request hx hs, hcode]
  rfl

end StopRequest

/-! ## A raise of a cross-trigger channel (R201 to R203) -/

/-- The state once the oldest raise, of which `l` are the later ones, is taken. -/
def raiseTaken (l : List (Nat × GT × Option (BitVec 16))) (s : State) : State :=
  { s with triggers := { s.triggers with raises := l } }

/-- R202: the raise of the channel, which is `k`, goes on to its chips as a trigger frame. -/
def raiseSentOn (ch : Nat) (g : GT) (k : Channel) (d : State) : State :=
  originateFlood (mkFrame d 0 0x11 0 3 [wn ch, wn g, k.haddr ++ k.hmask] 24) d

theorem exec_crossTriggerRaise_of_none {s : State} (h : s.triggers.raises = []) : exec .crossTriggerRaise s = .next s := by
  refine congrArg Host.Outcome.next ?_
  rw [h]

section Raise
variable {s : State} {ch : Nat} {g : GT} {origin : Option (BitVec 16)} {l : List (Nat × GT × Option (BitVec 16))}
  (hr : s.triggers.raises = (ch, g, origin) :: l) (hs : serving s = true)
include hr hs

/-- R203: a raise less than 256 GT after the last is merged into it. -/
theorem exec_crossTriggerRaise_of_recent {t : GT} (hlast : (s.triggers.channels.getD ch {}).last = some t)
    (ht : hubGt s < t + 256) : exec .crossTriggerRaise s =
      .next (let b := raiseTaken l s
        { b with triggers := { b.triggers with
          channels := s.triggers.channels.modify ch (fun x => { x with merged := x.merged + 1 }) } }) := by
  refine congrArg Host.Outcome.next ?_
  rw [hr]
  refine (if_neg (by simp [hs])).trans (if_pos ?_)
  simp only [hlast]
  exact decide_eq_true ht

section Apart
variable (hlast : ∀ t, (s.triggers.channels.getD ch {}).last = some t → t + 256 ≤ hubGt s)
include hlast

/-- R202: a raise that is not merged is delivered here, and a local one sent on to the channel's chips. -/
theorem exec_crossTriggerRaise_of_apart : exec .crossTriggerRaise s =
    .next (let k := s.triggers.channels.getD ch {}
      let d := deliverChannel ch origin (raiseTaken l s)
      if k.chips && origin.isNone && !basic d then raiseSentOn ch g k d else d) := by
  refine congrArg Host.Outcome.next ?_
  rw [hr]
  refine (if_neg (by simp [hs])).trans (if_neg ?_)
  split
  · exact Bool.false_ne_true
  · next t ht => exact fun h => Nat.not_lt.mpr (hlast t ht) (of_decide_eq_true h)

theorem exec_crossTriggerRaise_of_delivered (hstays : (s.triggers.channels.getD ch {}).chips = false ∨ origin ≠ none ∨
    basic (deliverChannel ch origin (raiseTaken l s)) = true) :
    exec .crossTriggerRaise s = .next (deliverChannel ch origin (raiseTaken l s)) := by
  refine (exec_crossTriggerRaise_of_apart hr hs hlast).trans (congrArg Host.Outcome.next (if_neg fun hsent => ?_))
  simp only [Bool.and_eq_true, Bool.not_eq_true', Option.isNone_iff_eq_none] at hsent
  obtain ⟨⟨hchips, hlocal⟩, hfull⟩ := hsent
  rcases hstays with h | h | h
  · exact Bool.false_ne_true (h.symm.trans hchips)
  · exact h hlocal
  · exact Bool.false_ne_true (hfull.symm.trans h)

theorem exec_crossTriggerRaise_of_sent_on (hchips : (s.triggers.channels.getD ch {}).chips = true) (horigin : origin = none)
    (hbasic : basic (deliverChannel ch origin (raiseTaken l s)) = false) : exec .crossTriggerRaise s =
      .next (raiseSentOn ch g (s.triggers.channels.getD ch {}) (deliverChannel ch origin (raiseTaken l s))) := by
  refine (exec_crossTriggerRaise_of_apart hr hs hlast).trans (congrArg Host.Outcome.next (if_pos ?_))
  rw [hchips, hbasic, horigin]
  rfl

end Apart
end Raise

/-! ## A pulse reaches a leaf (R194, R201) -/

section Deliver
variable {cluster : ClusterIx} {cyc : Nat} {s : State}

theorem exec_crossTriggerDeliver_of_none (h : s.triggers.deliveries.find? (fun d => decide (d.1 = cluster.toNat)) = none) :
    exec (.crossTriggerDeliver cluster cyc) s = .next s := by
  refine congrArg Host.Outcome.next ?_
  rw [h]

variable {d : Nat × Nat × Nat × BitVec 16}
  (hd : s.triggers.deliveries.find? (fun d => decide (d.1 = cluster.toNat)) = some d)
include hd

theorem exec_crossTriggerDeliver_of_invalid (hv : leafValid s cluster.toNat = false) :
    exec (.crossTriggerDeliver cluster cyc) s = .next s := by
  refine congrArg Host.Outcome.next ?_
  rw [hd]
  exact if_pos hv

theorem exec_crossTriggerDeliver_of_valid (hv : leafValid s cluster.toNat = true) :
    exec (.crossTriggerDeliver cluster cyc) s =
      .next (leafMerge cluster.toNat (addEvent cluster.toNat (leafGt s cluster.toNat cyc) (.pulse d.2.1 d.2.2.1 d.2.2.2)
        { s with triggers := { s.triggers with deliveries := eraseFirst (fun x => x == d) s.triggers.deliveries } })) := by
  refine congrArg Host.Outcome.next ?_
  rw [hd]
  exact if_neg (by simp [hv])

end Deliver

/-! ## The obligation -/

/-- Settles O52: a stop request by the code it is refused with, a raise by whether it is merged and whether it is sent on. -/
theorem traceTransportAndTriggerRowsComplete : Obligations.TraceTransportAndTriggerRowsComplete := by
  refine ⟨fun _ _ hs => ⟨exec_milkRunBeat_of_none hs, fun _ l hcl hl => ⟨exec_milkRunBeat_of_ready hs hcl hl,
      (beatOf_append l.stream.out).symm⟩⟩,
    fun _ hs => ⟨exec_traceSinkWrite_of_empty hs, fun _ _ _ => exec_traceSinkWrite_of_record hs⟩,
    fun _ _ => ⟨exec_traceReadPoll_of_polls, exec_traceReadPoll_of_not_polls⟩,
    fun _ => exec_triggerStopRequest_of_none, fun _ _ _ hx hs => ?stop,
    fun _ => exec_crossTriggerRaise_of_none, fun _ _ _ _ _ hr hs => ⟨fun _ => exec_crossTriggerRaise_of_recent hr hs,
      fun hlast => ⟨exec_crossTriggerRaise_of_delivered hr hs hlast, exec_crossTriggerRaise_of_sent_on hr hs hlast⟩⟩,
    fun _ _ _ => exec_crossTriggerDeliver_of_none,
    fun _ _ _ _ hd => ⟨exec_crossTriggerDeliver_of_invalid hd, exec_crossTriggerDeliver_of_valid hd⟩⟩
  case stop =>
    have refused {code : BitVec 8} := exec_triggerStopRequest_of_refused hx hs (code := code)
    refine ⟨fun hlow hbasic hfree hcuts => ?_, fun hlow => ?_, fun hlow hbasic => ?_, fun hlow hbasic hbusy => ?_,
      fun hlow hbasic hfree hcuts => ?_⟩
    · exact exec_triggerStopRequest_of_allowed hx hs
        (stopRefusal_of_free_cut (of_decide_eq_false hlow) hbasic hfree hcuts)
    · exact refused (stopRefusal_of_low (of_decide_eq_true hlow))
    · exact refused (stopRefusal_of_basic (of_decide_eq_false hlow) hbasic)
    · exact refused (stopRefusal_of_busy (of_decide_eq_false hlow) hbasic hbusy)
    · exact refused (stopRefusal_of_no_cut (of_decide_eq_false hlow) hbasic hfree hcuts)

end Sys2Proof.Machine
end

/-! # Frames of the torus and its link state (R202, R441 to R443, R447 to R450, R452, R454, R457) -/
section
namespace Sys2Proof.Machine

/-! ## A port changed -/

section Port
variable {p : Nat} {s : State} (g : IzPort → IzPort)

theorem portOf_modPort_of_present (hp : p < s.iz.ports.length) : portOf (modPort p g s) p = g (portOf s p) := by
  rw [portOf, modPort, portOf, List.getD_eq_getElem?_getD, List.getElem?_modify_eq, List.getD_eq_getElem?_getD,
    List.getElem?_eq_getElem hp, Option.map_eq_map, Option.map_some, Option.getD_some, Option.getD_some]

theorem portOf_modPort_of_absent (hp : s.iz.ports.length ≤ p) : portOf (modPort p g s) p = {} := by
  have hlen : (modPort p g s).iz.ports.length ≤ p := by rwa [modPort, List.length_modify]
  rw [portOf, List.getD_eq_getElem?_getD, List.getElem?_eq_none hlen, Option.getD_none]

end Port

/-! ## A frame at a port (R441 to R443) -/

section FrameReceive
variable {port : BitVec 3} {lane : Bool} {f : Frame} {check : BitVec 32} {arrive : GT} {s : State}

theorem exec_iazanFrameReceive_of_not_live (hst : (portOf s port.toNat).st ≠ .live) :
    exec (.iazanFrameReceive port lane f check arrive) s = .next s :=
  congrArg Host.Outcome.next (if_neg fun ⟨_, _, hlive⟩ => hst hlive)

variable (hs : serving s = true) (hp : port.toNat < 6) (hst : (portOf s port.toNat).st = .live)
include hs hp hst

theorem exec_iazanFrameReceive_of_verified (hcheck : check = frameCheck f (portOf s port.toNat).rxSeq)
    (hlen : f.len.toNat ≤ 3552) : exec (.iazanFrameReceive port lane f check arrive) s =
      .next (acceptFrame port.toNat lane f arrive (modPort port.toNat (fun q => { q with
        rxSeq := q.rxSeq + 1, rejecting := false
        freed := q.freed.modify (2 * (frameClass f.hdr.type).toNat + b2n lane) (· + flitsOf f) }) s)) :=
  congrArg Host.Outcome.next ((if_pos ⟨hs, hp, hst⟩).trans (if_pos ⟨hcheck, hlen⟩))

variable (hbad : check ≠ frameCheck f (portOf s port.toNat).rxSeq ∨ 3552 < f.len.toNat)
include hbad

/-- R442: of a frame that is not accepted only whether the port rejects already matters. -/
theorem exec_iazanFrameReceive_of_unverified : exec (.iazanFrameReceive port lane f check arrive) s =
    .next (if (portOf s port.toNat).rejecting then s
      else modPort port.toNat (fun q => { q with rejecting := true, nakDue := true }) (checkFailed port.toNat s)) :=
  congrArg Host.Outcome.next ((if_pos ⟨hs, hp, hst⟩).trans
    (if_neg fun ⟨hcheck, hlen⟩ => hbad.elim (absurd hcheck) (Nat.not_lt.mpr hlen)))

theorem exec_iazanFrameReceive_of_rejecting (hrej : (portOf s port.toNat).rejecting = true) :
    exec (.iazanFrameReceive port lane f check arrive) s = .next s := by
  rw [exec_iazanFrameReceive_of_unverified hs hp hst hbad, if_pos hrej]

theorem exec_iazanFrameReceive_of_first_rejected (hrej : (portOf s port.toNat).rejecting = false) :
    exec (.iazanFrameReceive port lane f check arrive) s =
      .next (modPort port.toNat (fun q => { q with rejecting := true, nakDue := true }) (checkFailed port.toNat s)) := by
  rw [exec_iazanFrameReceive_of_unverified hs hp hst hbad, if_neg (by simp [hrej])]

end FrameReceive

/-! ## Where an accepted frame goes (R447 to R450, R457) -/

section Accept
variable {p : Nat} {lane : Bool} {f : Frame} {arrive : GT} {s : State}

theorem acceptFrame_of_unknown (hknown : knownType f.hdr.type = false) :
    acceptFrame p lane f arrive s = modPort p (fun q => { q with badType := satInc q.badType }) s :=
  if_pos (by simp [hknown])

variable (hknown : knownType f.hdr.type = true)
include hknown

theorem acceptFrame_of_worn (hhops : 192 ≤ f.hdr.hops.toNat) :
    acceptFrame p lane f arrive s = modPort p (fun q => { q with hopsDrop := satInc q.hopsDrop }) s :=
  (if_neg (by simp [hknown])).trans (if_pos hhops)

variable (hhops : f.hdr.hops.toNat < 192)
include hhops

/-- A frame of a known type that has hops left goes by its type and its destination. -/
theorem acceptFrame_of_deliverable : acceptFrame p lane f arrive s =
    if floodType f.hdr.type then receiveFlood p f arrive s
    else if timeType f.hdr.type then s
    else if f.hdr.dst = chipOf s then receiveLocal (some (BitVec.ofNat 3 p)) f arrive s
    else transitFrame p lane f s :=
  (if_neg (by simp [hknown])).trans (if_neg (Nat.not_le.mpr hhops))

theorem acceptFrame_of_flood (hflood : floodType f.hdr.type = true) :
    acceptFrame p lane f arrive s = receiveFlood p f arrive s :=
  (acceptFrame_of_deliverable hknown hhops).trans (if_pos hflood)

variable (hflood : floodType f.hdr.type = false)
include hflood

theorem acceptFrame_of_time (htime : timeType f.hdr.type = true) : acceptFrame p lane f arrive s = s := by
  rw [acceptFrame_of_deliverable hknown hhops, hflood, if_neg Bool.false_ne_true, if_pos htime]

variable (htime : timeType f.hdr.type = false)
include htime

theorem acceptFrame_of_addressed : acceptFrame p lane f arrive s =
    if f.hdr.dst = chipOf s then receiveLocal (some (BitVec.ofNat 3 p)) f arrive s else transitFrame p lane f s := by
  rw [acceptFrame_of_deliverable hknown hhops, hflood, htime, if_neg Bool.false_ne_true, if_neg Bool.false_ne_true]

theorem acceptFrame_of_here (hdst : f.hdr.dst = chipOf s) :
    acceptFrame p lane f arrive s = receiveLocal (some (BitVec.ofNat 3 p)) f arrive s :=
  (acceptFrame_of_addressed hknown hhops hflood htime).trans (if_pos hdst)

theorem acceptFrame_of_elsewhere (hdst : f.hdr.dst ≠ chipOf s) : acceptFrame p lane f arrive s = transitFrame p lane f s :=
  (acceptFrame_of_addressed hknown hhops hflood htime).trans (if_neg hdst)

end Accept

/-! ## Frames that wait too long for a credit (R450) -/

/-- The port without the frames that have waited 400,000 GT at `now`, which it counts. -/
def agePort (now : GT) (q : IzPort) : IzPort := { q with
  txQ := q.txQ.filter fun f => decide (now < f.since + 400000)
  aged := satInc q.aged (q.txQ.filter fun f => decide (f.since + 400000 ≤ now)).length }

theorem since_of_mem_agePort {now : GT} {q : IzPort} {f : TxFrame} (hf : f ∈ (agePort now q).txQ) : now < f.since + 400000 :=
  of_decide_eq_true (List.mem_filter.mp hf).2

theorem exec_iazanFrameAged_of_serving {port : BitVec 3} {s : State} (hs : serving s = true) :
    exec (.iazanFrameAged port) s = .next (modPort port.toNat (agePort (hubGt s)) s) :=
  congrArg Host.Outcome.next (if_pos hs)

/-- A port that the hub does not have holds no frame, and one that it has keeps the frames not yet old. -/
theorem since_of_mem_aged_port {p : Nat} {s : State} {f : TxFrame}
    (hf : f ∈ (portOf (modPort p (agePort (hubGt s)) s) p).txQ) : hubGt s < f.since + 400000 := by
  rcases Nat.lt_or_ge p s.iz.ports.length with hp | hp
  · rw [portOf_modPort_of_present _ hp] at hf
    exact since_of_mem_agePort hf
  · rw [portOf_modPort_of_absent _ hp] at hf
    exact absurd hf List.not_mem_nil

/-! ## Trigger frames (R202) -/

theorem exec_triggerFrameReceive_of_none {s : State} (h : takeLocal (fun f => decide (f.hdr.type = 0x11)) s = none) :
    exec .triggerFrameReceive s = .next s := by
  refine congrArg Host.Outcome.next ?_
  rw [h]

section TriggerFrame
variable {s b : State} {x : InFrame} (hx : takeLocal (fun f => decide (f.hdr.type = 0x11)) s = some (x, b))
include hx

theorem exec_triggerFrameReceive_of_named (hbasic : basic b = false) (hhere : namesHere b (floodAddr x) (floodMask x) = true) :
    exec .triggerFrameReceive s = .next { b with triggers := { b.triggers with
      raises := b.triggers.raises ++ [(bits (wordOf x 0) 2 0, (wordOf x 1).toNat, some x.frame.hdr.src)] } } := by
  refine congrArg Host.Outcome.next ?_
  rw [hx]
  exact if_pos (by simp [hbasic, hhere])

theorem exec_triggerFrameReceive_of_dropped
    (hdrop : basic b = true ∨ namesHere b (floodAddr x) (floodMask x) = false) :
    exec .triggerFrameReceive s = .next b := by
  refine congrArg Host.Outcome.next ?_
  rw [hx]
  refine if_neg ?_
  rcases hdrop with h | h <;> simp [h]

end TriggerFrame

/-! ## The hub's own link-state entry (R452, R454) -/

section OwnEntry
variable {s : State}

theorem exec_linkStatePeriodic_of_due (hs : serving s = true) (hdue : s.iz.lastLinkFlood + 400000000 ≤ hubGt s) :
    exec .linkStatePeriodic s = .next (floodLinkState s) :=
  congrArg Host.Outcome.next (if_pos ⟨hs, hdue⟩)

theorem exec_linkStatePeriodic_of_early (hearly : hubGt s < s.iz.lastLinkFlood + 400000000) :
    exec .linkStatePeriodic s = .next s :=
  congrArg Host.Outcome.next (if_neg fun ⟨_, hdue⟩ => Nat.not_le.mpr hearly hdue)

theorem exec_avoidEntry_of_first (hs : serving s = true) (havoid : s.iz.avoid = false) :
    exec .avoidEntry s = .next (floodLinkState { s with iz := { s.iz with avoid := true } }) :=
  congrArg Host.Outcome.next (if_pos ⟨hs, havoid⟩)

theorem exec_avoidEntry_of_avoid (havoid : s.iz.avoid = true) : exec .avoidEntry s = .next s :=
  congrArg Host.Outcome.next (if_neg fun ⟨_, hfirst⟩ => Bool.false_ne_true (hfirst.symm.trans havoid))

end OwnEntry

/-! ## The link-state entries of other hubs (R454) -/

/-- R454: an entry held that was heard lately and is later by its sequence number stands against the one received. -/
def heldAgainst (b : State) (e o : LinkEntry) : Bool := !staleEntry b o && decide (2 ^ 15 ≤ (e.seq - o.seq).toNat)

/-- The entry that the frame brings to a hub in state `b`. -/
def entryIn (b : State) (x : InFrame) : LinkEntry := entryOf (x.frame.payload.getD 0 0) (hubGt b)

/-- The entry of `chip` set to `e`. -/
def linkKept (chip : BitVec 16) (e : LinkEntry) (b : State) : State :=
  { b with iz := { b.iz with links := tset chip.toNat e b.iz.links } }

theorem exec_linkStateReceive_of_no_frame {s : State} (h : takeLocal (fun f => decide (f.hdr.type = 0x12)) s = none) :
    exec .linkStateReceive s = .next s := by
  refine congrArg Host.Outcome.next ?_
  rw [h]

section LinkStateFrame
variable {s b : State} {x : InFrame} (hx : takeLocal (fun f => decide (f.hdr.type = 0x12)) s = some (x, b))
include hx

theorem exec_linkStateReceive_of_no_entry (hnone : tget x.frame.hdr.src.toNat b.iz.links = none) :
    exec .linkStateReceive s = .next (linkKept x.frame.hdr.src (entryIn b x) b) := by
  refine congrArg Host.Outcome.next ?_
  rw [hx]
  refine if_neg ?_
  rw [hnone]
  exact Bool.false_ne_true

variable {o : LinkEntry} (ho : tget x.frame.hdr.src.toNat b.iz.links = some o)
include ho

theorem exec_linkStateReceive_of_entry : exec .linkStateReceive s =
    .next (if heldAgainst b (entryIn b x) o then b else linkKept x.frame.hdr.src (entryIn b x) b) := by
  refine congrArg Host.Outcome.next ?_
  rw [hx]
  dsimp only
  rw [ho]
  rfl

theorem exec_linkStateReceive_of_newer (hnew : staleEntry b o = true ∨ ((entryIn b x).seq - o.seq).toNat < 2 ^ 15) :
    exec .linkStateReceive s = .next (linkKept x.frame.hdr.src (entryIn b x) b) := by
  rw [exec_linkStateReceive_of_entry hx ho, if_neg]
  simp only [heldAgainst, Bool.and_eq_true, Bool.not_eq_true', decide_eq_true_eq]
  rintro ⟨hlately, hlater⟩
  exact hnew.elim (fun hstale => Bool.false_ne_true (hlately.symm.trans hstale)) (Nat.not_lt.mpr hlater)

theorem exec_linkStateReceive_of_older (hlately : staleEntry b o = false) (hlater : 2 ^ 15 ≤ ((entryIn b x).seq - o.seq).toNat) :
    exec .linkStateReceive s = .next b := by
  rw [exec_linkStateReceive_of_entry hx ho, if_pos]
  simp only [heldAgainst, hlately, Bool.not_false, Bool.true_and, decide_eq_true hlater]

end LinkStateFrame

section Stale
variable {chip : BitVec 16} {s : State}

theorem exec_linkStateStale_of_no_entry (hnone : tget chip.toNat s.iz.links = none) : exec (.linkStateStale chip) s = .next s := by
  refine congrArg Host.Outcome.next ?_
  rw [hnone]

variable {e : LinkEntry} (he : tget chip.toNat s.iz.links = some e)
include he

theorem exec_linkStateStale_of_heard (hheard : hubGt s < e.heard + 1200000000) : exec (.linkStateStale chip) s = .next s := by
  refine congrArg Host.Outcome.next ?_
  rw [he]
  exact if_neg fun hstale => Nat.not_le.mpr hheard (of_decide_eq_true hstale)

theorem exec_linkStateStale_of_unheard (hstale : e.heard + 1200000000 ≤ hubGt s) :
    exec (.linkStateStale chip) s = .next (linkKept chip { e with ports := List.replicate 6 (0, 0, false) } s) := by
  refine congrArg Host.Outcome.next ?_
  rw [he]
  exact if_pos (decide_eq_true hstale)

end Stale

/-! ## The obligation -/

/-- Settles O57: a frame by its check and where it goes by its type, the ageing at the port, and the link state by what entry the
hub holds and when it was heard. -/
theorem iazanFramesAndLinkStateComplete : Obligations.IazanFramesAndLinkStateComplete := by
  refine ⟨⟨fun _ _ _ _ _ _ hs hp hst => ⟨exec_iazanFrameReceive_of_verified hs hp hst, fun hbad =>
        ⟨exec_iazanFrameReceive_of_rejecting hs hp hst hbad, exec_iazanFrameReceive_of_first_rejected hs hp hst hbad⟩⟩,
      fun _ _ _ _ _ _ => exec_iazanFrameReceive_of_not_live,
      fun _ _ _ _ _ => acceptFrame_of_unknown, fun _ _ _ _ _ => acceptFrame_of_worn, fun _ _ _ _ _ => acceptFrame_of_flood,
      fun _ _ _ _ _ => acceptFrame_of_time, fun _ _ _ _ _ hknown hhops hflood htime =>
        ⟨acceptFrame_of_here hknown hhops hflood htime, acceptFrame_of_elsewhere hknown hhops hflood htime⟩,
      fun port s hs => ?aged⟩,
    fun _ _ _ hx => ⟨exec_triggerFrameReceive_of_named hx, exec_triggerFrameReceive_of_dropped hx⟩,
    fun _ => exec_triggerFrameReceive_of_none,
    fun _ hs => ⟨exec_linkStatePeriodic_of_due hs, exec_linkStatePeriodic_of_early, exec_avoidEntry_of_first hs,
      exec_avoidEntry_of_avoid⟩,
    fun _ _ _ hx => ⟨exec_linkStateReceive_of_no_entry hx, fun _ ho => ⟨exec_linkStateReceive_of_newer hx ho,
      exec_linkStateReceive_of_older hx ho⟩⟩,
    fun _ => exec_linkStateReceive_of_no_frame,
    fun _ _ => exec_linkStateStale_of_no_entry,
    fun _ _ _ he => ⟨exec_linkStateStale_of_heard he, exec_linkStateStale_of_unheard he⟩⟩
  case aged =>
    refine ⟨_, exec_iazanFrameAged_of_serving hs, rfl, fun _ hf => since_of_mem_aged_port hf, fun hp => ?_⟩
    rw [portOf_modPort_of_present _ hp]
    rfl

end Sys2Proof.Machine
end

/-! # Skim captures: their commands and their rows at the leaf (R226 to R229, R235, R236; log 34) -/
section
namespace Sys2Proof.Machine

/-! ## SKIM_ARM, CANCEL and SKIM_READ (R226, R227, R235, R236) -/

/-- No cluster's capture satisfies a test that every capture the clusters hold fails. -/
theorem any_capture_eq_false {b : State} {cls : List Nat} {f : Capture → Bool}
    (h : ∀ cl ∈ cls, ∀ c, capOf b cl = some c → f c = false) :
    cls.any (fun cl => ((capOf b cl).map f).getD false) = false := by
  refine List.any_eq_false.mpr fun cl hcl => Bool.eq_false_iff.mp ?_
  cases hc : capOf b cl with
  | none => rfl
  | some c => exact h cl hcl c hc

/-- R227: with no live capture in the way the leaves are loaded; PARTIAL names those with a watched core that is away. -/
theorem exec_skimArm_runs {via : Via} {p : SkimParams} {s b : State} (h : accepted via 0x0024 (.skimArm via p) false s = true)
    (hb : begun via 0x0024 (.skimArm via p) s = b) (hd : denied b via .everyone .observe = false)
    (ht : isTenant (whoOf b via) = true → tenantSkimOk b via p = true)
    (hincl : inclDenied b via p.incl 1 (if p.ctxMask = 0xFFFF then some (ctxDomain b p.ctx.toNat) else none) = false)
    (hrange : skimRangeBad b p = false) (hunit : setBadUnit b p.addr p.mask 2 = false)
    (hfree : ∀ cl ∈ clustersIn b p.addr p.mask, ∀ c, capOf b cl = some c → capLive c = false) :
    let r := (clustersIn b p.addr p.mask).foldl (fun s cl => driveStore cl
      (modLeaf cl (fun l => { l with skim := { cap := some (newCapture via p b), queue := [] } }) s)) b
    let away := (clustersIn b p.addr p.mask).filter fun cl => awayWatched r cl p.cores
    exec (.skimArm via p) s = .next (if away = [] then respond via rOk [] r
      else respond via rPartial (away.map fun cl => (fullAddr r (clusterAddr cl)).setWidth 64) r) := by
  have htenant : (isTenant (whoOf b via) && !tenantSkimOk b via p) = false :=
    Bool.and_eq_false_imp.mpr fun hten => by rw [ht hten, Bool.not_true]
  refine congrArg Host.Outcome.next ((command_runs_at h hb ?_).trans
    (ite_congr (propext List.isEmpty_iff) (fun _ => rfl) fun _ => rfl))
  simp only [List.mem_cons, List.not_mem_nil, or_false, forall_eq_or_imp, forall_eq]
  exact ⟨Bool.or_eq_false_iff.mpr ⟨Bool.or_eq_false_iff.mpr ⟨hd, htenant⟩, hincl⟩, hrange, hunit,
    any_capture_eq_false hfree⟩

/-- R236: a Tenant cancels only captures that it armed. -/
theorem exec_skimCancel_runs {via : Via} {a m : UnitAddr} {s b : State}
    (h : accepted via 0x0024 (.skimCancel via a m) false s = true) (hb : begun via 0x0024 (.skimCancel via a m) s = b)
    (hd : denied b via .everyone .observe = false)
    (hown : isTenant (whoOf b via) = true → ∀ cl ∈ clustersIn b a m, ∀ c, capOf b cl = some c → c.who = whoOf b via)
    (harg : setBadArg b a m 2 = false) (hunit : setBadUnit b a m 2 = false) : exec (.skimCancel via a m) s =
      .next (respond via rOk [] ((clustersIn b a m).foldl (fun s cl => cancelCapture cl s) b)) := by
  have hforeign : (isTenant (whoOf b via) && (clustersIn b a m).any fun cl =>
      ((capOf b cl).map fun c => decide (c.who ≠ whoOf b via)).getD false) = false :=
    Bool.and_eq_false_imp.mpr fun hten => any_capture_eq_false fun cl hcl c hc =>
      decide_eq_false (not_not_intro (hown hten cl hcl c hc))
  refine congrArg Host.Outcome.next (command_runs_at h hb ?_)
  simp only [List.mem_cons, List.not_mem_nil, or_false, forall_eq_or_imp, forall_eq]
  exact ⟨Bool.or_eq_false_iff.mpr ⟨hd, hforeign⟩, harg, hunit⟩

/-- R235: the one cluster named is `cl`, and its leaf holds a capture. -/
theorem exec_skimRead_runs {via : Via} {a : UnitAddr} {s b : State} {cl : Nat} {c : Capture}
    (h : accepted via 0x0025 (.skimRead via a 0xFFFFFF80) false s = true)
    (hb : begun via 0x0025 (.skimRead via a 0xFFFFFF80) s = b) (hd : denied b via .everyone .observe = false)
    (harg : setBadArg b a 0xFFFFFF80 2 = false) (hunit : setBadUnit b a 0xFFFFFF80 2 = false)
    (hcl : (clustersIn b a 0xFFFFFF80).head? = some cl) (hc : capOf b cl = some c)
    (hown : isTenant (whoOf b via) = true → c.who = whoOf b via) :
    exec (.skimRead via a 0xFFFFFF80) s = .next (respond via rOk (skimRecord b cl c) b) := by
  have hcap : ((clustersIn b a 0xFFFFFF80).head?).bind (capOf b) = some c := by rw [hcl, Option.bind_some, hc]
  have hforeign : (isTenant (whoOf b via) && decide (c.who ≠ whoOf b via)) = false :=
    Bool.and_eq_false_imp.mpr fun hten => decide_eq_false (not_not_intro (hown hten))
  refine congrArg Host.Outcome.next ((command_runs_at h hb ?_).trans ?_)
  · simp only [hcap, List.mem_cons, List.not_mem_nil, or_false, forall_eq_or_imp, forall_eq]
    exact ⟨Bool.or_eq_false_iff.mpr ⟨hd, hforeign⟩, Bool.or_eq_false_iff.mpr ⟨harg, rfl⟩, hunit, rfl⟩
  · simp only [hcl, hc]

/-! ## SKIM_ELEMENT (R212, R228; log 34) -/

section Element
variable {cluster : ClusterIx} {s : State} {l : Leaf} (hl : tget cluster.toNat s.leaves = some l)
include hl

theorem exec_skimElement_of_empty (hq : l.skim.queue = []) : exec (.skimElement cluster) s = .next s := by
  refine congrArg Host.Outcome.next ?_
  rw [hl, Option.map_some, hq]

variable {x : SkimElem} {q : List SkimElem} (hq : l.skim.queue = x :: q)
include hq

theorem exec_skimElement_of_settled (hx : elemSettled s cluster.toNat x = true) : exec (.skimElement cluster) s =
    .next (takeElem cluster.toNat x (modLeaf cluster.toNat (fun l => { l with skim := { l.skim with queue := q } }) s)) := by
  refine congrArg Host.Outcome.next ?_
  rw [hl, Option.map_some, hq]
  exact if_pos hx

theorem exec_skimElement_of_unsettled (hx : elemSettled s cluster.toNat x = false) :
    exec (.skimElement cluster) s = .next s := by
  refine congrArg Host.Outcome.next ?_
  rw [hl, Option.map_some, hq]
  exact if_neg (Bool.eq_false_iff.mp hx)

end Element

/-! ## SKIM_CAPTURE_OPEN (R228) -/

section CaptureOpen
variable {cluster : ClusterIx} {cyc : Nat} {s : State} {x : Capture} (hx : capOf s cluster.toNat = some x)
include hx

theorem exec_skimCaptureOpen_of_due (hphase : x.phase = .loaded) (hvalid : leafValid s cluster.toNat = true)
    (hgt : x.openAt ≤ leafGt s cluster.toNat cyc) (hlater : (x.closeAt.all fun q => decide (x.openAt < q.1)) = true) :
    exec (.skimCaptureOpen cluster cyc) s = .next (modCap cluster.toNat (fun c => { c with phase := .isOpen }) s) := by
  refine congrArg Host.Outcome.next ?_
  rw [hx]
  exact if_pos ⟨hphase, hvalid, hgt, hlater⟩

theorem exec_skimCaptureOpen_of_not_due (hnot : x.phase ≠ .loaded ∨ leafValid s cluster.toNat = false ∨
      leafGt s cluster.toNat cyc < x.openAt ∨ (x.closeAt.all fun q => decide (x.openAt < q.1)) = false) :
    exec (.skimCaptureOpen cluster cyc) s = .next s := by
  refine congrArg Host.Outcome.next ?_
  rw [hx]
  refine if_neg fun ⟨hphase, hvalid, hgt, hlater⟩ => ?_
  obtain hother | hinvalid | hearly | hshut := hnot
  · exact hother hphase
  · exact Bool.eq_false_iff.mp hinvalid hvalid
  · exact Nat.not_le.mpr hearly hgt
  · exact Bool.eq_false_iff.mp hshut hlater

end CaptureOpen

/-! ## SKIM_CLOSE_TIME (R229) -/

section CloseTime
variable {cluster : ClusterIx} {cyc : Nat} {s : State} {l : Leaf} {x : Capture}
  (hl : tget cluster.toNat s.leaves = some l) (hx : l.skim.cap = some x)
include hl hx

theorem exec_skimCloseTime_of_no_instant (hnone : x.closeAt = none) : exec (.skimCloseTime cluster cyc) s = .next s := by
  refine congrArg Host.Outcome.next ?_
  simp only [hl, hx, hnone]

variable {t : GT} {cause : BitVec 4} {st : Option (BitVec 4)} (hclose : x.closeAt = some (t, cause, st))
include hclose

theorem exec_skimCloseTime_of_not_due (hdue : (capLive x && leafValid s cluster.toNat &&
      decide (t ≤ leafGt s cluster.toNat cyc) && watchedPast s cluster.toNat x.p t) = false) :
    exec (.skimCloseTime cluster cyc) s = .next s := by
  refine congrArg Host.Outcome.next ?_
  simp only [hl, hx, hclose]
  exact if_neg (Bool.eq_false_iff.mp hdue)

/-- R229: the elements that wait are taken first, and one of them may close the capture by COUNT before its instant does. -/
theorem exec_skimCloseTime_of_due (hdue : (capLive x && leafValid s cluster.toNat &&
      decide (t ≤ leafGt s cluster.toNat cyc) && watchedPast s cluster.toNat x.p t) = true)
    (hlive : ((capOf (l.skim.queue.foldl (fun s y => takeElem cluster.toNat y s) s) cluster.toNat).map capLive).getD false =
      true) :
    exec (.skimCloseTime cluster cyc) s =
      .next (closeCapture cluster.toNat cause t (l.skim.queue.foldl (fun s y => takeElem cluster.toNat y s) s)) := by
  refine congrArg Host.Outcome.next ?_
  simp only [hl, hx, hclose]
  exact (if_pos hdue).trans (if_pos hlive)

end CloseTime

/-! ## The obligation -/

/-- Settles O16: each command runs once its checks pass, and each row by the leaf's queue and its capture's instants. -/
theorem skimCommandsAndRowsComplete : Obligations.SkimCommandsAndRowsComplete := by
  refine ⟨⟨fun _ _ _ h => exec_skimArm_runs h rfl, fun _ _ _ _ h => exec_skimCancel_runs h rfl,
      fun _ _ _ _ _ h => exec_skimRead_runs h rfl⟩,
    fun _ _ _ hl => ⟨exec_skimElement_of_empty hl, fun _ _ => exec_skimElement_of_settled hl,
      fun _ _ => exec_skimElement_of_unsettled hl⟩,
    fun _ _ _ _ hx => ⟨exec_skimCaptureOpen_of_due hx, exec_skimCaptureOpen_of_not_due hx⟩,
    fun _ _ _ _ _ _ _ _ hl hx hclose => ⟨exec_skimCloseTime_of_not_due hl hx hclose,
      exec_skimCloseTime_of_due hl hx hclose⟩,
    fun _ _ _ _ _ => exec_skimCloseTime_of_no_instant⟩

end Sys2Proof.Machine
end

/-! # STOP_AT, STEP and RESUME (R243 to R247, R262, R263, R267 to R271, R275; log 36) -/
section
namespace Sys2Proof.Machine

/-! ## STOP_AT (R243 to R247, R262, R263) -/

/-- R243, R246: an ARM that nothing refuses originates its cut and answers with the cut's number and instant. -/
theorem exec_stopAtArm_runs {via : Via} {a m : UnitAddr} {hard tform : Bool} {t : Word} {watchdog : BitVec 32} {s b : State}
    (h : accepted via 0x0030 (.stopAtArm via a m hard tform t watchdog) false s = true)
    (hb : begun via 0x0030 (.stopAtArm via a m hard tform t watchdog) s = b)
    (hd : denied b via .opPlatVen (if hard then .invasive else .observe) = false) (hv : vendorAway b via a m = false)
    (harg : setBadArg b a m 1 true = false) (hw : watchdogBad watchdog = false)
    (hi : instantBad b (namesOther b a m) (instantOf b (namesOther b a m) tform t) = false)
    (hu : setBadUnit b a m 1 = false) (hsys : systemBusy b (namesOther b a m) = false) (hc : claimed b a m = false)
    (hroom : b.cuts.active.length < 16) :
    exec (.stopAtArm via a m hard tform t watchdog) s = .next (respond via rPending
      [(newCutId b).setWidth 64, wn (instantOf b (namesOther b a m) tform t)]
      (originateCut a m hard (instantOf b (namesOther b a m) tform t) (defaultWatchdog watchdog) (ownerOf b via) (whoOf b via)
        b)) := by
  refine congrArg Host.Outcome.next (command_runs_at h hb ?_)
  simp [hd, hv, harg, hw, hi, hu, hsys, hc, hroom]

/-- R245: a CANCEL before the least lead withdraws the cut, on every chip of a system cut, and raises its event. -/
theorem exec_stopAtCancel_runs {via : Via} {id : BitVec 32} {s b : State} {x y : Cut}
    (h : accepted via 0x0030 (.stopAtCancel via id) false s = true) (hb : begun via 0x0030 (.stopAtCancel via id) s = b)
    (hd : denied b via .opPlatVen .observe = false) (hx : keptCut b id = some x) (hy : activeCut b id = some y)
    (hlead : hubGt b + leastLead b y.system ≤ y.t) :
    exec (.stopAtCancel via id) s = .next (raiseCut id (cancelCut id
      (if y.system then stopFlood 1 false id 0 y.addr y.mask 0 0 0 (respond via rOk [] b) else respond via rOk [] b))) := by
  refine congrArg Host.Outcome.next ((command_runs_at h hb ?_).trans ?_)
  · simp [hd, hx, hy, hlead]
  · simp only [hy]

/-- R263: a REPORT answers the header of the record and its entries from FIRST on. -/
theorem exec_stopAtReport_runs {via : Via} {id first : BitVec 32} {s b : State} {x : Cut}
    (h : accepted via 0x0030 (.stopAtReport via id first) false s = true)
    (hb : begun via 0x0030 (.stopAtReport via id first) s = b)
    (hd : denied b via .opPlatVen .observe = false) (hx : keptCut b id = some x)
    (hfirst : first = 0 ∨ first.toNat < x.entries.length) :
    exec (.stopAtReport via id first) s =
      .next (respond via rOk (cutHeader b x ++ (x.entries.drop first.toNat).take 448) b) := by
  refine congrArg Host.Outcome.next ((command_runs_at h hb ?_).trans ?_)
  · simpa [hd, hx] using Decidable.or_iff_not_imp_left.mp hfirst
  · simp only [hx]

/-! ## STEP (R267 to R271) -/

/-- A command taken up for which the checks give no code acts. -/
theorem command_runs_of_no_code {via cmd i served s b} (h : accepted via cmd i served s = true) (hb : begun via cmd i s = b)
    {checks act} (hc : firstCode (checks b) = none) : command via cmd i served checks act s = act b := by
  subst hb
  rw [command_accepted h, hc]

/-- The conditions of a second list come after those of the first. -/
theorem firstCode_append (l l' : List (Bool × BitVec 8)) : firstCode (l ++ l') = (firstCode l).or (firstCode l') := by
  induction l with
  | nil => rfl
  | cons q l ih =>
    obtain ⟨failed, code⟩ := q
    cases failed with
    | true => rfl
    | false => exact ih

section Step
variable {via : Via} {id : BitVec 32} {a m : UnitAddr} {s b : State} {x : Cut}

theorem exec_stepCommand_runs {bound : BitVec 32}
    (h : accepted via 0x0031 (.stepCommand via id a m bound) false s = true)
    (hb : begun via 0x0031 (.stepCommand via id a m bound) s = b)
    (hc : firstCode (stepChecks via id a m 0 false (stepBoundBad bound) b) = none) (hx : activeCut b id = some x) :
    exec (.stepCommand via id a m bound) s =
      .next (beginStep via id .command (stoppedEngines b x a m) [] 0 0 1 (stepBound bound) b) := by
  refine congrArg Host.Outcome.next ((command_runs_of_no_code h hb hc).trans ?_)
  simp only [hx]

theorem exec_stepContext_runs {ctx rounds : BitVec 16} {bound : BitVec 32}
    (h : accepted via 0x0031 (.stepContext via id a m ctx rounds bound) false s = true)
    (hb : begun via 0x0031 (.stepContext via id a m ctx rounds bound) s = b)
    (hc : firstCode (stepChecks via id a m 0 false (stepBoundBad bound || decide (rounds = 0)) b) = none)
    (hx : activeCut b id = some x) :
    exec (.stepContext via id a m ctx rounds bound) s =
      .next (beginStep via id .context (stoppedEngines b x a m) [] 0 ctx rounds.toNat (stepBound bound) b) := by
  refine congrArg Host.Outcome.next ((command_runs_of_no_code h hb hc).trans ?_)
  simp only [hx]

theorem exec_stepFiring_runs {steer : BitVec 4} {withEng : Bool} {bound : BitVec 32}
    (h : accepted via 0x0031 (.stepFiring via id a m steer withEng bound) false s = true)
    (hb : begun via 0x0031 (.stepFiring via id a m steer withEng bound) s = b)
    (hc : firstCode (stepChecks via id a m 1 false (stepBoundBad bound || decide (steer = 0)) b) = none)
    (hx : activeCut b id = some x) :
    exec (.stepFiring via id a m steer withEng bound) s =
      .next (beginStep via id .firing (if withEng then stoppedEngines b x a m else [])
        ((stoppedEngines b x a m).map Prod.fst).eraseDups steer 0 1 (stepBound bound) b) := by
  refine congrArg Host.Outcome.next ((command_runs_of_no_code h hb hc).trans ?_)
  simp only [hx]

/-- R271: the new cut of a TIME step released at `r`, which STEP_COMPLETE names by the step's number. -/
def timeStepCut (via : Via) (a m : UnitAddr) (delta : Word) (r : GT) (x : Cut) (b : State) : Cut :=
  { bareCut (newCutId b) a m x.hard (r + delta.toNat) x.watchdog (ownerOf b via) true (namesOther b a m) (whoOf b via) b with
    byStep := some (b.cuts.stepNum, ownerOf b via) }

/-- The next step and the next cut take the next numbers (R613). -/
def timeStepNumbered (b : State) : State :=
  { b with cuts := { b.cuts with stepNum := b.cuts.stepNum + 1, next := nextSeq b.cuts.next } }

theorem exec_stepTime_runs {delta : Word} {r : GT} {n : State}
    (h : accepted via 0x0031 (.stepTime via id a m delta) false s = true)
    (hb : begun via 0x0031 (.stepTime via id a m delta) s = b)
    (hr : hubGt b + defaultLead b (namesOther b a m) = r)
    (hn : respond via rPending [wn b.cuts.stepNum, (newCutId b).setWidth 64] (timeStepNumbered b) = n)
    (hlo : 64 ≤ delta.toNat) (hhi : delta.toNat ≤ 2 ^ 40)
    (hc : firstCode (stepChecks via id a m 1 true false b) = none) (hroom : b.cuts.active.length < 16)
    (hx : activeCut b id = some x) :
    exec (.stepTime via id a m delta) s = .next (if namesOther b a m
      then stopFlood 3 x.hard id r a m x.watchdog delta ((newCutId b).setWidth 64)
        (armTimeStep id (newCutId b) a m r (timeStepCut via a m delta r x b) n)
      else armTimeStep id (newCutId b) a m r (timeStepCut via a m delta r x b) n) := by
  have hdelta : decide (delta.toNat < 64 ∨ 2 ^ 40 < delta.toNat) = false := decide_eq_false (by omega)
  have hcode : firstCode (stepChecks via id a m 1 true (decide (delta.toNat < 64 ∨ 2 ^ 40 < delta.toNat)) b ++
      [(decide (16 ≤ b.cuts.active.length), rNoResource)]) = none := by
    rw [firstCode_append, hdelta, hc, decide_eq_false (Nat.not_le.mpr hroom)]
    rfl
  refine congrArg Host.Outcome.next ((command_runs_of_no_code h hb hcode).trans ?_)
  subst hr hn
  simp only [hx]
  rfl

end Step

/-! ## RESUME (R275) -/

/-- R275: a RESUME that nothing refuses is recorded on its cut, with the instant at which its cores run. -/
theorem exec_resume_runs {via : Via} {id : BitVec 32} {a m : UnitAddr} {tform : Bool} {r : Word} {s b : State} {x : Cut}
    (h : accepted via 0x0032 (.resume via id a m tform r) false s = true)
    (hb : begun via 0x0032 (.resume via id a m tform r) s = b)
    (hd : denied b via .opPlatVen .sealedLevel = false) (hv : vendorAway b via a m = false)
    (harg : setBadArg b a m 1 true = false) (hx : keptCut b id = some x)
    (hlead : leadShort b (namesOther b a m) (instantOf b (namesOther b a m) tform r) = false)
    (hu : setBadUnit b a m 1 = false) (hbusy : resumeBusy b x a m = false)
    (hdiam : namesOther b a m = true → b.time.diam ≠ none) :
    let n := modCut id (fun x => { x with
        resumes := x.resumes ++ [(a, m, instantOf b (namesOther b a m) tform r, some (ownerOf b via))] })
      (respond via rPending [] b)
    exec (.resume via id a m tform r) s = .next (if namesOther b a m
      then stopFlood 2 false id (instantOf b (namesOther b a m) tform r) a m 0 0 0 n else n) := by
  refine congrArg Host.Outcome.next (command_runs_at h hb ?_)
  simpa [hd, hv, harg, hx, hlead, hu, hbusy, Option.isSome_iff_ne_none] using hdiam

/-! ## The obligations -/

/-- Settles O18: each form of STOP_AT runs once its checks pass. -/
theorem stopAtCommandsComplete : Obligations.StopAtCommandsComplete :=
  ⟨fun _ _ _ _ _ _ _ _ h => exec_stopAtArm_runs h rfl, fun _ _ _ _ _ h => exec_stopAtCancel_runs h rfl,
    fun _ _ _ _ _ h => exec_stopAtReport_runs h rfl⟩

/-- Settles O19: each form of STEP runs once its checks give no code, and RESUME once its own pass. -/
theorem stepAndResumeCommandsComplete : Obligations.StepAndResumeCommandsComplete :=
  ⟨fun _ _ _ _ _ _ _ h => exec_stepCommand_runs h rfl, fun _ _ _ _ _ _ _ _ _ h => exec_stepContext_runs h rfl,
    fun _ _ _ _ _ _ _ _ _ h => exec_stepFiring_runs h rfl, fun _ _ _ _ _ _ _ h => exec_stepTime_runs h rfl rfl rfl,
    fun _ _ _ _ _ _ _ _ h => exec_resume_runs h rfl⟩

end Sys2Proof.Machine
end

/-! # Instants of a cut, a step and a RESUME at the hub (R248, R249, R265 to R277) -/
section
namespace Sys2Proof.Machine

/-! ## LEAF_CUT_REPORT (R248, R265) -/

/-- The report of leaf `cl` no longer awaited by the cut. -/
def leafReportTaken (id : BitVec 32) (cl : Nat) (s : State) : State :=
  noteT id (modCut id (fun y => { y with
    reports := y.reports.filter (· ≠ cl), leaves := y.leaves.filter (· ≠ cl) }) s)

section LeafReport
variable {cluster : ClusterIx} {id : BitVec 32} {s : State} {x : Cut} (hx : activeCut s id = some x)
include hx

theorem exec_leafCutReport_of_unawaited (hnot : cluster.toNat ∉ x.reports) : exec (.leafCutReport cluster id) s = .next s := by
  refine congrArg Host.Outcome.next ?_
  rw [hx]
  exact if_neg fun ⟨hawaited, _⟩ => hnot hawaited

variable (hs : serving s = true) (hawaited : cluster.toNat ∈ x.reports)
include hs hawaited

theorem exec_leafCutReport_of_awaited : exec (.leafCutReport cluster id) s =
    .next (if x.leaves.filter (· ≠ cluster.toNat) = [] then endIfOver id (completeCut id (leafReportTaken id cluster.toNat s))
      else leafReportTaken id cluster.toNat s) := by
  refine congrArg Host.Outcome.next ?_
  rw [hx]
  exact if_pos ⟨hawaited, hs⟩

theorem exec_leafCutReport_of_more (hmore : x.leaves.filter (· ≠ cluster.toNat) ≠ []) :
    exec (.leafCutReport cluster id) s = .next (leafReportTaken id cluster.toNat s) := by
  rw [exec_leafCutReport_of_awaited hx hs hawaited, if_neg hmore]

/-- R248, R265: the last leaf's report completes this chip's part. -/
theorem exec_leafCutReport_of_last (hlast : x.leaves.filter (· ≠ cluster.toNat) = []) :
    exec (.leafCutReport cluster id) s =
      .next (endIfOver id (completeCut id (leafReportTaken id cluster.toNat s))) := by
  rw [exec_leafCutReport_of_awaited hx hs hawaited, if_pos hlast]

end LeafReport

/-! ## The watchdog and the deadline of a cut (R249, R265) -/

/-- The engines of the cut that are still SOFT_STOPPING. -/
def lateEngines (s : State) (x : Cut) : List (Nat × Nat) :=
  x.soft.filter fun q => ((coreOf s q.1).map fun co => decide ((engOf co q.2).st = .softStopping)).getD false

section Watchdog
variable {id : BitVec 32} {s : State} {x : Cut} (hx : activeCut s id = some x)
include hx

/-- R249: the late engines are marked, and no leaf waits for them any more. -/
theorem exec_stopWatchdogExpiry_of_due (hdue : x.t + x.watchdog ≤ hubGt s) :
    exec (.stopWatchdogExpiry id) s = .next (x.leaves.foldl (fun s cl => cutProgress id cl s)
      (modCut id (fun y => { y with soft := [], engStopped := y.engStopped + (lateEngines s x).length, watchdogDone := true })
        ((lateEngines s x).foldl (fun s q => markIncomplete id q.1 q.2 7 1 s) (noteT id s)))) := by
  refine congrArg Host.Outcome.next ?_
  rw [hx]
  exact if_pos hdue

theorem exec_stopWatchdogExpiry_of_early (hearly : hubGt s < x.t + x.watchdog) :
    exec (.stopWatchdogExpiry id) s = .next s := by
  refine congrArg Host.Outcome.next ?_
  rw [hx]
  exact if_neg (Nat.not_le.mpr hearly)

end Watchdog

section Deadline
variable {id : BitVec 32} {s : State} {x : Cut} (hx : keptCut s id = some x)
include hx

theorem exec_cutReportDeadline_of_early (hearly : hubGt s < x.t + x.watchdog + 4000000) :
    exec (.cutReportDeadline id) s = .next s := by
  have hdue : decide (x.t + x.watchdog + 4000000 ≤ hubGt s) = false := decide_eq_false (Nat.not_le.mpr hearly)
  refine congrArg Host.Outcome.next ?_
  rw [hx]
  exact if_neg (by simp only [hdue, Bool.and_false, Bool.false_and, Bool.false_eq_true, not_false_eq_true])

/-- R265: the chips that have not reported by the deadline are missing. -/
theorem exec_cutReportDeadline_of_due (ho : x.origin = true) (hsys : x.system = true) (hopen : x.complete = false)
    (hb : basic s = false) (hdue : x.t + x.watchdog + 4000000 ≤ hubGt s) :
    exec (.cutReportDeadline id) s = .next (raiseCut id (modCut id (fun y => { y with
      missing := y.refused + (y.named.filter fun c => !decide (c ∈ y.reported)).length }) s)) := by
  refine congrArg Host.Outcome.next ?_
  rw [hx]
  exact if_pos (by simp [ho, hsys, hopen, hb, hdue])

end Deadline

/-! ## STEP_BOUND_EXPIRY (R268, R270) -/

/-- R268: the bound of one engine of the step ends it INCOMPLETE where its command has begun, and without a command where none
has. -/
def engineBoundOver (id : BitVec 32) (s : State) (q : Nat × Nat × GT) : State :=
  if ((coreOf s q.1).map fun co => (engOf co q.2.1).stepBegun).getD false = true then
    modStep id (fun z => { z with
      incomplete := true, engs := z.engs.filter (fun y => decide (¬ (y.1 = q.1 ∧ y.2.1 = q.2.1))) })
      (markIncomplete id q.1 q.2.1 1 0 s)
  else engineOutcome id q.1 q.2.1 12 0 true s

/-- R268: the engines of the step whose bounds are over by now. -/
def engineBoundsOver (id : BitVec 32) (r : StepRun) (s : State) : State :=
  (r.engs.filter fun q => decide (q.2.2 ≤ hubGt s)).foldl (engineBoundOver id) s

section StepBound
variable {id : BitVec 32} {s : State} {x : Cut} (hx : activeCut s id = some x)
include hx

theorem exec_stepBoundExpiry_of_step {r : StepRun} (hr : x.step = some r) : exec (.stepBoundExpiry id) s =
    .next (stepFinish id (if r.release + r.bound ≤ hubGt s
      then r.fires.foldl (fun s c => steerOutcome id c s) (engineBoundsOver id r s) else engineBoundsOver id r s)) := by
  refine congrArg Host.Outcome.next ?_
  simp only [hx, hr]
  rfl

theorem exec_stepBoundExpiry_of_no_step (hr : x.step = none) : exec (.stepBoundExpiry id) s = .next s := by
  refine congrArg Host.Outcome.next ?_
  simp only [hx, hr]

end StepBound

/-! ## TIME_STEP_RELEASE (R271) -/

section TimeStep
variable {id new : BitVec 32} {s : State} {x : Cut} {a m : UnitAddr} {r : GT} (hx : activeCut s id = some x)
  (hr : x.timeStep = some (new, a, m, r))
include hx hr

theorem exec_timeStepRelease_of_early (hearly : hubGt s < r) : exec (.timeStepRelease id) s = .next s := by
  refine congrArg Host.Outcome.next ?_
  simp only [hx, hr]
  exact if_neg (Nat.not_le.mpr hearly)

/-- R271: the stopped cores that the step names run, and stop again under the new cut. -/
theorem exec_timeStepRelease_of_due (hdue : r ≤ hubGt s) : exec (.timeStepRelease id) s =
    .next (endIfOver id (modCut id (fun y => { y with
        stopped := y.stopped.filter (fun c => !decide (c ∈ stoppedIn s x a m))
        cores := y.cores.filter (fun c => !decide (c ∈ stoppedIn s x a m))
        timeStep := none })
      (takeOver id new (stoppedIn s x a m) ((stoppedIn s x a m).foldl (fun s c => releaseCore 1 false r c s) s)))) := by
  refine congrArg Host.Outcome.next ?_
  simp only [hx, hr]
  exact if_pos hdue

end TimeStep

/-! ## RESUME_RELEASE (R275 to R277) -/

/-- R276: the stopped cores that the RESUME `q` names run and leave the cut, and the RESUME is done. -/
def resumeDone (id : BitVec 32) (x : Cut) (q : UnitAddr × UnitAddr × GT × Option Owner) (s : State) : State :=
  modCut id (fun y => { y with resumes := eraseFirst (fun z => z == q) y.resumes })
    ((stoppedIn s x q.1 q.2.1).foldl (fun s c => releaseCore 2 true q.2.2.1 c (modCut id (fun y => { y with
      stopped := y.stopped.filter (· ≠ c), cores := y.cores.filter (· ≠ c) }) s)) s)

section Resume
variable {id : BitVec 32} {s : State} {x : Cut} (hx : keptCut s id = some x)
include hx

theorem exec_resumeRelease_of_none_due (hearly : ∀ q ∈ x.resumes, hubGt s < q.2.2.1) :
    exec (.resumeRelease id) s = .next s := by
  have hnone : x.resumes.find? (fun q => decide (q.2.2.1 ≤ hubGt s)) = none :=
    List.find?_eq_none.mpr fun q hq hdue => Nat.not_le.mpr (hearly q hq) (of_decide_eq_true hdue)
  refine congrArg Host.Outcome.next ?_
  simp only [hx, hnone]

variable {q : UnitAddr × UnitAddr × GT × Option Owner}
  (hq : x.resumes.find? (fun q => decide (q.2.2.1 ≤ hubGt s)) = some q)
include hq

/-- A RESUME that came by a flood owes no event here (log 50). -/
theorem exec_resumeRelease_of_flooded (ho : q.2.2.2 = none) :
    exec (.resumeRelease id) s = .next (endIfOver id (resumeDone id x q s)) := by
  refine congrArg Host.Outcome.next ?_
  simp only [hx, hq, ho]
  rfl

theorem exec_resumeRelease_of_owed {o : Owner} (ho : q.2.2.2 = some o) : exec (.resumeRelease id) s =
    .next (endIfOver id (raiseEvent 0x0012 0 [id.setWidth 64, wn q.2.2.1] o 0 (resumeDone id x q s))) := by
  refine congrArg Host.Outcome.next ?_
  simp only [hx, hq, ho]
  rfl

end Resume

/-! ## The obligation -/

/-- Settles O49: each row by whether its cut, its step or its RESUME stands and whether its instant has come. -/
theorem cutInstantsComplete : Obligations.CutInstantsComplete :=
  ⟨fun _ _ _ _ hx hs => ⟨exec_leafCutReport_of_unawaited hx, exec_leafCutReport_of_more hx hs,
      exec_leafCutReport_of_last hx hs⟩,
    fun _ _ _ hx => ⟨exec_stopWatchdogExpiry_of_due hx, exec_stopWatchdogExpiry_of_early hx⟩,
    fun _ _ _ hx ho hsys hopen hb => ⟨exec_cutReportDeadline_of_early hx, exec_cutReportDeadline_of_due hx ho hsys hopen hb⟩,
    fun _ _ _ _ hx => exec_stepBoundExpiry_of_step hx,
    fun _ _ _ hx => exec_stepBoundExpiry_of_no_step hx,
    fun _ _ _ _ _ _ _ hx hr => ⟨exec_timeStepRelease_of_early hx hr, exec_timeStepRelease_of_due hx hr⟩,
    fun _ _ _ hx => exec_resumeRelease_of_none_due hx,
    fun _ _ _ _ hx hq => ⟨exec_resumeRelease_of_flooded hx hq, fun _ => exec_resumeRelease_of_owed hx hq⟩⟩

end Sys2Proof.Machine
end

/-! # Floods of cuts, steps, RESUME and churns (R246, R253, R262, R266, R271, R275, R313, R455, R456, R474; log 50, 62) -/
section
namespace Sys2Proof.Machine

/-! ## The oldest flood of an operation (R266, R456, R474) -/

/-- A STOP_FLOOD frame of operation `op` (Tables 15.8, 15.9). -/
def isFlood (op : Nat) (f : Frame) : Bool := decide (f.hdr.type = 0x10) && decide (bits (f.payload.getD 0 0) 63 56 = op)

section TakeFlood
variable {op : Nat} {s : State} (act : InFrame → State → State)

theorem takeFlood_of_none (h : takeLocal (isFlood op) s = none) : takeFlood op act s = s := by
  unfold isFlood at h
  simp only [takeFlood, h]

theorem takeFlood_of_some {x : InFrame} {b : State} (h : takeLocal (isFlood op) s = some (x, b)) :
    takeFlood op act s = if basic b then b else act x b := by
  unfold isFlood at h
  simp only [takeFlood, h]

/-- R474: basic service applies no flood. -/
theorem takeFlood_of_basic {x : InFrame} {b : State} (h : takeLocal (isFlood op) s = some (x, b)) (hb : basic b = true) :
    takeFlood op act s = b := by
  rw [takeFlood_of_some act h, if_pos hb]

theorem takeFlood_of_full_service {x : InFrame} {b : State} (h : takeLocal (isFlood op) s = some (x, b))
    (hb : basic b = false) : takeFlood op act s = act x b := by
  rw [takeFlood_of_some act h, if_neg (Bool.eq_false_iff.mp hb)]

end TakeFlood

/-! ## Floods that change nothing but the queue of frames -/

/-- What each row of STOP_FLOOD comes to when no flood is applied: `t` with the flood off the queue, or with none there. -/
theorem exec_flood_of_not_applied {op : Nat} {s t : State} (h : ∀ act, takeFlood op act s = t) (read : Word) :
    (op = 0 → exec .floodArm s = .next t) ∧ (op = 1 → exec .floodCancel s = .next t) ∧
    (op = 2 → exec .floodResume s = .next t) ∧ (op = 3 → exec .floodStepTime s = .next t) ∧
    (op = 4 → exec (.floodChurn read) s = .next t) := by
  refine ⟨?arm, ?cancel, ?resume, ?stepTime, ?churn⟩ <;> rintro rfl <;> exact congrArg Host.Outcome.next (h _)

/-! ## ARM (R246, R253, R262) -/

/-- The cut that a flooded ARM names, as it stands before this chip applies it. -/
def floodedCut (x : InFrame) (b : State) : Cut :=
  bareCut (floodId x) (floodAddr x) (floodMask x) (bit (wordOf x 0) 55) (wordOf x 1).toNat (bits (wordOf x 3) 31 0) {} false true
    none b

section Arm
variable {op : Nat} {s b : State} {x : InFrame} (hx : takeLocal (isFlood op) s = some (x, b)) (hb : basic b = false)
  (hop : op = 0)
include hx hb hop

theorem exec_floodArm_of_new (hnew : keptCut b (floodId x) = none) (hhere : namesHere b (floodAddr x) (floodMask x) = true) :
    exec .floodArm s =
      .next (if 16 ≤ b.cuts.active.length then refuseCut (floodedCut x b) b else acceptCut (floodedCut x b) b) := by
  subst hop
  refine congrArg Host.Outcome.next ((takeFlood_of_full_service _ hx hb).trans (if_neg ?_))
  simp [hnew, hhere]

theorem exec_floodArm_of_known_or_away
    (hnot : (keptCut b (floodId x)).isSome = true ∨ namesHere b (floodAddr x) (floodMask x) = false) :
    exec .floodArm s = .next b := by
  subst hop
  refine congrArg Host.Outcome.next ((takeFlood_of_full_service _ hx hb).trans (if_pos ?_))
  rcases hnot with h | h <;> simp [h]

end Arm

/-! ## CANCEL, RESUME and STEP of a cut (R266, R271, R275; log 50) -/

section OfCut
variable {op : Nat} {s b : State} {x : InFrame} (hx : takeLocal (isFlood op) s = some (x, b)) (hb : basic b = false)
include hx hb

/-- Log 50: a flood that names no active cut of the chip is ignored. -/
theorem exec_flood_of_no_cut (hnone : activeCut b (floodId x) = none) :
    (op = 1 → exec .floodCancel s = .next b) ∧ (op = 2 → exec .floodResume s = .next b) ∧
    (op = 3 → exec .floodStepTime s = .next b) := by
  refine ⟨?cancel, ?resume, ?stepTime⟩ <;> rintro rfl <;>
    refine congrArg Host.Outcome.next ((takeFlood_of_full_service _ hx hb).trans ?_) <;> simp only [hnone]

variable {k : Cut} (hk : activeCut b (floodId x) = some k)
include hk

theorem exec_floodCancel_of_pending (hop : op = 1) (hforce : cutInForce b k = false) :
    exec .floodCancel s = .next (cancelCut k.id b) := by
  subst hop
  refine congrArg Host.Outcome.next ((takeFlood_of_full_service _ hx hb).trans ?_)
  simp only [hk]
  exact if_neg (Bool.eq_false_iff.mp hforce)

theorem exec_floodCancel_of_in_force (hop : op = 1) (hforce : cutInForce b k = true) :
    exec .floodCancel s = .next { b with iz := { b.iz with cancelIgnored := b.iz.cancelIgnored + 1 } } := by
  subst hop
  refine congrArg Host.Outcome.next ((takeFlood_of_full_service _ hx hb).trans ?_)
  simp only [hk]
  exact if_pos hforce

theorem exec_floodResume_of_free (hop : op = 2) (hbusy : resumeBusy b k (floodAddr x) (floodMask x) = false) :
    exec .floodResume s = .next (modCut k.id (fun y => { y with
      resumes := y.resumes ++ [(floodAddr x, floodMask x, (wordOf x 1).toNat, none)] }) b) := by
  subst hop
  refine congrArg Host.Outcome.next ((takeFlood_of_full_service _ hx hb).trans ?_)
  simp only [hk]
  exact if_neg (Bool.eq_false_iff.mp hbusy)

theorem exec_floodResume_of_busy (hop : op = 2) (hbusy : resumeBusy b k (floodAddr x) (floodMask x) = true) :
    exec .floodResume s = .next b := by
  subst hop
  refine congrArg Host.Outcome.next ((takeFlood_of_full_service _ hx hb).trans ?_)
  simp only [hk]
  exact if_pos hbusy

end OfCut

/-- R271: the new cut that a flooded STEP of the cut `k` names in word 5, with T at the release instant and DELTA. -/
def floodedStepCut (x : InFrame) (k : Cut) (b : State) : Cut :=
  bareCut (fieldB 32 (wordOf x 5) 0) (floodAddr x) (floodMask x) k.hard ((wordOf x 1).toNat + (wordOf x 4).toNat)
    (bits (wordOf x 3) 31 0) {} false true none b

/-- R271: no step of the cut `k` is under way, the new id is not taken, and the flood names this chip. -/
def floodStepFree (x : InFrame) (k : Cut) (b : State) : Bool :=
  k.step.isNone && k.timeStep.isNone && (keptCut b (fieldB 32 (wordOf x 5) 0)).isNone &&
    namesHere b (floodedStepCut x k b).addr (floodedStepCut x k b).mask

/-- What keeps a flooded STEP from being applied: one of the conditions of `floodStepFree` fails. -/
def floodStepBarred (x : InFrame) (k : Cut) (b : State) : Bool :=
  k.step.isSome || k.timeStep.isSome || (keptCut b (fieldB 32 (wordOf x 5) 0)).isSome ||
    !namesHere b (floodedStepCut x k b).addr (floodedStepCut x k b).mask

theorem floodStepFree_eq_not_barred (x : InFrame) (k : Cut) (b : State) : floodStepFree x k b = !floodStepBarred x k b := by
  simp only [floodStepFree, floodStepBarred, Bool.not_or, Option.not_isSome, Bool.not_not]

section StepTime
variable {op : Nat} {s b : State} {x : InFrame} (hx : takeLocal (isFlood op) s = some (x, b)) (hb : basic b = false) {k : Cut}
  (hk : activeCut b (floodId x) = some k) (hop : op = 3)
include hx hb hk hop

theorem exec_floodStepTime_of_free (hfree : floodStepFree x k b = true) : exec .floodStepTime s =
    .next (if 16 ≤ b.cuts.active.length then refuseCut (floodedStepCut x k b) b
      else armTimeStep k.id (fieldB 32 (wordOf x 5) 0) (floodedStepCut x k b).addr (floodedStepCut x k b).mask
        (wordOf x 1).toNat (floodedStepCut x k b) b) := by
  have hbarred : floodStepBarred x k b = false := by rwa [floodStepFree_eq_not_barred, Bool.not_eq_true'] at hfree
  subst hop
  refine congrArg Host.Outcome.next ((takeFlood_of_full_service _ hx hb).trans ?_)
  simp only [hk]
  exact if_neg (Bool.eq_false_iff.mp hbarred)

theorem exec_floodStepTime_of_not_free (hfree : floodStepFree x k b = false) : exec .floodStepTime s = .next b := by
  have hbarred : floodStepBarred x k b = true := by rwa [floodStepFree_eq_not_barred, Bool.not_eq_false'] at hfree
  subst hop
  refine congrArg Host.Outcome.next ((takeFlood_of_full_service _ hx hb).trans ?_)
  simp only [hk]
  exact if_pos hbarred

end StepTime

/-! ## CHURN (R313) and the expiry of flood records (R455) -/

section Churn
variable {op : Nat} {s b : State} {x : InFrame} (hx : takeLocal (isFlood op) s = some (x, b)) (read : Word)
  (hb : basic b = false) (hop : op = 4)
include hx hb hop

theorem exec_floodChurn_of_named (hhere : namesHere b (floodAddr x) (floodMask x) = true) : exec (.floodChurn read) s =
    .next (churnDump (fieldB 32 (wordOf x 4) 32) (floodId x) (fieldB 6 (wordOf x 5) 0) (fieldB 4 (wordOf x 5) 8)
      (bit (wordOf x 5) 12) (fieldB 32 (wordOf x 5) 32) {} none read b) := by
  subst hop
  exact congrArg Host.Outcome.next ((takeFlood_of_full_service _ hx hb).trans (if_pos hhere))

theorem exec_floodChurn_of_away (haway : namesHere b (floodAddr x) (floodMask x) = false) :
    exec (.floodChurn read) s = .next b := by
  subst hop
  exact congrArg Host.Outcome.next ((takeFlood_of_full_service _ hx hb).trans (if_neg (Bool.eq_false_iff.mp haway)))

end Churn

theorem exec_floodRecordExpiry_eq (s : State) : exec .floodRecordExpiry s = .next { s with iz := { s.iz with
    floods := s.iz.floods.filter fun x => decide (hubGt s < x.2.2 + 4194304) } } := rfl

/-! ## The obligation -/

/-- Settles O58: each operation by whether a flood is applied, what cut it names, and what stands against it there. -/
theorem floodRowsComplete : Obligations.FloodRowsComplete :=
  ⟨fun _ read _ h => exec_flood_of_not_applied (fun act => takeFlood_of_none act h) read,
    fun _ _ _ _ hx => ⟨fun hb => exec_flood_of_not_applied fun act => takeFlood_of_basic act hx hb,
      fun hb hop => ⟨exec_floodArm_of_new hx hb hop, exec_floodArm_of_known_or_away hx hb hop⟩,
      exec_flood_of_no_cut hx,
      fun _ hb hk => ⟨exec_floodCancel_of_pending hx hb hk, exec_floodCancel_of_in_force hx hb hk,
        exec_floodResume_of_free hx hb hk, exec_floodResume_of_busy hx hb hk,
        fun hop => ⟨exec_floodStepTime_of_not_free hx hb hk hop, exec_floodStepTime_of_free hx hb hk hop⟩⟩,
      fun read hb hop => ⟨exec_floodChurn_of_named hx read hb hop, exec_floodChurn_of_away hx read hb hop⟩⟩,
    exec_floodRecordExpiry_eq⟩

end Sys2Proof.Machine
end

/-! # Answers, events and reports of other chips, and what expires (R265, R315, R458, R463 to R465, R472, R551, R552) -/
section
namespace Sys2Proof.Machine

/-! ## Responses and the entries they match (R463, R464, R472) -/

/-- Without a frame of its type a receiving row changes nothing. -/
theorem exec_receive_of_none {s : State} :
    (takeLocal (fun f => decide (f.hdr.type = 0x31)) s = none → exec .remoteRspReceive s = .next s) ∧
    (takeLocal (fun f => decide (f.hdr.type = 0x41)) s = none → exec .streamRspReceive s = .next s) ∧
    (takeLocal (fun f => decide (f.hdr.type = 0x32)) s = none → exec .remoteEventReceive s = .next s) ∧
    (takeLocal (fun f => decide (f.hdr.type = 0x33)) s = none → exec .reportReceive s = .next s) := by
  refine ⟨?remoteRsp, ?streamRsp, ?remoteEvent, ?report⟩ <;> intro h <;> refine congrArg Host.Outcome.next ?_ <;> rw [h]

section RemoteRsp
variable {s b : State} {x : InFrame} (hx : takeLocal (fun f => decide (f.hdr.type = 0x31)) s = some (x, b))
include hx

theorem exec_remoteRspReceive_of_no_entry (hnone : trackHit b x.frame.hdr.tag = none) :
    exec .remoteRspReceive s = .next (countLate b) := by
  refine congrArg Host.Outcome.next ?_
  simp only [hx, hnone]

variable {ix : Nat} {e : TrackEntry} (he : trackHit b x.frame.hdr.tag = some (ix, e))
include he

/-- R464: the response of a REMOTE command answers it with the response word and the payload. -/
theorem exec_remoteRspReceive_of_remote {via : Via} (hp : e.purpose = .remote via) : exec .remoteRspReceive s =
    .next (respond via x.frame.hdr.result (responseWord1 x.frame :: x.frame.payload) (closeTrack ix b)) := by
  refine congrArg Host.Outcome.next ?_
  simp only [hx, he, hp]

/-- R463: of an entry of another purpose it is late. -/
theorem exec_remoteRspReceive_of_other (hp : ∀ via, e.purpose ≠ .remote via) :
    exec .remoteRspReceive s = .next (countLate b) := by
  refine congrArg Host.Outcome.next ?_
  simp only [hx, he]

end RemoteRsp

section StreamRsp
variable {s b : State} {x : InFrame} (hx : takeLocal (fun f => decide (f.hdr.type = 0x41)) s = some (x, b))
include hx

theorem exec_streamRspReceive_of_no_entry (hnone : trackHit b x.frame.hdr.tag = none) :
    exec .streamRspReceive s = .next (countLate b) := by
  refine congrArg Host.Outcome.next ?_
  simp only [hx, hnone]

variable {ix : Nat} {e : TrackEntry} (he : trackHit b x.frame.hdr.tag = some (ix, e))
include he

/-- R472: the origin's answer to a streamed section goes to its dump. -/
theorem exec_streamRspReceive_of_stream {d i h} (hp : e.purpose = .stream d i h) : exec .streamRspReceive s =
    .next (if x.frame.hdr.result = rOk then sectAnswered d i h (closeTrack ix b) else streamFailed d (closeTrack ix b)) := by
  refine congrArg Host.Outcome.next ?_
  simp only [hx, he, hp]

theorem exec_streamRspReceive_of_other (hp : ∀ d i h, e.purpose ≠ .stream d i h) :
    exec .streamRspReceive s = .next (countLate b) := by
  refine congrArg Host.Outcome.next ?_
  simp only [hx, he]

end StreamRsp

/-! ## Events of other chips (R464) -/

/-- The width of a field read as a bit vector does not cut the bits that name it. -/
theorem toNat_fieldB {k hi lo : Nat} (w : Word) (hk : hi - lo + 1 = k) : (fieldB k w lo).toNat = bits w hi lo := by
  subst hk
  exact BitVec.toNat_ofNat _ _

/-- R464: the event that a REMOTE_EVENT frame brings, under the NUMBER of this hub. -/
def remoteEvent (x : InFrame) (b : State) : Event := {
  code := fieldB 16 (wordOf x 0) 48, result := fieldB 8 (wordOf x 0) 40, seq := fieldB 16 (wordOf x 0) 16
  mailbox := fieldB 4 (wordOf x 0) 12, remote := true, basic := bit (wordOf x 0) 10, line := fieldB 2 (wordOf x 0) 8
  stamp := (wordOf x 1).toNat, origin := fieldB 16 (wordOf x 2) 48, number := b.events.number
  payload := (x.frame.payload.drop 3).take (min 13 (bits (wordOf x 0) 39 32)) }

theorem remoteEvent_payload_length_le (x : InFrame) (b : State) : (remoteEvent x b).payload.length ≤ 13 :=
  Nat.le_trans (List.length_take_le _ _) (Nat.min_le_left _ _)

theorem exec_remoteEventReceive_of_event {s b : State} {x : InFrame}
    (hx : takeLocal (fun f => decide (f.hdr.type = 0x32)) s = some (x, b)) : exec .remoteEventReceive s =
      .next (queueEvent (remoteEvent x b) { b with events := { b.events with number := b.events.number + 1 } }) := by
  refine congrArg Host.Outcome.next ?_
  simp only [hx]
  rfl

/-! ## Reports of other chips (R265, R315) -/

/-- The stream is the one that chip `chip` sends for the churn `k`. -/
def streamOf (chip : BitVec 16) (k : Churn) (t : StreamIn) : Bool := t.chip == chip && t.churn == k.id

/-- R315: the streams of a summary's sender end and their regions are published. -/
def senderStreamsEnded (chip : BitVec 16) (k : Churn) (b : State) : State :=
  (b.dumps.streams.filter (streamOf chip k)).foldl (fun s t => publishRegion t.region s)
    { b with dumps := { b.dumps with streams := b.dumps.streams.filter fun t => !streamOf chip k t } }

section Report
variable {s b : State} {x : InFrame} (hx : takeLocal (fun f => decide (f.hdr.type = 0x33)) s = some (x, b))
include hx

theorem exec_reportReceive_of_basic (hb : basic b = true) : exec .reportReceive s = .next b := by
  refine congrArg Host.Outcome.next ?_
  rw [hx]
  exact if_pos hb

variable (hb : basic b = false)
include hb

theorem exec_reportReceive_of_cut (hkind : bits (wordOf x 0) 7 0 = 0) :
    exec .reportReceive s = .next (cutReported x.frame.hdr.src (x.frame.payload.drop 1) b) := by
  refine congrArg Host.Outcome.next ?_
  rw [hx]
  exact (if_neg (Bool.eq_false_iff.mp hb)).trans (if_pos hkind)

variable (hkind : bits (wordOf x 0) 7 0 ≠ 0)
include hkind

theorem exec_reportReceive_of_unawaited
    (hnone : (b.dumps.churns.find? fun k => decide (x.frame.hdr.src ∈ k.awaited)) = none) :
    exec .reportReceive s = .next b := by
  refine congrArg Host.Outcome.next ?_
  rw [hx]
  refine (if_neg (Bool.eq_false_iff.mp hb)).trans ((if_neg hkind).trans ?_)
  simp only [hnone]

theorem exec_reportReceive_of_awaited {k : Churn}
    (hk : (b.dumps.churns.find? fun k => decide (x.frame.hdr.src ∈ k.awaited)) = some k) :
    exec .reportReceive s = .next (churnHeard x.frame.hdr.src k.id (fieldB 8 (wordOf x 1) 40)
      (senderStreamsEnded x.frame.hdr.src k b)) := by
  refine congrArg Host.Outcome.next ?_
  rw [hx]
  refine (if_neg (Bool.eq_false_iff.mp hb)).trans ((if_neg hkind).trans ?_)
  simp only [hk]
  rfl

end Report

/-! ## Entries and stored responses that expire (R463, R465) -/

section Tracker
variable {ix : BitVec 14} {s : State}

theorem exec_trackerTimeout_of_no_entry (hnone : tget ix.toNat s.iz.tracker = none) :
    exec (.trackerTimeout ix) s = .next s := by
  refine congrArg Host.Outcome.next ?_
  rw [hnone]

variable {e : TrackEntry} (he : tget ix.toNat s.iz.tracker = some e)
include he

theorem exec_trackerTimeout_of_open (hopen : hubGt s < e.deadline ∨ responseWaits s ix.toNat e = true) :
    exec (.trackerTimeout ix) s = .next s := by
  refine congrArg Host.Outcome.next ?_
  rw [he]
  refine if_neg (Bool.eq_false_iff.mp ?_)
  rcases hopen with hearly | hwaits
  · rw [decide_eq_false (Nat.not_le.mpr hearly), Bool.false_and]
  · rw [hwaits, Bool.not_true, Bool.and_false]

theorem exec_trackerTimeout_of_over (hdue : e.deadline ≤ hubGt s) (hwaits : responseWaits s ix.toNat e = false) :
    exec (.trackerTimeout ix) s = .next (trackEnds ix.toNat e s) := by
  refine congrArg Host.Outcome.next ?_
  rw [he]
  exact if_pos (by simp [hdue, hwaits])

end Tracker

/-- R463: a REMOTE command that has no response in time answers TIMEOUT. -/
theorem trackEnds_of_remote {ix : Nat} {e : TrackEntry} {s : State} {via : Via} (hp : e.purpose = .remote via) :
    trackEnds ix e s = respond via rTimeout [] (closeTrack ix s) := by
  simp only [trackEnds, hp]

theorem exec_responseRecordExpiry_eq (s : State) : exec .responseRecordExpiry s = .next { s with iz := { s.iz with
    responses := s.iz.responses.filter fun r => r.frame.isNone || decide (hubGt s < r.at_ + 4000000) } } := rfl

/-! ## The deadline of a churn (R315) -/

section ChurnDeadline
variable {id : BitVec 32} {s : State}

theorem exec_churnDeadline_of_no_churn (hnone : (s.dumps.churns.find? fun k => k.id == id) = none) :
    exec (.churnDeadline id) s = .next s := by
  refine congrArg Host.Outcome.next ?_
  rw [hnone]

variable {k : Churn} (hk : (s.dumps.churns.find? fun k => k.id == id) = some k)
include hk

theorem exec_churnDeadline_of_early (hearly : hubGt s < k.deadline) : exec (.churnDeadline id) s = .next s := by
  refine congrArg Host.Outcome.next ?_
  rw [hk]
  exact if_neg fun ⟨hdue, _⟩ => Nat.not_le.mpr hearly hdue

theorem exec_churnDeadline_of_due (hb : basic s = false) (hdue : k.deadline ≤ hubGt s) : exec (.churnDeadline id) s =
    .next (raiseEvent 0x0021 0 [id.setWidth 64, wn k.reporting, wn k.awaited.length, wn k.notOk] k.owner rPartial
      { s with dumps := { s.dumps with churns := eraseFirst (fun k => k.id == id) s.dumps.churns } }) := by
  refine congrArg Host.Outcome.next ?_
  rw [hk]
  exact if_pos ⟨hdue, hb⟩

end ChurnDeadline

/-! ## Frames of the narrow ports of other chips (R551, R552) -/

/-- A serving hub takes the oldest frame of the kind off its queue. -/
theorem takeLocal_of_serving {p : Frame → Bool} {s : State} {x : InFrame} (hs : serving s = true)
    (hx : (s.iz.local_.find? fun x => p x.frame) = some x) :
    takeLocal p s = some (x, { s with iz := { s.iz with local_ := eraseFirst (fun y => y == x) s.iz.local_ } }) := by
  rw [takeLocal, if_pos hs, hx]
  rfl

/-- R465: a request that is no duplicate is on record, with no answer yet, while it acts. -/
def requestNoted (x : InFrame) (b : State) : State := { b with iz := { b.iz with
  responses := pushRing 1024 { src := x.frame.hdr.src, tag := x.frame.hdr.tag, frame := none, at_ := hubGt b }
    b.iz.responses } }

theorem takeTagged_of_new {p : Frame → Bool} {s b : State} {x : InFrame} (act : InFrame → State → State)
    (hx : takeLocal p s = some (x, b)) (hnew : respRecord b x.frame = none) :
    takeTagged p act s = act x (requestNoted x b) := by
  simp only [takeTagged, hx, hnew, requestNoted]

theorem exec_narrowFrameReceive_of_none {s : State}
    (hnone : (s.iz.local_.find? fun x => decide (x.frame.hdr.type = 0x50)) = none) :
    exec .narrowFrameReceive s = .next s := by
  refine congrArg Host.Outcome.next ?_
  rw [hnone]

section NarrowFrame
variable {s : State} {x : InFrame} (hx : (s.iz.local_.find? fun x => decide (x.frame.hdr.type = 0x50)) = some x)
  (hs : serving s = true)
include hx hs

theorem exec_narrowFrameReceive_of_response (hresp : x.frame.hdr.resp = true) : exec .narrowFrameReceive s =
    .next (narrowReturn x { s with iz := { s.iz with local_ := eraseFirst (fun y => y == x) s.iz.local_ } }) := by
  have htaken := takeLocal_of_serving (p := fun f => decide (f.hdr.type = 0x50)) hs hx
  refine congrArg Host.Outcome.next ?_
  rw [hx]
  refine (if_pos hresp).trans ?_
  rw [htaken]

theorem exec_narrowFrameReceive_of_request {b : State}
    (hb : { s with iz := { s.iz with local_ := eraseFirst (fun y => y == x) s.iz.local_ } } = b)
    (hresp : x.frame.hdr.resp = false) (hnew : respRecord b x.frame = none) :
    exec .narrowFrameReceive s = .next (narrowRequest x (requestNoted x b)) := by
  subst hb
  refine congrArg Host.Outcome.next ?_
  rw [hx]
  exact (if_neg (Bool.eq_false_iff.mp hresp)).trans (takeTagged_of_new _ (takeLocal_of_serving hs hx) hnew)

end NarrowFrame

/-! ## The obligation -/

/-- Settles O60: a response by the entry its TAG matches, a report by its kind and what awaits it, what expires by its instant, and
a narrow frame by whether it is a response. -/
theorem remoteAnswersAndExpiriesComplete : Obligations.RemoteAnswersAndExpiriesComplete :=
  ⟨fun _ _ _ hx => ⟨exec_remoteRspReceive_of_no_entry hx, fun _ _ _ he hp => exec_remoteRspReceive_of_remote hx he hp,
      fun _ _ he => exec_remoteRspReceive_of_other hx he⟩,
    fun _ _ _ hx => ⟨exec_streamRspReceive_of_no_entry hx,
      fun _ _ _ _ _ he hp => ⟨fun hok => (exec_streamRspReceive_of_stream hx he hp).trans (congrArg _ (if_pos hok)),
        fun hbad => (exec_streamRspReceive_of_stream hx he hp).trans (congrArg _ (if_neg hbad))⟩,
      fun _ _ he => exec_streamRspReceive_of_other hx he⟩,
    fun _ => exec_receive_of_none,
    fun _ x b hx => ⟨remoteEvent x b, exec_remoteEventReceive_of_event hx, rfl, rfl, toNat_fieldB _ rfl,
      remoteEvent_payload_length_le x b, rfl, toNat_fieldB _ rfl⟩,
    fun _ _ _ hx => ⟨exec_reportReceive_of_basic hx, exec_reportReceive_of_cut hx, exec_reportReceive_of_unawaited hx,
      fun _ hb hkind hk => exec_reportReceive_of_awaited hx hb hkind hk⟩,
    fun _ _ => exec_trackerTimeout_of_no_entry,
    fun _ _ _ he => ⟨exec_trackerTimeout_of_open he, exec_trackerTimeout_of_over he, fun _ => trackEnds_of_remote⟩,
    exec_responseRecordExpiry_eq,
    fun _ _ => exec_churnDeadline_of_no_churn,
    fun _ _ _ hk hb => ⟨exec_churnDeadline_of_early hk, exec_churnDeadline_of_due hk hb⟩,
    fun _ => exec_narrowFrameReceive_of_none,
    fun _ _ hx hs => ⟨exec_narrowFrameReceive_of_response hx hs, exec_narrowFrameReceive_of_request hx hs rfl⟩⟩

end Sys2Proof.Machine
end

/-! # State accesses, DUMP_STATUS and CHECK_FEED (R280, R287, R311, R336) -/
section
namespace Sys2Proof.Machine

/-! ## STATE_READ and STATE_WRITE (R280, R287) -/

section StateRead
variable {via : Via} {a : UnitAddr} {space : BitVec 5} {waddr : BitVec 32} {count : BitVec 9} {gen : BitVec 8} {incl : Bool}
  {s b : State} (h : accepted via 0x0040 (.stateRead via a space waddr count gen incl) false s = true)
  (hb : begun via 0x0040 (.stateRead via a space waddr count gen incl) s = b)
  (hc : firstCode (accessChecks via a space.toNat waddr.toNat count.toNat gen incl false b) = none)
include h hb hc

theorem exec_stateRead_of_core_space (hspace : space ≠ 16) : exec (.stateRead via a space waddr count gen incl) s =
    .next (queueJob (addrCore a) (accessJob via b a space.toNat waddr.toNat count.toNat [] false) b) :=
  congrArg Host.Outcome.next ((command_runs_of_no_code h hb hc).trans (if_neg hspace))

/-- R287: the crock is at the leaf, so its words are the answer. -/
theorem exec_stateRead_of_crock {co : Core} (hspace : space = 16) (hco : coreOf b (addrCore a) = some co) :
    exec (.stateRead via a space waddr count gen incl) s =
      .next (answerAccess via { accessJob via b a space.toNat waddr.toNat count.toNat [] false with
        got := ((crockWords incl (engOf co (addrEng a))).drop waddr.toNat).take count.toNat, remaining := 0 } b) := by
  refine congrArg Host.Outcome.next ((command_runs_of_no_code h hb hc).trans ((if_pos hspace).trans ?_))
  rw [hco, Option.map_some, Option.getD_some]

end StateRead

theorem exec_stateWrite_runs {via : Via} {a : UnitAddr} {space : BitVec 5} {waddr : BitVec 32} {count : BitVec 9}
    {gen : BitVec 8} {incl : Bool} {data : List Word} {s b : State}
    (h : accepted via 0x0041 (.stateWrite via a space waddr count gen incl data) false s = true)
    (hb : begun via 0x0041 (.stateWrite via a space waddr count gen incl data) s = b)
    (hc : firstCode (accessChecks via a space.toNat waddr.toNat count.toNat gen incl true b) = none) :
    exec (.stateWrite via a space waddr count gen incl data) s =
      .next (queueJob (addrCore a) (accessJob via b a space.toNat waddr.toNat count.toNat data true) b) :=
  congrArg Host.Outcome.next (command_runs_of_no_code h hb hc)

/-! ## DUMP_STATUS (R311) -/

theorem exec_dumpStatus_runs {via : Via} {id : BitVec 16} {s b : State} {d : Dump}
    (h : accepted via 0x0044 (.dumpStatus via id) false s = true) (hb : begun via 0x0044 (.dumpStatus via id) s = b)
    (hd : denied b via .opPlatVen .sealedLevel = false) (hid : statusOf b id = some d) :
    exec (.dumpStatus via id) s = .next (respond via rOk (statusWords b d) b) := by
  refine congrArg Host.Outcome.next ((command_runs_at h hb ?_).trans ?_)
  · simp [hd, hid]
  · simp only [hid]

/-! ## CHECK_FEED (R336) -/

/-- The feed of a span of host memory, none of it fed yet. -/
def feedBegun (via : Via) (c64 : Bool) (source : BitVec 2) (addr : Word) (length : BitVec 32) (seed : Word) : FeedRun := {
  via := via, crc64 := c64, phys := decide (source = 1), run := feedSeed c64 seed, addr := addr.toNat, left := length.toNat }

section CheckFeed
variable {via : Via} {c64 : Bool} {source : BitVec 2} {addr : Word} {length : BitVec 32} {seed : Word} {data : List Byte}
  {s b : State} (h : accepted via 0x0046 (.checkFeed via c64 source addr length seed data) false s = true)
  (hb : begun via 0x0046 (.checkFeed via c64 source addr length seed data) s = b)
  (hd : denied b via (if source = 3 then .everyone else .opPlatVen) .sealedLevel = false)
  (hspan : spanBad b source addr length.toNat data = false)
  (hbuf : source = 2 → recordsOf b (whoOf b via) = false ∧ sessionRuns b = false)
include hd hspan hbuf

/-- The checks of CHECK_FEED all hold (R14). -/
theorem checkFeed_checks_hold : ∀ q ∈
    [(denied b via (if source = 3 then .everyone else .opPlatVen) .sealedLevel ||
        (decide (source = 2) && recordsOf b (whoOf b via)), rDenied),
      (spanBad b source addr length.toNat data, rBadArg), (decide (source = 2) && sessionRuns b, rBusy)], q.1 = false := by
  simp only [List.mem_cons, List.not_mem_nil, or_false, forall_eq_or_imp, forall_eq]
  exact ⟨Bool.or_eq_false_iff.mpr ⟨hd, decide_and_eq_false fun h2 => (hbuf h2).1⟩, hspan,
    decide_and_eq_false fun h2 => (hbuf h2).2⟩

include h hb

/-- R336: the span is of the command's own bytes with SOURCE 3, of the on-chip buffer with 2, and else of host memory. -/
theorem exec_checkFeed_runs {f : FeedRun} (hf : feedBegun via c64 source addr length seed = f) :
    exec (.checkFeed via c64 source addr length seed data) s = .next
      (if source = 3 then feedOver via c64 (feedRun c64 (feedSeed c64 seed) data) b
       else if source = 2 then feedOver via c64 (feedRun c64 (feedSeed c64 seed) (memBytes addr.toNat length.toNat b.trace.buf)) b
       else feedPiece f { b with check := { b.check with feeds := b.check.feeds ++ [f] } }) := by
  subst hf
  refine congrArg Host.Outcome.next ((command_runs_at h hb (checkFeed_checks_hold hd hspan hbuf)).trans ?_)
  match source with
  | 0 => rfl
  | 1 => rfl
  | 2 => rfl
  | 3 => rfl

end CheckFeed

/-! ## The obligation -/

/-- Settles O20: an access by its space, DUMP_STATUS by the dump that it names, CHECK_FEED by its source. -/
theorem stateAccessAndStatusCommandsComplete : Obligations.StateAccessAndStatusCommandsComplete :=
  ⟨fun _ _ _ _ _ _ _ _ h hc => ⟨exec_stateRead_of_core_space h rfl hc, fun _ => exec_stateRead_of_crock h rfl hc⟩,
    fun _ _ _ _ _ _ _ _ _ h => exec_stateWrite_runs h rfl,
    fun _ _ _ _ h => exec_dumpStatus_runs h rfl,
    fun _ _ _ _ _ _ _ _ h hd hspan hbuf => exec_checkFeed_runs h rfl hd hspan hbuf rfl⟩

end Sys2Proof.Machine
end

/-! # Commands of dumps (R288 to R294, R306, R312, R313; log 42) -/
section
namespace Sys2Proof.Machine

/-! ## An answer leaves the dumps alone (R484, R500) -/

section AnswerDumps
variable (s : State)

theorem sendAnswer_dumps (f : Frame) : (sendAnswer f s).dumps = s.dumps := by
  unfold sendAnswer
  split
  · rfl
  · split <;> rfl

theorem routeFrame_dumps (f : Frame) (arrival : Option Nat) (lane : Bool) : (routeFrame f arrival lane s).dumps = s.dumps := by
  simp only [routeFrame]
  split
  · rfl
  · rw [apply_ite State.dumps, sendAnswer_dumps]
    split <;> split <;> rfl

theorem sendFrame_dumps (f : Frame) : (sendFrame f s).dumps = s.dumps := routeFrame_dumps s f none false

theorem queueEvent_dumps (e : Event) : (queueEvent e s).dumps = s.dumps := by
  simp only [queueEvent]
  split <;> split <;> rfl

theorem raiseEvent_dumps (code line : Nat) (payload : List Word) (owner : Owner) (result : BitVec 8) :
    (raiseEvent code line payload owner result s).dumps = s.dumps := by
  unfold raiseEvent
  split
  · rfl
  · extract_lets e _ numbered queued notified
    have hqueued : queued.dumps = s.dumps := by
      simp only [queued]
      split
      · rfl
      · split
        · rfl
        · exact queueEvent_dumps _ _
    have hnotified : notified.dumps = s.dumps := by
      simp only [notified]
      split
      · exact hqueued
      · exact (sendFrame_dumps _ _).trans hqueued
    split
    · exact hnotified
    · exact (sendFrame_dumps _ _).trans hnotified

theorem mailboxDone_dumps (m : Nat) (seq cmd : BitVec 16) (code : BitVec 8) (badCheck : Bool) (ws : List Word) :
    (mailboxDone m seq cmd code badCheck ws s).dumps = s.dumps := by
  simp only [mailboxDone]

theorem narrowRespond_dumps (key seq cmd : BitVec 16) (code : BitVec 8) (badCheck : Bool) (ws : List Word) :
    (narrowRespond key seq cmd code badCheck ws s).dumps = s.dumps := by
  simp only [narrowRespond]
  split
  · split <;> rfl
  · rfl

theorem sendResponse_dumps (src : BitVec 16) (tag : BitVec 24) (type : BitVec 8) (minlevel : BitVec 2) (code : BitVec 8)
    (payload : List Word) : (sendResponse src tag type minlevel code payload s).dumps = s.dumps :=
  sendFrame_dumps _ _

theorem respond_dumps (via : Via) (code : BitVec 8) (ws : List Word) : (respond via code ws s).dumps = s.dumps := by
  unfold respond respondWith
  cases takenOf s via with
  | none => rfl
  | some t =>
    cases via with
    | mailbox m =>
      dsimp -zeta only
      cases t.notify with
      | false => exact mailboxDone_dumps _ _ _ _ _ _ _
      | true => exact (raiseEvent_dumps _ _ _ _ _ _).trans (mailboxDone_dumps _ _ _ _ _ _ _)
    | narrow q => exact narrowRespond_dumps _ _ _ _ _ _ _
    | remote src tag => exact sendResponse_dumps _ _ _ _ _ _ _
    | narrowRemote src tag => exact sendResponse_dumps _ _ _ _ _ _ _

theorem dumpOf_respond (via : Via) (code : BitVec 8) (ws : List Word) (id : BitVec 16) :
    dumpOf (respond via code ws s) id = dumpOf s id := by
  simp only [dumpOf, respond_dumps]

end AnswerDumps

/-! ## DUMP_START SETUP (R288) -/

/-- The governor takes the DECL_BW and the SHARE that are not zero. -/
def governorSet (declBw : BitVec 16) (share : BitVec 9) (b : State) : State := { b with hm := { b.hm with
  declBw := if declBw = 0 then b.hm.declBw else declBw.toNat, share := if share = 0 then b.hm.share else share.toNat } }

/-- The region has the BASE and SIZE of a SETUP, with its images to begin past the control block. -/
def regionSet (region : BitVec 4) (base size : Word) (b : State) : State :=
  writeControl region (modRegion region (fun _ => { base := base, size := size.toNat, reserved := 4096, write := 4096 }) b)

section Setup
variable {via : Via} {region : BitVec 4} {base size : Word} {declBw : BitVec 16} {share : BitVec 9} {s b : State}
  (h : accepted via 0x0043 (.dumpSetup via region base size declBw share) false s = true)
  (hb : begun via 0x0043 (.dumpSetup via region base size declBw share) s = b)
  (hd : denied b via .opPlatVen .sealedLevel = false) (hr : region.toNat ≤ 8) (hs : share.toNat ≤ 400)
include h hb hd hr hs

theorem exec_dumpSetup_of_governor_alone (hnone : base = 0 ∧ size = 0) :
    exec (.dumpSetup via region base size declBw share) s = .next (respond via rOk [] (governorSet declBw share b)) := by
  have hgiven : decide (base ≠ 0 ∨ size ≠ 0) = false :=
    decide_eq_false fun hgiven => Decidable.not_and_iff_not_or_not.mpr hgiven hnone
  refine congrArg Host.Outcome.next ((command_runs_at h hb ?_).trans ?_)
  · rw [hgiven]
    simp [hd, hr, hs]
  · rw [hgiven]
    rfl

/-- R289: a region aligned and large enough for its kind is set; no image may still be written into it (log 42). -/
theorem exec_dumpSetup_of_region (hsome : ¬ (base = 0 ∧ size = 0))
    (hbase : base.toNat % (if region = 0 then 2097152 else 4096) = 0)
    (hsize : size.toNat % (if region = 0 then 2097152 else 4096) = 0)
    (hleast : (if region = 0 then 67108864 else 65536) ≤ size.toNat) (hopen : openImages b region = []) :
    exec (.dumpSetup via region base size declBw share) s =
      .next (respond via rOk [] (regionSet region base size (governorSet declBw share b))) := by
  have hgiven : decide (base ≠ 0 ∨ size ≠ 0) = true := decide_eq_true (Decidable.not_and_iff_not_or_not.mp hsome)
  refine congrArg Host.Outcome.next ((command_runs_at h hb ?_).trans ?_)
  · rw [hgiven]
    simpa [hd, hr, hs, hopen] using And.intro hbase (And.intro hsize hleast)
  · rw [hgiven]
    rfl

theorem exec_dumpSetup_runs (hset : base = 0 ∧ size = 0 ∨
      (base.toNat % (if region = 0 then 2097152 else 4096) = 0 ∧ size.toNat % (if region = 0 then 2097152 else 4096) = 0 ∧
        (if region = 0 then 67108864 else 65536) ≤ size.toNat ∧ openImages b region = [])) :
    exec (.dumpSetup via region base size declBw share) s = .next (respond via rOk []
      (if base = 0 ∧ size = 0 then governorSet declBw share b else regionSet region base size (governorSet declBw share b))) := by
  by_cases hzero : base = 0 ∧ size = 0
  · rw [if_pos hzero, exec_dumpSetup_of_governor_alone h hb hd hr hs hzero]
  · obtain ⟨hbase, hsize, hleast, hopen⟩ := hset.resolve_left hzero
    rw [if_neg hzero, exec_dumpSetup_of_region h hb hd hr hs hzero hbase hsize hleast hopen]

end Setup

/-! ## START and SCAN_OUT (R288, R292 to R294) -/

/-- A start that nothing refuses answers the id and the offset of the image, and then starts the dump. -/
theorem hostStart_runs {via : Via} {cmd : BitVec 16} {i : Instr} {p : DumpParams} {read : Word} {s b : State}
    (h : accepted via cmd i false s = true) (hb : begun via cmd i s = b) (hc : firstCode (startChecks via p read b) = none) :
    hostStart via cmd i p read s = (startDump p 0 (ownerOf b via) (whoOf b via) 0 none none read
      (respond via rPending [b.dumps.next.setWidth 64,
        wn (((placeImage (regionOf b p.region) read (startTotal b p false)).map Prod.fst).getD 0)] b)).2 :=
  command_runs_of_no_code h hb hc

/-! ## CANCEL (R312) -/

/-- R312: the answer comes first, and the dump then ends as its state before the answer says. -/
theorem exec_dumpCancel_runs {via : Via} {id : BitVec 16} {s b : State} {d : Dump}
    (h : accepted via 0x0043 (.dumpCancel via id) false s = true) (hb : begun via 0x0043 (.dumpCancel via id) s = b)
    (hd : denied b via .opPlatVen .sealedLevel = false) (hid : dumpOf b id = some d) (hlive : dumpLive d = true) :
    exec (.dumpCancel via id) s = .next (if d.st = .parked then abandonDump id (respond via rOk [] b)
      else pumpDump id (endEarly id 8 (respond via rOk [] b))) := by
  refine congrArg Host.Outcome.next ((command_runs_at h hb ?_).trans ?_)
  · simp [hd, hid, hlive]
  · simp only [dumpOf_respond, hid]

/-! ## CHURN (R313) -/

/-- The deadline of a CHURN: 1 s where none is given. -/
def churnSpan (deadline : BitVec 32) : Nat := if deadline = 0 then 4000000000 else deadline.toNat

/-- The record of a churn of the cut `x`, with the chips that it waits for. -/
def churnOf (via : Via) (region : BitVec 4) (deadline : BitVec 32) (x : Cut) (b : State) : Churn := {
  id := chipOf b ++ b.dumps.nextChurn, owner := ownerOf b via, deadline := hubGt b + churnSpan deadline, region := region
  awaited := chipsNamed b x.addr x.mask ++ (if namesHere b x.addr x.mask then [chipOf b] else []) }

/-- The churn is on record and takes the next number (R613). -/
def churnRecorded (k : Churn) (b : State) : State :=
  { b with dumps := { b.dumps with nextChurn := nextSeq b.dumps.nextChurn, churns := b.dumps.churns ++ [k] } }

/-- A CHURN is answered and floods to the other chips of its cut. -/
def churnFlooded (via : Via) (cutId : BitVec 32) (content : BitVec 6) (region : BitVec 4) (stream : Bool) (tag deadline : BitVec 32)
    (x : Cut) (k : Churn) (b : State) : State :=
  stopFlood 4 false k.id 0 x.addr x.mask 0 (pk [(32, 32, cutId.toNat), (0, 32, churnSpan deadline)])
    (pk [(32, 32, tag.toNat), (12, 1, b2n stream), (8, 4, region.toNat), (0, 6, content.toNat)])
    (respond via rPending [k.id.setWidth 64] (churnRecorded k b))

theorem exec_churn_runs {via : Via} {cutId : BitVec 32} {content : BitVec 6} {region : BitVec 4} {stream : Bool}
    {tag deadline : BitVec 32} {s b : State} {x : Cut} (read : Word)
    (h : accepted via 0x0043 (.churn via cutId content region stream tag deadline 0) false s = true)
    (hb : begun via 0x0043 (.churn via cutId content region stream tag deadline 0) s = b)
    (hlevel : stream = true → levelThree b via = false)
    (hd : denied b via .opPlatVen (if content.getLsbD 5 then .invasive else .observe) = false)
    (hwho : whoOf b via ≠ some .vendor) (hcontent : content ≠ 0) (hregion : region.toNat ≤ 8)
    (hx : activeCut b cutId = some x) (hother : namesOther b x.addr x.mask = true) (hforce : cutInForce b x = true) :
    let k := churnOf via region deadline x b
    let n := churnFlooded via cutId content region stream tag deadline x k b
    exec (.churn via cutId content region stream tag deadline read) s =
      .next (if namesHere b x.addr x.mask
        then churnDump cutId k.id content region false tag (ownerOf b via) (whoOf b via) read n else n) := by
  refine congrArg Host.Outcome.next ((command_runs_at h hb ?_).trans ?_)
  · simp only [hx, hd]
    simpa [hwho, hregion, hother, hforce] using And.intro hlevel hcontent
  · simp only [hx]
    rfl

/-! ## FAULT_RETRY (R306) -/

section FaultRetry
variable {via : Via} {index : BitVec 16} {abandon : Bool} {s b : State}

theorem exec_faultRetry_of_dump {d : Dump} (h : accepted via 0x0045 (.faultRetry via 0 index abandon) false s = true)
    (hb : begun via 0x0045 (.faultRetry via 0 index abandon) s = b) (hd : denied b via .opPlatVen .sealedLevel = false)
    (hid : dumpOf b index = some d) (hparked : d.st = .parked) :
    exec (.faultRetry via 0 index abandon) s = .next (if abandon then abandonDump index (respond via rOk [] b)
      else pumpDump index (modDump index (fun d => { d with st := .active, result := 0 }) (respond via rOk [] b))) := by
  refine congrArg Host.Outcome.next (command_runs_at h hb ?_)
  simp [hd, hid, hparked]

theorem exec_faultRetry_of_pail (h : accepted via 0x0045 (.faultRetry via 1 index abandon) false s = true)
    (hb : begun via 0x0045 (.faultRetry via 1 index abandon) s = b) (hd : denied b via .opPlatVen .sealedLevel = false)
    (hindex : index.toNat < 4) (hfault : (pailSet b (index.setWidth 2)).fault.isSome = true) :
    exec (.faultRetry via 1 index abandon) s = .next (pailRetry (index.setWidth 2) (respond via rOk [] b)) := by
  refine congrArg Host.Outcome.next (command_runs_at h hb ?_)
  simp [hd, hindex, hfault]

theorem exec_faultRetry_of_trace (h : accepted via 0x0045 (.faultRetry via 2 index abandon) false s = true)
    (hb : begun via 0x0045 (.faultRetry via 2 index abandon) s = b) (hd : denied b via .opPlatVen .sealedLevel = false)
    (hfault : b.trace.fault.isSome = true) :
    exec (.faultRetry via 2 index abandon) s = .next (traceRetry (respond via rOk [] b)) := by
  refine congrArg Host.Outcome.next (command_runs_at h hb ?_)
  simp [hd, hfault]

end FaultRetry

/-! ## The obligation -/

/-- Settles O21: each command runs once its checks pass, CANCEL and FAULT_RETRY by the state of the dump that they name. -/
theorem dumpCommandsComplete : Obligations.DumpCommandsComplete :=
  ⟨fun _ _ _ _ _ _ _ h => exec_dumpSetup_runs h rfl,
    fun _ _ _ _ h hc => congrArg Host.Outcome.next (hostStart_runs h rfl hc),
    fun _ _ _ _ h hc => congrArg Host.Outcome.next (hostStart_runs h rfl hc),
    fun _ _ _ _ h => exec_dumpCancel_runs h rfl,
    fun _ _ _ _ _ _ _ read _ _ h => exec_churn_runs read h rfl,
    fun _ _ _ _ => ⟨fun _ h => exec_faultRetry_of_dump h rfl, fun h => exec_faultRetry_of_pail h rfl,
      fun h => exec_faultRetry_of_trace h rfl⟩⟩

end Sys2Proof.Machine
end

/-! # Host memory, its governor and the credits of dumps (R296, R299 to R302, R590; log 45, 46) -/
section
namespace Sys2Proof.Machine

/-! ## Answers of host memory (R590) -/

/-- The request with one more beat of its data. -/
def withBeat (beat : List Word) (r : HmReq) : HmReq := { r with got := r.got ++ padWords 8 beat }

section Answers
variable {tag : BitVec 16} {s : State} (hs : serving s = true)
include hs

theorem exec_hostMemoryWriteResponse_of_found {r : HmReq} (hr : hmFind s tag true = some r) (code : BitVec 2) :
    exec (.hostMemoryWriteResponse tag code) s = .next (hmAnswered r (hmCode r code) s) := by
  refine congrArg Host.Outcome.next ((if_pos hs).trans ?_)
  rw [hr]

/-- An answer whose request has gone counts where its tag is late (R590; log 46). -/
theorem exec_hostMemoryWriteResponse_of_none (hnone : hmFind s tag true = none) (code : BitVec 2) :
    exec (.hostMemoryWriteResponse tag code) s = .next (lateAnswer tag s) := by
  refine congrArg Host.Outcome.next ((if_pos hs).trans ?_)
  rw [hnone]

section Found
variable {r : HmReq} (hr : hmFind s tag false = some r)
include hr

theorem exec_hostMemoryReadBeat_of_last (beat : List Word) (code : BitVec 2) :
    exec (.hostMemoryReadBeat tag beat true code) s = .next (hmAnswered (withBeat beat r) (hmCode r code) s) := by
  refine congrArg Host.Outcome.next ((if_pos hs).trans ?_)
  rw [hr]
  rfl

theorem exec_hostMemoryReadBeat_of_more (beat : List Word) (code : BitVec 2) :
    exec (.hostMemoryReadBeat tag beat false code) s = .next { s with hm := { s.hm with
      out := modFirst (fun q => q.tag == tag) (fun _ => withBeat beat r) s.hm.out } } := by
  refine congrArg Host.Outcome.next ((if_pos hs).trans ?_)
  rw [hr]
  rfl

end Found

theorem exec_hostMemoryReadBeat_of_none (hnone : hmFind s tag false = none) (beat : List Word) (last : Bool)
    (code : BitVec 2) :
    exec (.hostMemoryReadBeat tag beat last code) s = .next (if last then lateAnswer tag s else s) := by
  refine congrArg Host.Outcome.next ((if_pos hs).trans ?_)
  rw [hnone]

end Answers

/-- R590: what a response code means for a request. -/
theorem hmCode_table (r : HmReq) : hmCode r 0 = 0 ∧ (r.phys = false → hmCode r 1 = 1) ∧ (r.phys = true → hmCode r 1 = 2) ∧
    hmCode r 2 = 2 ∧ hmCode r 3 = 2 :=
  ⟨rfl, fun h => by simp [hmCode, h], fun h => by simp [hmCode, h], rfl, rfl⟩

/-! ## The age of a request (R590) -/

section Age
variable {tag : BitVec 16} {s : State} {r : HmReq} (hr : s.hm.out.find? (fun r => r.tag == tag) = some r)
include hr

theorem exec_hostMemoryTimeout_of_due (hs : serving s = true) (hdue : r.issued + 4000000 ≤ hubGt s) :
    exec (.hostMemoryTimeout tag) s =
      .next (hmAnswered r 2 { s with hm := { s.hm with lateTags := tag :: s.hm.lateTags } }) := by
  refine congrArg Host.Outcome.next ?_
  rw [hr]
  exact if_pos ⟨hdue, hs⟩

theorem exec_hostMemoryTimeout_of_early (hearly : hubGt s < r.issued + 4000000) : exec (.hostMemoryTimeout tag) s = .next s := by
  refine congrArg Host.Outcome.next ?_
  rw [hr]
  exact if_neg fun ⟨hdue, _⟩ => Nat.not_le.mpr hearly hdue

end Age

/-! ## The governor's window (R302; log 45) -/

theorem exec_governorWindow_of_later {s : State} (h : s.hm.window < hubGt s / 4000) :
    exec .governorWindow s = .next (pumpHm (s.hm.waiting.length + 1)
      { s with hm := { s.hm with window := hubGt s / 4000, used := 0, dumped := 0 } }) :=
  congrArg Host.Outcome.next (if_pos h)

theorem exec_governorWindow_of_same {s : State} (h : hubGt s / 4000 ≤ s.hm.window) : exec .governorWindow s = .next s :=
  congrArg Host.Outcome.next (if_neg (Nat.not_lt.mpr h))

/-! ## Credits of dumps (R296, R299) -/

/-- R299: one credit of the partition is taken, and the turns of leaf and core move past the section's core. -/
def creditTaken (p : Nat) (x : Section) (b : State) : State := { b with dumps := { b.dumps with
  credits := b.dumps.credits.modify p (· - 1), nextLeaf := b.dumps.nextLeaf.set p (clusterOf x.core + 1)
  nextCore := tset (clusterOf x.core) (x.core + 1) b.dumps.nextCore } }

section Credit
variable {part : PartIx} {s : State}

theorem exec_dumpCreditGrant_of_not_serving (hs : serving s = false) : exec (.dumpCreditGrant part) s = .next s :=
  congrArg Host.Outcome.next (if_neg (Bool.eq_false_iff.mp hs))

variable {b : State} (hs : serving s = true) (hb : pumpDumps s = b)
include hs hb

theorem exec_dumpCreditGrant_of_no_turn (hnone : firstTurn b part.toNat (creditTurns b part.toNat) = none) :
    exec (.dumpCreditGrant part) s = .next b := by
  subst hb
  refine congrArg Host.Outcome.next ((if_pos hs).trans ?_)
  simp only [hnone]

variable {id : BitVec 16} {i : Nat} {x : Section} {d : Dump} {co : Core}
  (hturn : firstTurn b part.toNat (creditTurns b part.toNat) = some (id, i, x)) (hd : dumpOf b id = some d)
  (hco : coreOf b x.core = some co)
include hturn hd hco

theorem exec_dumpCreditGrant_of_omitted {cause : Nat} (hcause : omitCause b x co = some cause) :
    exec (.dumpCreditGrant part) s = .next (pumpDump id (omitSection id cause b (x, i))) := by
  subst hb
  refine congrArg Host.Outcome.next ((if_pos hs).trans ?_)
  simp only [hturn, hd, hco, hcause]

variable (hread : omitCause b x co = none)
include hread

theorem exec_dumpCreditGrant_of_no_credit (hzero : b.dumps.credits.getD part.toNat 0 = 0) :
    exec (.dumpCreditGrant part) s = .next b := by
  subst hb
  refine congrArg Host.Outcome.next ((if_pos hs).trans ?_)
  simp only [hturn, hd, hco, hread]
  exact if_pos hzero

theorem exec_dumpCreditGrant_of_credit (hcredit : b.dumps.credits.getD part.toNat 0 ≠ 0) :
    exec (.dumpCreditGrant part) s = .next (readChunk d i x co (creditTaken part.toNat x b)) := by
  subst hb
  refine congrArg Host.Outcome.next ((if_pos hs).trans ?_)
  simp only [hturn, hd, hco, hread]
  exact if_neg hcredit

end Credit

/-! ## The end of a scan pass (R111, R301) -/

/-- R111: the inputs of the chains stay at the last shift of the words captured. -/
def scanInputs (co : Core) (chunk : List Word) : BitVec 32 :=
  lastShift co.ties.scanChains.toNat (passWidth co.ties.scanChains.toNat)
    ((bytesOf chunk).foldr (fun b acc => acc * 256 + b.toNat) 0)

section ScanPass
variable {core : CoreIx} {chunk : List Word} {s : State} {co : Core} (hco : coreOf s core.toNat = some co)
include hco

theorem exec_scanPassComplete_of_none (h : co.scan = none ∨ co.scanRun = none) :
    exec (.scanPassComplete core chunk) s = .next s := by
  refine congrArg Host.Outcome.next ?_
  rw [hco]
  exact if_pos (by simpa using h)

theorem exec_scanPassComplete_of_pass (hscan : co.scan ≠ none) (hrun : co.scanRun ≠ none) :
    exec (.scanPassComplete core chunk) s = .next (upPush core.toNat (.scanData chunk) (modCore core.toNat (fun x => { x with
      scanRun := none, scanMode := false, scanSe := false, funcClkEn := decide (x.st ≠ .hardStopped)
      scanSi := scanInputs co chunk }) s)) := by
  refine congrArg Host.Outcome.next ?_
  rw [hco]
  exact if_neg (by simp [hscan, hrun])

end ScanPass

/-! ## The obligation -/

/-- Settles O53: an answer by whether a request matches it, a credit by the section whose turn it is, a scan pass by whether one
is under way. -/
theorem hostMemoryAndDumpRowsComplete : Obligations.HostMemoryAndDumpRowsComplete :=
  ⟨fun _ code _ _ hs hr => exec_hostMemoryWriteResponse_of_found hs hr code,
    fun _ beat code _ _ hs hr => ⟨exec_hostMemoryReadBeat_of_last hs hr beat code,
      exec_hostMemoryReadBeat_of_more hs hr beat code⟩,
    hmCode_table,
    fun _ beat code _ hs hw hr => ⟨exec_hostMemoryWriteResponse_of_none hs hw code,
      exec_hostMemoryReadBeat_of_none hs hr beat true code, exec_hostMemoryReadBeat_of_none hs hr beat false code⟩,
    fun _ _ _ hs hr => ⟨exec_hostMemoryTimeout_of_due hr hs, exec_hostMemoryTimeout_of_early hr⟩,
    fun _ => ⟨exec_governorWindow_of_later, exec_governorWindow_of_same⟩,
    fun _ _ hs => ⟨exec_dumpCreditGrant_of_no_turn hs rfl, fun _ _ _ _ _ hturn hd hco =>
      ⟨fun _ => exec_dumpCreditGrant_of_omitted hs rfl hturn hd hco, exec_dumpCreditGrant_of_no_credit hs rfl hturn hd hco,
        exec_dumpCreditGrant_of_credit hs rfl hturn hd hco⟩⟩,
    fun _ _ => exec_dumpCreditGrant_of_not_serving,
    fun _ _ _ _ hco => ⟨exec_scanPassComplete_of_none hco,
      fun hscan hrun => ⟨_, exec_scanPassComplete_of_pass hco hscan hrun⟩⟩⟩

end Sys2Proof.Machine
end

/-! # The host's check unit at the register port (R331 to R335, Table 10.9) -/
section
namespace Sys2Proof.Machine

/-! ## The six writes as `hrWrite` of their registers -/

/-- R585: a serving hub only answers a write with a byte not enabled. -/
theorem hrWrite_of_partial {s : State} (act : State → State) {strb : BitVec 8} (hs : serving s = true) (hstrb : strb ≠ 0xFF) :
    hrWrite strb act s = hrDone 0 s :=
  (if_pos hs).trans (if_neg hstrb)

section Writes
variable (w : Word) (strb : BitVec 8) (s : State)

theorem exec_ckRun_eq : exec (.ckRun w strb) s = .next (hrWrite strb (hostFeed (.run w)) s) := rfl

theorem exec_ckFeedB_eq : exec (.ckFeedB w strb) s = .next (hrWrite strb (feedBytes 1 w) s) := rfl

theorem exec_ckFeedH_eq : exec (.ckFeedH w strb) s = .next (hrWrite strb (feedBytes 2 w) s) := rfl

theorem exec_ckFeedW_eq : exec (.ckFeedW w strb) s = .next (hrWrite strb (feedBytes 4 w) s) := rfl

theorem exec_ckCtrlHost_eq : exec (.ckCtrlHost w strb) s = .next (hrWrite strb (writeCkCtrl w) s) := rfl

theorem exec_ckOverrunClear_eq : exec (.ckOverrunClear w strb) s = .next (hrWrite strb (clearOverrun w) s) := rfl

end Writes

/-! ## What each write does to the unit -/

section Registers
variable (w : Word) (s : State)

/-- R331, R332, R335: a feed is counted in IGNORED, dropped with OVERRUN, or queued. -/
theorem hostFeed_eq (f : CkFeed) : hostFeed f s = { s with check :=
    if s.check.owner = false then { s.check with ignored := satInc s.check.ignored }
    else if 16 ≤ s.check.queue.length then { s.check with overrun := true }
    else { s.check with queue := s.check.queue ++ [f] } } := by
  simp [hostFeed]

/-- R335: OWNER stays while HOST is set or a feed waits. -/
theorem settleOwner_eq (k : Check) :
    settleOwner k = { k with owner := k.owner && (k.host || !k.queue.isEmpty) } := by
  obtain ⟨_, _, _, _, host, _, _, _, queue, _⟩ := k
  cases host <;> cases queue <;> simp [settleOwner]

theorem writeCkCtrl_eq : writeCkCtrl w s = { s with check := { s.check with
    crc64 := bit w 1, host := bit w 0, owner := s.check.owner && (bit w 0 || !s.check.queue.isEmpty) } } := by
  rw [writeCkCtrl, settleOwner_eq]

/-- Table 10.9: OVERRUN is W1C, at bit 9 of CK_STATUS. -/
theorem clearOverrun_eq :
    clearOverrun w s = { s with check := { s.check with overrun := s.check.overrun && !bit w 9 } } := by
  cases hw : bit w 9 <;> simp [clearOverrun, hw]

end Registers

/-! ## What a read answers -/

theorem b2n_lt_two (b : Bool) : b2n b < 2 := by
  cases b <;> decide

theorem decide_b2n_eq_one (b : Bool) : decide (b2n b = 1) = b := by
  cases b <;> rfl

/-- Table 10.9: CK_STATUS as a sum of its fields. -/
theorem toNat_ckStatus (k : Check) : (ckStatus k).toNat =
    k.ignored.toNat * 2 ^ 32 + b2n k.overrun * 2 ^ 9 + b2n k.owner * 2 ^ 8 + k.queue.length % 2 ^ 5 := by
  have hignored := k.ignored.isLt
  have hoverrun := b2n_lt_two k.overrun
  have howner := b2n_lt_two k.owner
  simp only [ckStatus, pk, List.foldl, BitVec.toNat_ofNat, Nat.shiftLeft_eq]
  omega

theorem bits_ckStatus_ignored (k : Check) : bits (ckStatus k) 63 32 = k.ignored.toNat := by
  have hignored := k.ignored.isLt
  have hoverrun := b2n_lt_two k.overrun
  have howner := b2n_lt_two k.owner
  rw [bits, toNat_ckStatus, Nat.shiftRight_eq_div_pow]
  omega

theorem bit_ckStatus_overrun (k : Check) : bit (ckStatus k) 9 = k.overrun := by
  have hoverrun := b2n_lt_two k.overrun
  have howner := b2n_lt_two k.owner
  rw [bit, toNat_ckStatus, Nat.testBit_eq_decide_div_mod_eq]
  exact (decide_eq_decide.mpr (by omega)).trans (decide_b2n_eq_one k.overrun)

theorem bit_ckStatus_owner (k : Check) : bit (ckStatus k) 8 = k.owner := by
  have howner := b2n_lt_two k.owner
  rw [bit, toNat_ckStatus, Nat.testBit_eq_decide_div_mod_eq]
  exact (decide_eq_decide.mpr (by omega)).trans (decide_b2n_eq_one k.owner)

theorem drainAll_queue (k : Check) : (drainAll k).queue = [] := by
  simp [drainAll, settleOwner_eq]

theorem drainAll_crc64 (k : Check) : (drainAll k).crc64 = k.crc64 := by
  simp [drainAll, settleOwner_eq]

/-- With no feed queued and HOST set there is nothing to apply and nothing to give back. -/
theorem drainAll_of_held {k : Check} (hq : k.queue = []) (hhost : k.host = true) : drainAll k = k := by
  cases k
  simp_all [drainAll, settleOwner_eq]

/-- The word that a read of CK_RESULT (`result`) or of CK_RUN answers once the feeds are applied. -/
def ckAnswer (result : Bool) (k : Check) : Word := if result then ckFinal k.crc64 k.run else ckRunRead k

/-- R330: in CRC-64 mode both registers read the running value. -/
theorem ckAnswer_of_crc64 (result : Bool) {k : Check} (hcrc : k.crc64 = true) : ckAnswer result k = k.run := by
  cases result <;> simp [ckAnswer, ckFinal, ckRunRead, hcrc]

theorem bits_setWidth_upper (x : BitVec 32) : bits (x.setWidth 64) 63 32 = 0 := by
  have hx : (x.setWidth 64).toNat < 2 ^ 32 := by
    rw [BitVec.toNat_setWidth_of_le (by decide : 32 ≤ 64)]
    exact x.isLt
  rw [bits, Nat.shiftRight_eq_zero _ _ hx, Nat.zero_mod]

/-- R330: in CRC-32C mode both registers have zero in [63:32]. -/
theorem bits_ckAnswer_of_crc32 (result : Bool) {k : Check} (hcrc : k.crc64 = false) : bits (ckAnswer result k) 63 32 = 0 := by
  cases result
  · simpa [ckAnswer, ckRunRead, hcrc] using bits_setWidth_upper (k.run.setWidth 32)
  · simpa [ckAnswer, ckFinal, hcrc] using bits_setWidth_upper (k.run.setWidth 32 ^^^ 0xFFFFFFFF#32)

/-! ## The grant and the reads of a serving hub -/

section Rows
variable {s : State}

theorem exec_ckHostGrant_of_not_asked (hhost : s.check.host = false) : exec .ckHostGrant s = .next s :=
  congrArg Host.Outcome.next (if_neg (by simp [hhost]))

variable (hs : serving s = true)
include hs

theorem exec_ckHostGrant_of_asked (hhost : s.check.host = true) :
    exec .ckHostGrant s = .next { s with check := { s.check with owner := true } } :=
  congrArg Host.Outcome.next (if_pos (by simp [hs, hhost]))

theorem exec_ckStatusRead_eq :
    exec .ckStatusRead s = .next { hrDone (ckStatus s.check) s with check := { s.check with ignored := 0 } } :=
  congrArg Host.Outcome.next (if_pos hs)

theorem exec_ckResultRead_eq (result : Bool) :
    exec (.ckResultRead result) s =
      .next { hrDone (ckAnswer result (drainAll s.check)) s with check := drainAll s.check } :=
  congrArg Host.Outcome.next (if_pos hs)

theorem exec_ckResultRead_of_held (result : Bool) (hq : s.check.queue = []) (hhost : s.check.host = true)
    (hcrc : s.check.crc64 = true) : exec (.ckResultRead result) s = .next (hrDone s.check.run s) := by
  rw [exec_ckResultRead_eq hs, drainAll_of_held hq hhost, ckAnswer_of_crc64 result hcrc]
  rfl

end Rows

/-! ## The obligation -/

/-- Settles O33: the six writes are `hrWrite` of what they do to the unit, and a read answers the unit with its feeds applied. -/
theorem hostChecksumUnitRowsComplete : Obligations.HostChecksumUnitRowsComplete := by
  refine ⟨fun w s hs => ⟨?run, ?feedB, ?feedH, ?feedW, ?ctrl, ?overrun⟩, fun w strb s hs hstrb i hi => ?part,
    fun s hs => ⟨exec_ckHostGrant_of_asked hs, exec_ckHostGrant_of_not_asked,
      ⟨_, exec_ckStatusRead_eq hs, bits_ckStatus_ignored _, bit_ckStatus_overrun _, bit_ckStatus_owner _⟩,
      fun hq hhost hcrc result => exec_ckResultRead_of_held hs result hq hhost hcrc,
      fun result => ⟨_, exec_ckResultRead_eq hs result, drainAll_queue _,
        fun hcrc => bits_ckAnswer_of_crc32 result ((drainAll_crc64 _).trans hcrc)⟩⟩⟩
  case run => rw [exec_ckRun_eq, hrWrite_whole _ hs, hostFeed_eq, hrDone_check]
  case feedB => rw [exec_ckFeedB_eq, hrWrite_whole _ hs, feedBytes, hostFeed_eq, hrDone_check]
  case feedH => rw [exec_ckFeedH_eq, hrWrite_whole _ hs, feedBytes, hostFeed_eq, hrDone_check]
  case feedW => rw [exec_ckFeedW_eq, hrWrite_whole _ hs, feedBytes, hostFeed_eq, hrDone_check]
  case ctrl => rw [exec_ckCtrlHost_eq, hrWrite_whole _ hs, writeCkCtrl_eq, hrDone_check]
  case overrun => rw [exec_ckOverrunClear_eq, hrWrite_whole _ hs, clearOverrun_eq, hrDone_check]
  case part =>
    simp only [List.mem_cons, List.not_mem_nil, or_false] at hi
    rcases hi with rfl | rfl | rfl | rfl | rfl | rfl
    · rw [exec_ckRun_eq, hrWrite_of_partial _ hs hstrb]
    · rw [exec_ckFeedB_eq, hrWrite_of_partial _ hs hstrb]
    · rw [exec_ckFeedH_eq, hrWrite_of_partial _ hs hstrb]
    · rw [exec_ckFeedW_eq, hrWrite_of_partial _ hs hstrb]
    · rw [exec_ckCtrlHost_eq, hrWrite_of_partial _ hs hstrb]
    · rw [exec_ckOverrunClear_eq, hrWrite_of_partial _ hs hstrb]

end Sys2Proof.Machine
end

section
/-! # What no command touches: the queue, the form of the byte memories, the engines of a core

`Keeps firm s t` says it once for a state and a later one; with `firm`, the firmware's record stays as well. Every function of the
model keeps it, one lemma each in the order of the model, and `exec_keeps` collects the rows. -/
namespace Sys2Proof.Machine

variable {firm : Bool}

/-- What a run of the model's functions from `s` to `t` keeps: the queue of waiting commands, the canonical form of both byte
memories, the eight engines of every core and, with `firm`, the firmware's record. -/
structure Keeps (firm : Bool) (s t : State) : Prop where
  pending : t.pending = s.pending
  memories : memoriesCanonical s = true → memoriesCanonical t = true
  cores : coresWhole s = true → coresWhole t = true
  fw : firm = true → t.fw = s.fw

namespace Keeps

protected theorem refl {s : State} : Keeps firm s s := ⟨rfl, id, id, fun _ => rfl⟩

protected theorem trans {s t u : State} (h : Keeps firm s t) (h' : Keeps firm t u) : Keeps firm s u :=
  ⟨h'.pending.trans h.pending, h'.memories ∘ h.memories, h'.cores ∘ h.cores, fun hf => (h'.fw hf).trans (h.fw hf)⟩

/-- `trans` with the later run first, which fixes the state between. -/
protected theorem after {s t u : State} (h' : Keeps firm t u) (h : Keeps firm s t) : Keeps firm s u := h.trans h'

protected theorem ite {s t u : State} {c : Prop} [Decidable c] (ht : Keeps firm s t) (hu : Keeps firm s u) :
    Keeps firm s (if c then t else u) := by
  split
  · exact ht
  · exact hu

protected theorem ite_fst {α : Type} {s : State} {x y : State × α} {c : Prop} [Decidable c] (hx : Keeps firm s x.1)
    (hy : Keeps firm s y.1) : Keeps firm s (if c then x else y).1 := by
  split
  · exact hx
  · exact hy

protected theorem foldl {α : Type} {f : State → α → State} {s : State} (hf : ∀ s x, Keeps firm s (f s x)) (l : List α) :
    Keeps firm s (l.foldl f s) := by
  induction l generalizing s with
  | nil => exact .refl
  | cons x l ih => exact (hf s x).trans ih

/-- A fold over states that come with a result. -/
protected theorem foldl_on {α β : Type} (g : β → State) {f : β → α → β} {s : β}
    (hf : ∀ s x, Keeps firm (g s) (g (f s x))) (l : List α) : Keeps firm (g s) (g (l.foldl f s)) := by
  induction l generalizing s with
  | nil => exact .refl
  | cons x l ih => exact (hf s x).trans ih

end Keeps

/-- What a command leaves, where it completes, keeps the same of `s`, but for the firmware's record. -/
def KeepsNext (s : State) (o : Host.Outcome State Fault Refusal) : Prop := ∀ t, o = .next t → Keeps false s t

theorem KeepsNext.next {s t : State} (h : Keeps false s t) : KeepsNext s (.next t) := by
  intro u hu
  cases hu
  exact h

theorem KeepsNext.ite_fault {s t : State} {f : Fault} {c : Prop} [Decidable c] (h : Keeps false s t) :
    KeepsNext s (if c then .next t else .fault f) := by
  split
  · exact .next h
  · intro u hu
    cases hu

/-! ## The three parts -/

theorem memWfFrom_filter (p : Nat × Byte → Bool) {lo : Nat} {m : Mem} (h : memWfFrom lo m = true) :
    memWfFrom lo (m.filter p) = true := by
  induction m generalizing lo with
  | nil => rfl
  | cons q t ih =>
    obtain ⟨a, b⟩ := q
    simp only [memWfFrom, Bool.and_eq_true, decide_eq_true_eq] at h
    obtain ⟨⟨hlo, hb⟩, ht⟩ := h
    rw [List.filter_cons]
    split
    · simp only [memWfFrom, Bool.and_eq_true, decide_eq_true_eq]
      exact ⟨⟨hlo, hb⟩, ih ht⟩
    · exact memWfFrom_mono (ih ht) (by omega)

theorem memWf_filter (p : Nat × Byte → Bool) {m : Mem} (h : memWf m = true) : memWf (m.filter p) = true := memWfFrom_filter p h

theorem coresWhole_iff {s : State} : coresWhole s = true ↔ ∀ p ∈ s.cores, p.2.engs.length = 8 := by
  simp [coresWhole]

theorem memoriesCanonical_iff {s : State} : memoriesCanonical s = true ↔ memWf s.mb.mem = true ∧ memWf s.trace.buf = true := by
  simp [memoriesCanonical]

theorem memoriesCanonical_imp {s t : State} (hmem : memWf s.mb.mem = true → memWf t.mb.mem = true)
    (hbuf : memWf s.trace.buf = true → memWf t.trace.buf = true) (h : memoriesCanonical s = true) :
    memoriesCanonical t = true := by
  obtain ⟨hm, hb⟩ := memoriesCanonical_iff.mp h
  exact memoriesCanonical_iff.mpr ⟨hmem hm, hbuf hb⟩

/-! ## Updates of the state -/

/-- Whatever else changes: memories that stay canonical, the same queue, the same cores and the same firmware's record. -/
theorem keeps_memories {s : State} {time leaves gens ctxs accounts hr ao ties power pw mb protect fuses fuseWrites narrow events
    errors hm pail trace iz triggers cuts rind autofence hang dumps check rec_ test free}
    (hmem : memWf s.mb.mem = true → memWf mb.mem = true) (hbuf : memWf s.trace.buf = true → memWf trace.buf = true) :
    Keeps firm s { s with
      time := time, leaves := leaves, gens := gens, ctxs := ctxs, accounts := accounts, hr := hr, ao := ao, ties := ties
      power := power, pw := pw, mb := mb, protect := protect, fuses := fuses, fuseWrites := fuseWrites
      narrow := narrow, events := events, errors := errors, hm := hm, pail := pail, trace := trace, iz := iz
      triggers := triggers, cuts := cuts, rind := rind, autofence := autofence, hang := hang, dumps := dumps
      check := check, rec_ := rec_, test := test, free := free } :=
  ⟨rfl, memoriesCanonical_imp hmem hbuf, id, fun _ => rfl⟩

/-- A change of anything but the queue, the memories, the cores and the firmware's record. -/
theorem keeps_update {s : State} {time leaves gens ctxs accounts hr ao ties power pw levels hello coord taken protect fuses
    fuseWrites narrow events errors hm pail enabled cfg owner mailbox start startState capacity write read wrapped dropped hubQ
    streams milkNext staged sending unanswered publish fault endGt ctlDue stopping ending iz triggers cuts rind autofence hang
    dumps check rec_ test free} :
    Keeps firm s { s with
      time := time, leaves := leaves, gens := gens, ctxs := ctxs, accounts := accounts, hr := hr, ao := ao, ties := ties
      power := power, pw := pw, protect := protect, fuses := fuses, fuseWrites := fuseWrites, narrow := narrow
      events := events, errors := errors, hm := hm, pail := pail, iz := iz, triggers := triggers, cuts := cuts, rind := rind
      autofence := autofence, hang := hang, dumps := dumps, check := check, rec_ := rec_, test := test, free := free
      mb := { s.mb with levels := levels, hello := hello, coord := coord, taken := taken }
      trace := { s.trace with
        enabled := enabled, cfg := cfg, owner := owner, mailbox := mailbox, start := start, startState := startState
        capacity := capacity, write := write, read := read, wrapped := wrapped, dropped := dropped, hubQ := hubQ
        streams := streams, milkNext := milkNext, staged := staged, sending := sending, unanswered := unanswered
        publish := publish, fault := fault, endGt := endGt, ctlDue := ctlDue, stopping := stopping, ending := ending } } :=
  keeps_memories id id

theorem mem_tmap {α : Type} {f : Nat → α → α} {t : Tab α} {p : Nat × α} (h : p ∈ tmap f t) :
    ∃ q ∈ t, p = (q.1, f q.1 q.2) := by
  induction t with
  | nil => cases h
  | cons q t ih =>
    obtain ⟨k, v⟩ := q
    rcases List.mem_cons.mp h with rfl | h
    · exact ⟨_, List.mem_cons_self, rfl⟩
    · obtain ⟨r, hr, hp⟩ := ih h
      exact ⟨r, List.mem_cons_of_mem _ hr, hp⟩

/-- The same where every core is changed in a way that keeps its engines' places. -/
theorem keeps_tmap {s : State} {f : Nat → Core → Core}
    {time leaves gens ctxs accounts hr ao ties power pw levels hello coord taken protect fuses
    fuseWrites narrow events errors hm pail enabled cfg owner mailbox start startState capacity write read wrapped dropped hubQ
    streams milkNext staged sending unanswered publish fault endGt ctlDue stopping ending iz triggers cuts rind autofence hang
    dumps check rec_ test free}
    (hf : ∀ c co, (f c co).engs.length = co.engs.length) :
    Keeps firm s { s with
      cores := tmap f s.cores
      time := time, leaves := leaves, gens := gens, ctxs := ctxs, accounts := accounts, hr := hr, ao := ao, ties := ties
      power := power, pw := pw, protect := protect, fuses := fuses, fuseWrites := fuseWrites, narrow := narrow
      events := events, errors := errors, hm := hm, pail := pail, iz := iz, triggers := triggers, cuts := cuts, rind := rind
      autofence := autofence, hang := hang, dumps := dumps, check := check, rec_ := rec_, test := test, free := free
      mb := { s.mb with levels := levels, hello := hello, coord := coord, taken := taken }
      trace := { s.trace with
        enabled := enabled, cfg := cfg, owner := owner, mailbox := mailbox, start := start, startState := startState
        capacity := capacity, write := write, read := read, wrapped := wrapped, dropped := dropped, hubQ := hubQ
        streams := streams, milkNext := milkNext, staged := staged, sending := sending, unanswered := unanswered
        publish := publish, fault := fault, endGt := endGt, ctlDue := ctlDue, stopping := stopping, ending := ending } } where
  pending := rfl
  memories := id
  fw _ := rfl
  cores h := by
    rw [coresWhole_iff] at h ⊢
    intro p hp
    obtain ⟨q, hq, rfl⟩ := mem_tmap hp
    exact (hf q.1 q.2).trans (h q hq)

/-- An entry of a changed table is an entry of the old one, or the changed one of its key. -/
theorem mem_tmod {α : Type} {k : Nat} {f : α → α} {t : Tab α} {p : Nat × α} (h : p ∈ tmod k f t) :
    p ∈ t ∨ ∃ v, tget k t = some v ∧ p = (k, f v) := by
  induction t with
  | nil => cases h
  | cons q t ih =>
    obtain ⟨k', v⟩ := q
    rw [tmod] at h
    split at h
    next hk =>
      rcases List.mem_cons.mp h with rfl | h
      · exact .inr ⟨v, by simp [tget, hk], by rw [hk]⟩
      · exact .inl (List.mem_cons_of_mem _ h)
    next hk =>
      rcases List.mem_cons.mp h with rfl | h
      · exact .inl List.mem_cons_self
      · refine (ih h).imp (List.mem_cons_of_mem _) fun ⟨w, hw, hp⟩ => ⟨w, ?_, hp⟩
        rw [tget, if_neg hk, hw]

theorem keeps_modCore_at {c s} {f : Core → Core} (hf : ∀ co, coreOf s c = some co → (f co).engs.length = co.engs.length) :
    Keeps firm s (modCore c f s) where
  pending := rfl
  memories := id
  fw _ := rfl
  cores h := by
    rw [coresWhole_iff] at *
    intro p hp
    rcases mem_tmod hp with hp | ⟨co, hco, rfl⟩
    · exact h p hp
    · exact (hf co hco).trans (h _ (tget_mem hco))

theorem keeps_modCore {c s} {f : Core → Core} (hf : ∀ co, (f co).engs.length = co.engs.length) :
    Keeps firm s (modCore c f s) :=
  keeps_modCore_at fun co _ => hf co

theorem keeps_modCores {cs s} {f : Core → Core} (hf : ∀ co, (f co).engs.length = co.engs.length) :
    Keeps firm s (modCores cs f s) :=
  keeps_tmap fun c co => by
    split
    · exact hf co
    · rfl

theorem keeps_modEng {c e f s} : Keeps firm s (modEng c e f s) := keeps_modCore (length_modEngC e f)

/-! ## Changes of a core that keep its engines' places -/

@[simp] theorem length_raiseHolds (co : Core) : (raiseHolds co).engs.length = co.engs.length := by
  simp [raiseHolds]

@[simp] theorem length_zeroCounters (co : Core) : (zeroCounters co).engs.length = co.engs.length := by
  simp [zeroCounters]

@[simp] theorem length_freshEngines (co : Core) : (freshEngines co).engs.length = co.engs.length := by
  simp [freshEngines]

@[simp] theorem length_markDisc (co : Core) : (markDisc co).engs.length = co.engs.length := by
  simp [markDisc]

@[simp] theorem length_lowerAbortHolds (co : Core) : (lowerAbortHolds co).engs.length = co.engs.length := by
  simp [lowerAbortHolds]

@[simp] theorem length_spendFlags (set : BitVec 2) (co : Core) : (spendFlags set co).engs.length = co.engs.length := by
  simp [spendFlags]

@[simp] theorem length_forgetEngines (co : Core) : (forgetEngines co).engs.length = co.engs.length := by
  simp [forgetEngines]

@[simp] theorem length_resetShim (co : Core) : (resetShim co).engs.length = co.engs.length := by
  simp [resetShim]

@[simp] theorem length_primeCrossed (b : LeafBlock) (c : Nat) (co : Core) :
    (primeCrossed b c co).engs.length = co.engs.length := by
  simp [primeCrossed]

theorem engs_upTake {co rest : Core} {w : UpWord} (h : upTake co = some (w, rest)) : rest.engs = co.engs := by
  unfold upTake at h
  extract_lets _ drained at h
  have hdrained : drained.engs = co.engs := by
    unfold drained
    split
    · exact (onlyLink_upCycle co).engs
    · rfl
  split at h
  · cases h
  · cases h
    exact hdrained

@[simp] theorem length_shimRelease (engs : BitVec 8) (units : BitVec 4) (co : Core) :
    (shimRelease engs units co).engs.length = co.engs.length := by
  simp [shimRelease]

@[simp] theorem length_shimRuns (resume : Bool) (co : Core) : (shimRuns resume co).engs.length = co.engs.length :=
  lowerHolds_engs_length _

@[simp] theorem length_dropArm (co : Core) : (dropArm co).engs.length = co.engs.length := by
  unfold dropArm
  dsimp only
  split
  · exact lowerHolds_engs_length co
  · rfl

@[simp] theorem engs_extendLight (vs : List (BitVec 48)) (co : Core) : (extendLight vs co).engs = co.engs := rfl

@[simp] theorem length_holdEngines (co : Core) : (holdEngines co).engs.length = co.engs.length := by
  simp [holdEngines]

theorem length_freshCore (k : CoreTie) : (freshCore k).engs.length = 8 := by
  unfold freshCore
  dsimp only
  split
  · exact (length_holdEngines _).trans rfl
  · rfl

@[simp] theorem length_foldl_modEngC {α : Type} (e : α → Nat) (f : α → Engine → Engine) (l : List α) (co : Core) :
    (l.foldl (fun co q => modEngC (e q) (f q) co) co).engs.length = co.engs.length := by
  induction l generalizing co with
  | nil => rfl
  | cons q l ih => exact (ih _).trans (length_modEngC _ _ co)

end Sys2Proof.Machine
end


section
/-! # The shared operations, the time, the counters and the trace keep queue, memories and cores -/
namespace Sys2Proof.Machine

variable {firm : Bool}

/-! ## Shared operations -/

theorem keeps_modPort {p f s} : Keeps firm s (modPort p f s) := keeps_update
theorem keeps_sendAt {now p lane f s} : Keeps firm s (sendAt now p lane f s) := keeps_modPort
theorem keeps_sendOn {p lane f s} : Keeps firm s (sendOn p lane f s) := keeps_sendAt
theorem keeps_countDrop {s} : Keeps firm s (countDrop s) := keeps_update
theorem keeps_receiveLocal {port f arrive s} : Keeps firm s (receiveLocal port f arrive s) := keeps_update

theorem keeps_sendAnswer {f s} : Keeps firm s (sendAnswer f s) := by
  refine .ite keeps_receiveLocal ?_
  split
  · exact keeps_sendOn
  · exact keeps_countDrop

theorem keeps_routeFrame {f arrival lane s} : Keeps firm s (routeFrame f arrival lane s) := by
  unfold routeFrame
  split
  · exact keeps_sendOn
  · refine .after (.ite keeps_sendAnswer .refl) ?_
    split
    · exact .after keeps_modPort keeps_countDrop
    · exact keeps_countDrop

theorem keeps_sendFrame {f s} : Keeps firm s (sendFrame f s) := keeps_routeFrame
theorem keeps_floodOn {f arrival s} : Keeps firm s (floodOn f arrival s) := .foldl (fun _ _ => .ite keeps_sendOn .refl) _
theorem keeps_originateFlood {f s} : Keeps firm s (originateFlood f s) := .after keeps_floodOn keeps_update
theorem keeps_queueNarrow {ws s} : Keeps firm s (queueNarrow ws s) := keeps_update
theorem keeps_narrowEvent {e s} : Keeps firm s (narrowEvent e s) := keeps_queueNarrow

theorem keeps_queueEvent {e s} : Keeps firm s (queueEvent e s) :=
  .after (.ite keeps_narrowEvent .refl) (.ite keeps_update keeps_update)

theorem keeps_raiseEvent {code line payload owner result s} : Keeps firm s (raiseEvent code line payload owner result s) := by
  refine .ite .refl ?_
  extract_lets e _ numbered queued notified
  have hqueued : Keeps firm s queued := .after (.ite keeps_narrowEvent (.ite .refl keeps_queueEvent)) keeps_update
  have hnotified : Keeps firm s notified := by
    unfold notified
    split
    · exact hqueued
    · exact .after keeps_sendFrame hqueued
  split
  · exact hnotified
  · exact .after keeps_sendFrame hnotified

theorem keeps_sendError {r s} : Keeps firm s (sendError r s) := keeps_update
theorem keeps_hubError {src cls code addr detail s} : Keeps firm s (hubError src cls code addr detail s) := keeps_sendError
theorem keeps_hubCheck {c64 run s} : Keeps firm s (hubCheck c64 run s) := .ite keeps_update keeps_update
theorem keeps_readMetered {s} : Keeps firm s (readMetered s) := keeps_update

theorem keeps_pumpHm {n s} : Keeps firm s (pumpHm n s) := by
  induction n generalizing s with
  | zero => exact .refl
  | succ n ih =>
    unfold pumpHm
    split
    · exact .ite (.after ih keeps_update) .refl
    · exact .refl

theorem keeps_hmAsk {r s} : Keeps firm s (hmAsk r s) := .after keeps_pumpHm keeps_update
theorem keeps_hmCancel {p s} : Keeps firm s (hmCancel p s) := keeps_update

theorem keeps_mailboxDone {m seq cmd code badCheck ws s} : Keeps firm s (mailboxDone m seq cmd code badCheck ws s) := by
  refine keeps_memories (fun h => ?_) id
  apply memWf_memWriteWords (memWf_memWriteWords (memWf_memWriteWords h))

theorem keeps_narrowRespond {key seq cmd code badCheck ws s} : Keeps firm s (narrowRespond key seq cmd code badCheck ws s) := by
  unfold narrowRespond
  split
  · exact .ite keeps_update keeps_update
  · exact keeps_update

theorem keeps_sendResponse {src tag type minlevel code payload s} :
    Keeps firm s (sendResponse src tag type minlevel code payload s) :=
  .after keeps_sendFrame keeps_update

theorem keeps_respondWith {via code badCheck ws s} : Keeps firm s (respondWith via code badCheck ws s) := by
  unfold respondWith
  split
  · exact .refl
  · split
    · exact .after (.ite keeps_raiseEvent .refl) (.after keeps_mailboxDone keeps_update)
    · exact .after keeps_narrowRespond keeps_update
    · exact .after keeps_sendResponse keeps_update
    · exact .after keeps_sendResponse keeps_update

theorem keeps_respond {via code ws s} : Keeps firm s (respond via code ws s) := keeps_respondWith

theorem keeps_startCall {via cmd i s t} (h : startCall via cmd i s = some t) : Keeps firm s t := by
  unfold startCall at h
  obtain ⟨_, h⟩ := Option.ite_none_right_eq_some.mp h
  split at h
  · obtain ⟨_, h⟩ := Option.ite_none_right_eq_some.mp h
    cases h
    exact keeps_update
  · cases h
    exact keeps_update

theorem keeps_command {via cmd i served checks act s} (hact : ∀ s, Keeps firm s (act s)) :
    Keeps firm s (command via cmd i served checks act s) := by
  unfold command
  split
  · exact .refl
  next h =>
    refine .after ?_ (keeps_startCall h)
    split
    · exact keeps_respond
    · split
      · exact keeps_respondWith
      · exact hact _

/-! ## Hub commands -/

theorem keeps_floodLinkState {s} : Keeps firm s (floodLinkState s) := .after keeps_originateFlood keeps_update

theorem keeps_setPort {p st level s} : Keeps firm s (setPort p st level s) :=
  .ite .refl (.after keeps_floodLinkState (.after keeps_raiseEvent keeps_modPort))

theorem keeps_coordPorts {s} : Keeps firm s (coordPorts s) := .foldl (fun _ _ => .ite keeps_setPort .refl) _

theorem keeps_helloAct {via lvl setcoord c s} : Keeps firm s (helloAct via lvl setcoord c s) := by
  refine .after keeps_respond ?_
  split
  · exact .after keeps_update (.ite (.after keeps_coordPorts keeps_update) .refl)
  · exact .ite (.after keeps_coordPorts keeps_update) .refl

theorem keeps_execHello {via minL maxL setcoord x y z dimx dimy dimz s} :
    KeepsNext s (execHello via minL maxL setcoord x y z dimx dimy dimz s) := by
  refine .next ?_
  split
  · exact .refl
  next h =>
    refine .after ?_ (keeps_startCall h)
    split
    · exact keeps_respond
    · dsimp only
      split
      · exact keeps_respondWith
      · exact keeps_helloAct

theorem keeps_execCapsSummary {via s} : KeepsNext s (execCapsSummary via s) := .next (keeps_command (fun _ => keeps_respond))

theorem keeps_execCapsPresence {via first s} : KeepsNext s (execCapsPresence via first s) :=
  .next (keeps_command (fun _ => keeps_respond))

theorem keeps_execCapsIazan {via s} : KeepsNext s (execCapsIazan via s) := .next (keeps_command (fun _ => keeps_respond))
theorem keeps_ringAbandon {s} : Keeps firm s (ringAbandon s) := .after keeps_update keeps_hmCancel

theorem keeps_execEventRingSet {via base log2 enable s} : KeepsNext s (execEventRingSet via base log2 enable s) :=
  .next (keeps_command (fun _ => .after keeps_respond (.after (.ite keeps_hmAsk .refl) (.after keeps_update keeps_ringAbandon))))

theorem keeps_nextEvent {s e t} (h : nextEvent s = some (e, t)) : Keeps firm s t := by
  unfold nextEvent at h
  split at h
  · cases h
    exact keeps_update
  · split at h
    · cases h
    · cases h
      exact keeps_update

theorem keeps_execEventRingWrite {s} : KeepsNext s (execEventRingWrite s) := by
  refine .next (.ite ?_ .refl)
  split
  · exact .refl
  next h => exact .after keeps_hmAsk (.after keeps_update (keeps_nextEvent h))

theorem keeps_execEventRingReadPoll {read s} : KeepsNext s (execEventRingReadPoll read s) :=
  .next (.ite (.after keeps_readMetered keeps_update) .refl)

theorem keeps_ringWritten {p s} : Keeps firm s (ringWritten p s) := by
  unfold ringWritten
  split
  · exact keeps_update
  · exact .after keeps_hmAsk keeps_update
  · exact keeps_update
  · exact .refl

theorem keeps_ringFaulted {s} : Keeps firm s (ringFaulted s) := .after keeps_update keeps_ringAbandon

theorem keeps_execCtxDefine {via first count attr s} : KeepsNext s (execCtxDefine via first count attr s) :=
  .next (keeps_command (fun _ => .after keeps_respond keeps_update))

theorem keeps_retireCtxs {cs s} : Keeps firm s (retireCtxs cs s) := keeps_update

theorem keeps_execCtxRetire {via first count s} : KeepsNext s (execCtxRetire via first count s) :=
  .next (keeps_command (fun _ => .after (.ite keeps_respond keeps_respond) keeps_retireCtxs))

/-! ## Frames -/

theorem keeps_openTrack {target p timeout s} : Keeps firm s (openTrack target p timeout s).2.2 := keeps_update
theorem keeps_closeTrack {ix s} : Keeps firm s (closeTrack ix s) := keeps_update
theorem keeps_countLate {s} : Keeps firm s (countLate s) := keeps_update

/-! ## Global time -/

theorem keeps_modLeaf {cl f s} : Keeps firm s (modLeaf cl f s) := keeps_update

theorem keeps_beatAll {b obs hub tp s} : Keeps firm s (beatAll b obs hub tp s) :=
  keeps_tmap fun _ _ => by split <;> rfl

theorem keeps_execBeatsLost {port cluster s} : KeepsNext s (execBeatsLost port cluster s) := by
  refine .next ?_
  split
  · exact keeps_update
  · exact keeps_modLeaf
  · exact keeps_update

theorem keeps_enterHoldover {s} : Keeps firm s (enterHoldover s) := keeps_update

theorem keeps_execRefLostAssert {s} : KeepsNext s (execRefLostAssert s) :=
  .next (.ite (.after keeps_enterHoldover keeps_update) .refl)

theorem keeps_execReferenceStopDetect {s} : KeepsNext s (execReferenceStopDetect s) :=
  .next (.ite (.after keeps_enterHoldover keeps_update) .refl)

theorem keeps_execRefLostDeassert {s} : KeepsNext s (execRefLostDeassert s) := .next (.ite keeps_update .refl)
theorem keeps_hrDone {rd s} : Keeps firm s (hrDone rd s) := keeps_update

theorem keeps_hrWrite {strb act s} (hact : ∀ s, Keeps firm s (act s)) : Keeps firm s (hrWrite strb act s) :=
  .ite (.ite (.after (hact _) keeps_hrDone) keeps_hrDone) .refl

theorem keeps_writeRate {wdata s} : Keeps firm s (writeRate wdata s) := .ite keeps_update keeps_update

theorem keeps_execTimeRateWrite {wdata wstrb s} : KeepsNext s (execTimeRateWrite wdata wstrb s) :=
  .next (keeps_hrWrite (fun _ => keeps_writeRate))

theorem keeps_clearRateErr {wdata s} : Keeps firm s (clearRateErr wdata s) := .ite keeps_update .refl

theorem keeps_execRateErrClear {wdata wstrb s} : KeepsNext s (execRateErrClear wdata wstrb s) :=
  .next (keeps_hrWrite (fun _ => keeps_clearRateErr))

theorem keeps_beginCal {mode via owner port measureOnly automatic s} :
    Keeps firm s (beginCal mode via owner port measureOnly automatic s) :=
  keeps_update

theorem keeps_abortCal {s} : Keeps firm s (abortCal s) := by
  unfold abortCal
  split
  · exact .refl
  · exact keeps_update

theorem keeps_treeDone {mode ws owner code s} : Keeps firm s (treeDone mode ws owner code s) :=
  .after keeps_raiseEvent keeps_update

theorem keeps_rootCal {mode via s} : Keeps firm s (rootCal mode via s) :=
  .after (.ite keeps_update keeps_treeDone) (.after keeps_respond keeps_update)

theorem keeps_stepChip {d s} : Keeps firm s (stepChip d s) := keeps_tmap (fun _ _ => rfl)
theorem keeps_setRootGt {rootGt s} : Keeps firm s (setRootGt rootGt s) := .after keeps_update keeps_stepChip

theorem keeps_execTimeCalStart {via root setroot rootGt s} : KeepsNext s (execTimeCalStart via root setroot rootGt s) :=
  .next (keeps_command (fun _ => by
    refine .ite (.after keeps_rootCal (.ite keeps_setRootGt .refl)) ?_
    dsimp only
    split
    · exact .after keeps_treeDone (.after keeps_respond (.after keeps_update keeps_update))
    · exact .after keeps_beginCal (.after keeps_respond keeps_update)))

theorem keeps_execTimeCalLink {via chip port s} : KeepsNext s (execTimeCalLink via chip port s) :=
  .next (keeps_command (fun _ => .ite keeps_beginCal (.after keeps_respond keeps_update)))

theorem keeps_execTimeCalSweep {via s} : KeepsNext s (execTimeCalSweep via s) := .next (keeps_command (fun _ => by
  refine .ite keeps_rootCal ?_
  split
  · exact .after keeps_treeDone (.after keeps_respond keeps_update)
  · exact .after keeps_beginCal keeps_respond))

theorem keeps_execTimeExchange {port depart s} : KeepsNext s (execTimeExchange port depart s) := by
  refine .next ?_
  split
  · exact .refl
  · exact .ite (.after keeps_sendAt keeps_update) .refl

theorem keeps_execTimeReqReceive {port exch t1 arrive depart s} : KeepsNext s (execTimeReqReceive port exch t1 arrive depart s) :=
  .next (.ite (.after keeps_sendAt keeps_update) .refl)

theorem keeps_timeStep {theta s} : Keeps firm s (timeStep theta s) := .after keeps_raiseEvent (.after keeps_update keeps_stepChip)
theorem keeps_startSlew {theta s} : Keeps firm s (startSlew theta s) := keeps_update

theorem keeps_applyCal {c theta s} : Keeps firm s (applyCal c theta s) :=
  .after (.ite keeps_update (.after (.ite keeps_timeStep keeps_startSlew) keeps_update)) keeps_update

theorem keeps_finishCal {c s} : Keeps firm s (finishCal c s) := by
  refine .ite (.after keeps_raiseEvent (.after keeps_update keeps_applyCal)) ?_
  split
  · exact .after keeps_respond (.after keeps_update keeps_applyCal)
  · exact .after keeps_treeDone keeps_applyCal

theorem keeps_nextRetrained {s} : Keeps firm s (nextRetrained s) := by
  unfold nextRetrained
  split
  · exact .refl
  · exact .ite .refl (.after keeps_beginCal keeps_update)

theorem keeps_execTimeRspReceive {port exch parentState depth t1 t2 t3 corr arrive preempted s} :
    KeepsNext s (execTimeRspReceive port exch parentState depth t1 t2 t3 corr arrive preempted s) := by
  refine .next ?_
  split
  · exact .refl
  · exact .ite (.ite (.after keeps_nextRetrained keeps_finishCal) keeps_update) .refl

theorem keeps_execTimeCalTimeout {s} : KeepsNext s (execTimeCalTimeout s) := by
  refine .next ?_
  split
  · exact .refl
  · refine .ite ?_ .refl
    refine .after keeps_nextRetrained ?_
    refine .ite keeps_abortCal ?_
    split
    · exact .after keeps_respond keeps_abortCal
    · exact .after keeps_treeDone keeps_abortCal

theorem keeps_recalibrateLink {p s} : Keeps firm s (recalibrateLink p s) := .ite .refl (.after keeps_nextRetrained keeps_update)

/-! ## The shim -/

theorem keeps_upPush {c k s} : Keeps firm s (upPush c k s) := by
  unfold upPush
  split
  · exact .refl
  · exact .after (keeps_modCore fun co => congrArg List.length (onlyLink_upWrite k co).engs) keeps_update

theorem keeps_upPushAll {c ks s} : Keeps firm s (upPushAll c ks s) := .foldl (fun _ _ => keeps_upPush) _

theorem keeps_violateN {c row e n s} : Keeps firm s (violateN c row e n s) := by
  unfold violateN
  split
  · exact .refl
  · exact .after keeps_upPushAll (keeps_modCore (fun _ => rfl))

theorem keeps_violate {c row e s} : Keeps firm s (violate c row e s) := keeps_violateN

theorem keeps_judgeRuns {c e s} : Keeps firm s (judgeRuns c e s) := by
  unfold judgeRuns
  split
  · exact .refl
  · exact .after keeps_modEng (.after (.ite keeps_violate .refl) (.ite keeps_violate .refl))

theorem keeps_endCommand {c e status implicit_ s} : Keeps firm s (endCommand c e status implicit_ s) := by
  unfold endCommand
  split
  · exact .refl
  · dsimp only
    split
    · exact .refl
    · exact .after keeps_upPush keeps_modEng

theorem keeps_endOwnCycle {c e status s} : Keeps firm s (endOwnCycle c e status s) := by
  unfold endOwnCycle
  split
  · exact .refl
  · dsimp only
    split
    · exact .refl
    · exact .after keeps_upPush keeps_modEng

theorem keeps_beginCommand {c e t st stall chan s} : Keeps firm s (beginCommand c e t st stall chan s) := by
  unfold beginCommand
  split
  · exact .refl
  · exact .after keeps_upPush (.after keeps_modEng (keeps_modCore (fun _ => rfl)))

theorem keeps_shimEpochHold {c s} : Keeps firm s (shimEpochHold c s) := keeps_modCore (fun _ => by simp)

theorem keeps_epochReport {c s} : Keeps firm s (epochReport c s) := by
  unfold epochReport
  split
  · exact .refl
  · exact .after keeps_upPush keeps_shimEpochHold

theorem keeps_runNow {c resume s} : Keeps firm s (runNow c resume s) :=
  .after (.ite keeps_epochReport .refl) (keeps_modCore (fun _ => by simp))

theorem keeps_runDue {c s} : Keeps firm s (runDue c s) := by
  unfold runDue
  split
  · exact .refl
  · split
    · exact .ite keeps_runNow .refl
    · exact .refl

theorem keeps_shimTakes {w c s} : Keeps firm s (shimTakes w c s) := by
  cases w with
  | access wr space eng addr wdata gen => exact keeps_modCore fun co => congrArg List.length (shimAccess_engs co _)
  | release engs units => exact .after (.ite keeps_epochReport .refl) (keeps_modCore (length_shimRelease engs units))
  | run resume n =>
    unfold shimTakes
    dsimp only
    split
    · exact .ite keeps_runNow (keeps_modCore fun _ => rfl)
    · exact keeps_runNow
  | scan => exact keeps_modCore fun co => congrArg List.length (scanPins_engs _)
  | stopArm n hard id => exact .refl
  | restartArm id => exact .refl
  | sampleArm n set k => exact .refl

theorem keeps_shimReads {n c s} : Keeps firm s (shimReads n c s) := by
  induction n generalizing s with
  | zero => exact .refl
  | succ n ih =>
    unfold shimReads
    split
    · exact .refl
    · exact .ite .refl (.after ih (.after keeps_shimTakes (keeps_modCore fun _ => rfl)))

theorem keeps_downPush {c w s} : Keeps firm s (downPush c w s) := by
  unfold downPush
  dsimp only
  split
  · exact keeps_modCore (fun _ => rfl)
  · exact .after (.ite keeps_shimReads .refl) (keeps_modCore (fun _ => rfl))

theorem keeps_tapAdvance {c dc s} : Keeps firm s (tapAdvance c dc s) := by
  unfold tapAdvance
  split
  · exact .refl
  · next co hco =>
    refine .ite .refl (.after (keeps_modCore fun _ => rfl) (.after keeps_shimReads
      (.after keeps_runDue (.after keeps_upPushAll ?_))))
    refine keeps_modCore_at fun co' hco' => ?_
    cases hco.symm.trans hco'
    exact (congrArg List.length (tickCore_engs _ dc)).trans (advCore_engs_length co dc)

theorem keeps_countError {c cls n s} : Keeps firm s (countError c cls n s) := .after keeps_update (keeps_modCore (fun _ => rfl))
theorem keeps_modTrig {cl f s} : Keeps firm s (modTrig cl f s) := keeps_modLeaf
theorem keeps_refreshCrossed {c s} : Keeps firm s (refreshCrossed c s) := keeps_modCore (fun _ => by simp)
theorem keeps_discard {c n s} : Keeps firm s (discard c n s) := keeps_modCore (fun _ => rfl)

theorem keeps_tapRow {c dc n act s} (hact : ∀ s, Keeps firm s (act s)) : Keeps firm s (tapRow c dc n act s) :=
  .ite (.after keeps_discard keeps_tapAdvance) (.ite (.after (hact _)
    (.after keeps_refreshCrossed (.after keeps_tapAdvance keeps_refreshCrossed))) .refl)

/-! ## Counters and pails -/

theorem keeps_modSet {i f s} : Keeps firm s (modSet i f s) := keeps_update

theorem keeps_pailWrite {i p dom off ws s} : Keeps firm s (pailWrite i p dom off ws s) :=
  .after keeps_modSet (.foldl (fun _ _ => keeps_hmAsk) _)

theorem keeps_pailAppend {i ws s} : Keeps firm s (pailAppend i ws s) := by
  unfold pailAppend
  dsimp only
  split
  · exact .after keeps_modSet keeps_pailWrite
  · exact .refl

theorem keeps_pailTakeNext {i s} : Keeps firm s (pailTakeNext i s) := by
  unfold pailTakeNext
  split
  · exact .refl
  · exact .after keeps_modSet keeps_update

theorem keeps_pailPublish {i s} : Keeps firm s (pailPublish i s) := by
  unfold pailPublish
  dsimp only
  split
  · exact .ite (.after keeps_pailTakeNext (.after keeps_hmAsk keeps_modSet)) .refl
  · exact .refl

theorem keeps_pailClose {i s} : Keeps firm s (pailClose i s) := by
  unfold pailClose
  dsimp only
  split
  · exact .refl
  · exact .after keeps_modSet keeps_pailAppend

theorem keeps_execHousekeepingSample {s} : KeepsNext s (execHousekeepingSample s) :=
  .next (.ite (keeps_tmap (fun _ _ => by simp)) .refl)

theorem keeps_setFull {on c e s} : Keeps firm s (setFull on c e s) := keeps_modEng

theorem keeps_cntConfigWith {truncate refresh via a m full s} (htruncate : ∀ s, Keeps firm s (truncate s))
  (hrefresh : ∀ y0 s, Keeps firm s (refresh y0 s)) :
    Keeps firm s (cntConfigWith truncate refresh via a m full s) :=
  keeps_command (fun _ => .after (.ite keeps_respond keeps_respond)
    (.after (.foldl (fun _ _ => .after (hrefresh _ _) keeps_setFull) _) (.ite (htruncate _) .refl)))

theorem keeps_execPailConfig {via p s} : KeepsNext s (execPailConfig via p s) :=
  .next (keeps_command (fun _ => .after keeps_respond (.after (.ite keeps_pailTakeNext .refl) keeps_modSet)))

theorem keeps_pailSkip {i s} : Keeps firm s (pailSkip i s) := keeps_modSet
theorem keeps_pailSkipFull {i p s} : Keeps firm s (pailSkipFull i p s) := .after keeps_hmAsk keeps_pailSkip

theorem keeps_pailContexts {i p dom s} : Keeps firm s (pailContexts i p dom s) := .after keeps_modSet (.foldl (fun _ _ => by
  split
  · exact .refl
  · exact keeps_pailAppend) _)

theorem keeps_execPailSampleInstant {i read s} : KeepsNext s (execPailSampleInstant i read s) := by
  refine .next ?_
  split
  · exact .refl
  · refine .ite ?_ .refl
    dsimp only
    split
    · exact keeps_pailClose
    · exact .after (.ite keeps_pailSkip (.ite .refl (.after
        (.ite keeps_pailSkipFull (.after (.ite (.after keeps_pailClose keeps_pailContexts) .refl)
        (.after keeps_pailAppend keeps_modSet))) keeps_readMetered))) keeps_pailClose

theorem keeps_headerOnly {i c k co s} : Keeps firm s (headerOnly i c k co s) := keeps_update

theorem keeps_execPailLeafArm {i core cyc n s} : KeepsNext s (execPailLeafArm i core cyc n s) := by
  refine .next ?_
  split
  · exact .refl
  · refine .ite .refl ?_
    split
    · exact .ite (.after keeps_headerOnly (keeps_modCore (fun _ => rfl))) .refl
    · exact .ite .refl (.after (.ite keeps_headerOnly keeps_downPush) (keeps_modCore (fun _ => rfl)))
    · exact .refl

theorem keeps_execPailShimSample {core dc cyc s} : KeepsNext s (execPailShimSample core dc cyc s) := by
  refine .next ?_
  refine .ite ?_ .refl
  dsimp only
  split
  · exact keeps_tapAdvance
  · split
    · exact keeps_tapAdvance
    · exact .after (keeps_modCore (fun _ => by simp)) (.after keeps_update keeps_tapAdvance)

theorem keeps_execPailRecordArrival {i s} : KeepsNext s (execPailRecordArrival i s) := by
  refine .next ?_
  split
  · exact .refl
  · dsimp only
    split
    · exact .after (.ite (.after (.ite keeps_pailClose .refl) (.after keeps_modSet keeps_pailAppend)) .refl)
        (.after (.ite .refl (keeps_modCore (fun _ => by simp))) keeps_update)
    · exact .after (.ite .refl (keeps_modCore (fun _ => by simp))) keeps_update

theorem keeps_pailWritten {i s} : Keeps firm s (pailWritten i s) := .after keeps_pailPublish keeps_modSet

theorem keeps_pailFaulted {i addr s} : Keeps firm s (pailFaulted i addr s) :=
  .ite .refl (.after keeps_raiseEvent (.after keeps_pailTakeNext (.after keeps_modSet keeps_hmCancel)))

theorem keeps_pailRetry {i s} : Keeps firm s (pailRetry i s) := keeps_modSet

theorem keeps_disableSets {p s} : Keeps firm s (disableSets p s) :=
  .foldl (fun _ _ => .ite (.after keeps_pailTakeNext (.after keeps_modSet keeps_hmCancel)) keeps_modSet) _

/-! ## Trace -/

theorem keeps_addEvent {cl g e s} : Keeps firm s (addEvent cl g e s) := keeps_modLeaf
theorem keeps_traceEmit {cl r s} : Keeps firm s (traceEmit cl r s) := keeps_modLeaf

theorem keeps_writeOne {cl r s} : Keeps firm s (writeOne cl r s) := by
  unfold writeOne
  split
  · exact .refl
  · exact .ite keeps_modLeaf keeps_modLeaf

theorem keeps_writeRec {cl r s} : Keeps firm s (writeRec cl r s) := by
  unfold writeRec
  split
  · exact .refl
  · exact .ite keeps_writeOne (.foldl (fun _ _ => keeps_writeOne) _)

theorem keeps_flushN {n bound cl s} : Keeps firm s (flushN n bound cl s) := by
  induction n generalizing s with
  | zero => exact .refl
  | succ n ih =>
    unfold flushN
    split
    · exact .ite (.after ih (.after keeps_writeRec keeps_modLeaf)) .refl
    · exact .refl

theorem keeps_traceFlush {cl s} : Keeps firm s (traceFlush cl s) := keeps_flushN

theorem keeps_takeLost {cl s} : Keeps firm s (takeLost cl s).2 := by
  unfold takeLost
  dsimp only
  split
  · exact keeps_modLeaf
  · exact .refl

theorem keeps_takeDisc {c e s} : Keeps firm s (takeDisc c e s).2 := by
  unfold takeDisc
  split
  · exact .refl
  · exact .after keeps_takeLost (keeps_modCore fun _ => by cases e <;> simp)

theorem keeps_emitProg {c e type tflags tfield stamp rest entries s} :
    Keeps firm s (emitProg c e type tflags tfield stamp rest entries s) :=
  .after keeps_traceEmit keeps_takeDisc

theorem keeps_emitEng {c e type tflags tfield stamp rest s} : Keeps firm s (emitEng c e type tflags tfield stamp rest s) :=
  keeps_emitProg

theorem keeps_emitCore {c type tflags tfield stamp rest s} : Keeps firm s (emitCore c type tflags tfield stamp rest s) :=
  .after keeps_traceEmit keeps_takeDisc

theorem keeps_closeProg {c e second s} : Keeps firm s (closeProg c e second s) := by
  unfold closeProg
  split
  · exact .refl
  · exact .after (.ite .refl keeps_emitProg) keeps_modEng

theorem keeps_addEntry {c e x t s} : Keeps firm s (addEntry c e x t s) := by
  unfold addEntry
  split
  · exact keeps_modEng
  · exact .ite (.after keeps_closeProg keeps_modEng) (.after keeps_modEng keeps_closeProg)

theorem keeps_progWord {c e ret br tgt t stamp s} : Keeps firm s (progWord c e ret br tgt t stamp s) := by
  unfold progWord
  split
  · exact .refl
  · exact .after (.ite keeps_modEng (.after keeps_modEng (.ite keeps_addEntry
      (.after (.ite .refl keeps_emitProg) keeps_closeProg)))) (.ite keeps_addEntry .refl)

theorem keeps_execProgRecordTimeout {core eng cyc s} : KeepsNext s (execProgRecordTimeout core eng cyc s) := by
  refine .next ?_
  split
  · exact .refl
  · exact .ite (.after keeps_traceFlush keeps_closeProg) .refl

theorem keeps_setGate {c e open_ s} : Keeps firm s (setGate c e open_ s) := keeps_modEng

theorem keeps_emitState {c e cause old new t stamp s} : Keeps firm s (emitState c e cause old new t stamp s) := by
  unfold emitState
  split
  · exact .ite (.after keeps_emitEng keeps_closeProg) .refl
  · exact .ite keeps_emitCore .refl

theorem keeps_emitCluster {cl type tflags tfield stamp rest s} : Keeps firm s (emitCluster cl type tflags tfield stamp rest s) :=
  .after keeps_traceEmit keeps_takeLost

theorem keeps_emitGen {cl unit domain rung old stamp s} : Keeps firm s (emitGen cl unit domain rung old stamp s) :=
  .ite (.ite (.after keeps_traceEmit (.after keeps_takeDisc keeps_closeProg)) .refl)
    (.ite (.ite (.after keeps_traceEmit keeps_takeDisc) .refl) (.ite (.after keeps_traceEmit keeps_takeLost) .refl))

theorem keeps_execMilkRunBeat {part s} : KeepsNext s (execMilkRunBeat part s) := by
  refine .next ?_
  refine .ite .refl ?_
  split
  · exact .refl
  · exact .after keeps_update keeps_modLeaf

theorem keeps_writeHeader {s} : Keeps firm s (writeHeader s) := by
  refine keeps_memories id fun h => ?_
  apply memWf_memWriteWords h

theorem keeps_onchipPut {r s} : Keeps firm s (onchipPut r s) := by
  refine keeps_memories id fun h => ?_
  apply memWf_memWriteWords (memWf_memWriteWords h)

theorem keeps_sinkPut {r s} : Keeps firm s (sinkPut r s) := .ite keeps_update (.after keeps_writeHeader keeps_onchipPut)
theorem keeps_setStream {cl h s} : Keeps firm s (setStream cl h s) := keeps_update

theorem keeps_sinkTake {cl r s} : Keeps firm s (sinkTake cl r s) := by
  refine .ite (.after keeps_writeHeader (.after keeps_update keeps_setStream)) ?_
  refine .ite ?_ (.after keeps_setStream keeps_sinkPut)
  refine .after keeps_setStream ?_
  refine .after keeps_sinkPut ?_
  refine .after keeps_sinkPut ?_
  split
  · exact .refl
  · exact keeps_sinkPut

theorem keeps_writeSinkControl {s} : Keeps firm s (writeSinkControl s) := by
  unfold writeSinkControl
  split
  · exact .refl
  · exact .after keeps_hmAsk keeps_update

theorem keeps_writePointer {off s} : Keeps firm s (writePointer off s) := by
  unfold writePointer
  split
  · exact .refl
  · exact keeps_hmAsk

theorem keeps_ringPump {s} : Keeps firm s (ringPump s) := by
  unfold ringPump
  split
  · exact .refl
  · exact .ite .refl (.ite .refl (.after (.foldl (fun _ _ => keeps_hmAsk) _) keeps_update))

theorem keeps_leaveStaged {s} : Keeps firm s (leaveStaged s) :=
  .after keeps_writeHeader (.after (.foldl (fun _ _ => keeps_onchipPut) _) keeps_update)

theorem keeps_traceOver {s} : Keeps firm s (traceOver s) := by
  unfold traceOver
  dsimp only
  split
  · exact keeps_update
  · exact .after keeps_respond keeps_update

theorem keeps_traceFinish {s} : Keeps firm s (traceFinish s) :=
  .ite (.after (.ite (.after keeps_traceOver keeps_writeHeader)
    (.ite (.after keeps_traceOver keeps_leaveStaged) (.after (.ite keeps_traceOver .refl) keeps_ringPump)))
    (.after keeps_update (.foldl (fun _ _ => by
    split
    · exact .refl
    · exact keeps_sinkPut) _))) .refl

theorem keeps_traceWritten {p s} : Keeps firm s (traceWritten p s) := by
  unfold traceWritten
  split
  · refine .ite ?_ keeps_update
    split
    · exact keeps_update
    · exact .after keeps_writePointer (.after keeps_update keeps_update)
  · exact .after keeps_traceFinish (.after keeps_ringPump keeps_update)
  · exact .refl

theorem keeps_traceFaulted {p addr s} : Keeps firm s (traceFaulted p addr s) :=
  .after (.ite .refl (.after keeps_raiseEvent (.after keeps_update keeps_hmCancel))) (.ite keeps_update .refl)

theorem keeps_traceRetry {s} : Keeps firm s (traceRetry s) := by
  unfold traceRetry
  dsimp only
  split
  · exact .after keeps_writePointer (.after (.ite keeps_writeSinkControl .refl) keeps_update)
  · exact .after keeps_ringPump (.after (.ite keeps_writeSinkControl .refl) keeps_update)

theorem keeps_execTraceSinkWrite {s} : KeepsNext s (execTraceSinkWrite s) := by
  refine .next ?_
  refine .ite .refl ?_
  split
  · exact .after keeps_traceFinish keeps_ringPump
  · exact .after keeps_traceFinish (.after keeps_ringPump (.after keeps_sinkTake keeps_update))

theorem keeps_execTraceReadPoll {read s} : KeepsNext s (execTraceReadPoll read s) :=
  .next (.ite (.after keeps_traceFinish (.after keeps_ringPump (.after keeps_update keeps_readMetered))) .refl)

theorem keeps_selectData {old p s} : Keeps firm s (selectData old p s) := keeps_tmap (fun _ _ => rfl)
theorem keeps_stopStream {cl s} : Keeps firm s (stopStream cl s) := .after keeps_modLeaf keeps_flushN

theorem keeps_takeSession {cl p g s} : Keeps firm s (takeSession cl p g s) := by
  unfold takeSession
  split
  · exact .after keeps_stopStream (.after (keeps_tmap (fun _ _ => by dsimp only; split <;> simp))
      (.foldl (fun _ _ => .ite .refl keeps_closeProg) _))
  · exact .after keeps_modLeaf (.after (keeps_tmap (fun _ _ => by dsimp only; split <;> simp))
      (.foldl (fun _ _ => .ite .refl keeps_closeProg) _))

theorem keeps_startSession {via p s} : Keeps firm s (startSession via p s) :=
  .after (.ite keeps_writeSinkControl keeps_writeHeader) (keeps_memories id (fun _ => rfl))

theorem keeps_truncateTrace {s} : Keeps firm s (truncateTrace s) :=
  .ite (.ite (.after keeps_ringPump keeps_update)
    (.after keeps_update (.after keeps_sinkPut (keeps_memories id (memWf_filter _))))) .refl

/-! ## Errors -/

theorem keeps_countPolicies {c g portslot cls n s} : Keeps firm s (countPolicies c g portslot cls n s) := by
  unfold countPolicies
  split
  · exact .refl
  · refine .ite (keeps_modCore (fun _ => rfl)) ?_
    dsimp only
    split
    · exact keeps_modCore (fun _ => rfl)
    · exact .after keeps_sendError (keeps_modCore (fun _ => rfl))

theorem keeps_modErr {cl f s} : Keeps firm s (modErr cl f s) := keeps_modLeaf

theorem keeps_endInterval {cl s} : Keeps firm s (endInterval cl s) := by
  unfold endInterval
  split
  · exact .refl
  · exact .after (.ite keeps_sendError .refl) keeps_modErr

theorem keeps_leafReport {cl r n k s} : Keeps firm s (leafReport cl r n k s) := by
  unfold leafReport
  split
  · exact .refl
  · refine .ite keeps_modErr ?_
    refine .after (.ite keeps_modErr (.after keeps_sendError keeps_modErr)) ?_
    split
    · exact .ite keeps_endInterval .refl
    · exact .refl

theorem keeps_leafDropped {cl k cls n g s} : Keeps firm s (leafDropped cl k cls n g s) := by
  refine .ite .refl ?_
  split
  · exact .refl
  · refine .ite keeps_modErr ?_
    refine .after keeps_modErr ?_
    split
    · exact .ite keeps_endInterval .refl
    · exact .refl

theorem keeps_execCoalesceIntervalEnd {cluster cyc s} : KeepsNext s (execCoalesceIntervalEnd cluster cyc s) := by
  refine .next ?_
  split
  · exact .ite keeps_endInterval .refl
  · exact .refl

theorem keeps_execStormNoticeReceive {cluster _cyc s} : KeepsNext s (execStormNoticeReceive cluster _cyc s) :=
  .next (.ite keeps_modErr .refl)

theorem keeps_execLeafSramError {cluster cyc code addr corrected s} :
    KeepsNext s (execLeafSramError cluster cyc code addr corrected s) :=
  .next keeps_leafReport

theorem keeps_logRecord {r s} : Keeps firm s (logRecord r s) := .after keeps_raiseEvent keeps_update
theorem keeps_enterStorm {s} : Keeps firm s (enterStorm s) := .after keeps_raiseEvent keeps_update

theorem keeps_execErrorRecordArrival {s} : KeepsNext s (execErrorRecordArrival s) := by
  refine .next ?_
  split
  · exact .refl
  · exact .ite .refl (.after (.ite keeps_enterStorm .refl) keeps_update)

theorem keeps_clearLatches {s} : Keeps firm s (clearLatches s) := keeps_update

theorem keeps_exitStorm {s} : Keeps firm s (exitStorm s) :=
  .after keeps_raiseEvent (.after keeps_update (.after (.foldl (fun _ _ => keeps_logRecord) _) keeps_clearLatches))

theorem keeps_execStormWindowEnd {s} : KeepsNext s (execStormWindowEnd s) :=
  .next (.ite (.after (.ite .refl (.ite (.after (.foldl (fun _ _ => keeps_logRecord) _) keeps_clearLatches)
    (.ite keeps_exitStorm .refl))) (.after keeps_update (.foldl (fun _ _ => keeps_logRecord) _))) .refl)

end Sys2Proof.Machine
end


section
/-! # Skim, cuts, steps and triggers keep queue, memories and cores -/
namespace Sys2Proof.Machine

variable {firm : Bool}

/-! ## Skim -/

theorem keeps_modCap {cl f s} : Keeps firm s (modCap cl f s) := keeps_modLeaf

theorem keeps_driveStore {cl s} : Keeps firm s (driveStore cl s) :=
  keeps_tmap fun c co => by
    split
    · rfl
    · split
      · split <;> rfl
      · rfl

theorem keeps_noteCloses {s} : Keeps firm s (noteCloses s) := keeps_update

theorem keeps_closeCapture {cl cause at_ s} : Keeps firm s (closeCapture cl cause at_ s) := by
  unfold closeCapture
  split
  · exact .refl
  · exact .after keeps_raiseEvent (.after keeps_driveStore keeps_modLeaf)

theorem keeps_cancelCapture {cl s} : Keeps firm s (cancelCapture cl s) := by
  unfold cancelCapture
  split
  · exact .refl
  · exact .ite keeps_modCap .refl

theorem keeps_cancelCaptures {p s} : Keeps firm s (cancelCaptures p s) := .foldl (fun _ _ => by
  split
  · exact .ite keeps_cancelCapture .refl
  · exact .refl) _

theorem keeps_armSkim {cl g s} : Keeps firm s (armSkim cl g s).2 := by
  unfold armSkim
  split
  · exact .refl
  · split
    · exact keeps_modCap
    · exact .refl

theorem keeps_execSkimCaptureOpen {cluster cyc s} : KeepsNext s (execSkimCaptureOpen cluster cyc s) := by
  refine .next ?_
  split
  · exact .ite keeps_modCap .refl
  · exact .refl

theorem keeps_skimGap {c reset s} : Keeps firm s (skimGap c reset s) := keeps_modCap
theorem keeps_skimDrop {cl n g s} : Keeps firm s (skimDrop cl n g s) := keeps_modCap

theorem keeps_queueElem {cl x s} : Keeps firm s (queueElem cl x s) := by
  unfold queueElem
  split
  · exact .refl
  · split
    · exact .refl
    · exact .ite .refl (.ite keeps_skimDrop keeps_modLeaf)

theorem keeps_takeElem {cl x s} : Keeps firm s (takeElem cl x s) := by
  unfold takeElem
  split
  · exact .refl
  · exact .ite .refl (.after (.ite (.after keeps_closeCapture keeps_modCap) .refl) keeps_modCap)

theorem keeps_execSkimElement {cluster s} : KeepsNext s (execSkimElement cluster s) := by
  refine .next ?_
  split
  · exact .ite (.after keeps_takeElem keeps_modLeaf) .refl
  · exact .refl

theorem keeps_execSkimCloseTime {cluster cyc s} : KeepsNext s (execSkimCloseTime cluster cyc s) := by
  refine .next ?_
  split
  · exact .refl
  · split
    · exact .refl
    · split
      · exact .refl
      · exact .ite (.after (.ite keeps_closeCapture .refl) (.foldl (fun _ _ => keeps_takeElem) _)) .refl

theorem keeps_execSkimArm {via p s} : KeepsNext s (execSkimArm via p s) :=
  .next (keeps_command (fun _ => .after (.ite keeps_respond keeps_respond)
    (.foldl (fun _ _ => .after keeps_driveStore keeps_modLeaf) _)))

theorem keeps_execSkimCancel {via a m s} : KeepsNext s (execSkimCancel via a m s) :=
  .next (keeps_command (fun _ => .after keeps_respond (.foldl (fun _ _ => keeps_cancelCapture) _)))

theorem keeps_execSkimRead {via a m s} : KeepsNext s (execSkimRead via a m s) := .next (keeps_command (fun _ => by
  split
  · exact keeps_respond
  · split <;> exact keeps_respond))

/-! ## Crock -/

theorem keeps_crockPut {c e kind t detail stamp s} : Keeps firm s (crockPut c e kind t detail stamp s) := keeps_modEng

theorem keeps_crockCore {c kind detail stamp s} : Keeps firm s (crockCore c kind detail stamp s) := by
  unfold crockCore
  split
  · exact .refl
  · exact .foldl (fun _ _ => keeps_crockPut) _

theorem keeps_freezeCrock {c e s} : Keeps firm s (freezeCrock c e s) := keeps_modEng
theorem keeps_thawCrock {c e s} : Keeps firm s (thawCrock c e s) := keeps_modEng
theorem keeps_modStaging {f s} : Keeps firm s (modStaging f s) := keeps_update
theorem keeps_stageCut {header s} : Keeps firm s (stageCut header s) := keeps_modStaging
theorem keeps_stageHang {header s} : Keeps firm s (stageHang header s) := keeps_modStaging
theorem keeps_stageRung {payload s} : Keeps firm s (stageRung payload s) := keeps_modStaging

theorem keeps_stageCrock {c e src id s} : Keeps firm s (stageCrock c e src id s) := by
  unfold stageCrock
  split
  · exact .refl
  · exact keeps_modStaging

theorem keeps_stateCrock {c e cause old new g s} : Keeps firm s (stateCrock c e cause old new g s) := by
  unfold stateCrock
  split
  · exact keeps_crockPut
  · exact keeps_crockCore

theorem keeps_genCrock {cl unit domain old g s} : Keeps firm s (genCrock cl unit domain old g s) :=
  .ite keeps_crockPut (.ite keeps_crockCore (.foldl (fun _ _ => keeps_crockCore) _))

theorem keeps_stampOwn {cl ev s} : Keeps firm s (stampOwn cl ev s) := by
  refine .after keeps_addEvent ?_
  split
  · exact keeps_stateCrock
  · exact keeps_genCrock
  · exact .refl

theorem keeps_leafOwn {cl ev s} : Keeps firm s (leafOwn cl ev s) := .ite keeps_stampOwn keeps_modLeaf

theorem keeps_ownDue {cl s} : Keeps firm s (ownDue cl s) := by
  unfold ownDue
  split
  · exact .ite (.after (.foldl (fun _ _ => keeps_stampOwn) _) keeps_modLeaf) .refl
  · exact .refl

theorem keeps_noteState {c e cause old new t s} : Keeps firm s (noteState c e cause old new t s) :=
  .ite .refl (.ite keeps_leafOwn keeps_upPush)

theorem keeps_withdrawEdge {c e s} : Keeps firm s (withdrawEdge c e s) := by
  unfold withdrawEdge
  split
  · exact .refl
  · split
    · exact .refl
    · exact .after keeps_update keeps_modEng

theorem keeps_withdrawCore {c s} : Keeps firm s (withdrawCore c s) := .foldl (fun _ _ => keeps_withdrawEdge) _
theorem keeps_restartBlock {c s} : Keeps firm s (restartBlock c s) := keeps_modCore (fun _ => by simp)

/-! ## Accesses -/

theorem keeps_returnCredit {core s} : Keeps firm s (returnCredit core s) := keeps_update
theorem keeps_modDump {id f s} : Keeps firm s (modDump id f s) := keeps_update
theorem keeps_modSect {id i f s} : Keeps firm s (modSect id i f s) := keeps_modDump
theorem keeps_dropJobs {c p s} : Keeps firm s (dropJobs c p s) := keeps_modCore (fun _ => rfl)

theorem keeps_dropSection {id i x s} : Keeps firm s (dropSection id i x s) :=
  .after keeps_dropJobs (.after keeps_hmCancel (.ite keeps_returnCredit .refl))

theorem keeps_omitSection {id cause s q} : Keeps firm s (omitSection id cause s q) := .after keeps_modSect keeps_dropSection

theorem keeps_omitSections {p cause s} : Keeps firm s (omitSections p cause s) :=
  .foldl (fun _ _ => .foldl (fun _ _ => keeps_omitSection) _) _

theorem keeps_keepCrock {c s} : Keeps firm s (keepCrock c s) := keeps_update
theorem keeps_stopScan {c s} : Keeps firm s (stopScan c s) := keeps_modCore (fun _ => by split <;> rfl)
theorem keeps_preemptCore {c s} : Keeps firm s (preemptCore c s) :=
  .after keeps_stopScan (.after keeps_keepCrock keeps_omitSections)

theorem keeps_preemptEngine {c e s} : Keeps firm s (preemptEngine c e s) := by
  unfold preemptEngine
  split
  · exact .refl
  · exact .after keeps_keepCrock keeps_omitSections

theorem keeps_closeGate {c s} : Keeps firm s (closeGate c s) := .ite .refl keeps_omitSections
theorem keeps_dumpsLoseIncl {who s} : Keeps firm s (dumpsLoseIncl who s) := keeps_update

theorem keeps_raiseAccess {c s} : Keeps firm s (raiseAccess c s) := by
  unfold raiseAccess
  split
  · exact .refl
  · exact .after keeps_downPush (keeps_modCore (fun _ => rfl))

theorem keeps_queueJob {c j s} : Keeps firm s (queueJob c j s) :=
  .after (.ite keeps_raiseAccess .refl) (keeps_modCore (fun _ => rfl))

/-! ## Cuts -/

theorem keeps_modCut {id f s} : Keeps firm s (modCut id f s) := keeps_update

theorem keeps_evictEntry {s t} (h : evictEntry s = some t) : Keeps firm s t := by
  unfold evictEntry at h
  split at h
  · cases h
  · cases h
    exact keeps_modCut

theorem keeps_cutEntry {id w s} : Keeps firm s (cutEntry id w s) := by
  unfold cutEntry
  split
  · exact .refl
  · refine .ite (.after keeps_modCut keeps_modCut) (.ite (.after keeps_modCut keeps_modCut) ?_)
    split
    next h => exact .after keeps_modCut (.after (keeps_evictEntry h) keeps_modCut)
    next => exact .after keeps_modCut keeps_modCut

theorem keeps_coreEntry {id c kind state detail s} : Keeps firm s (coreEntry id c kind state detail s) := keeps_cutEntry
theorem keeps_engEntry {id c e kind state detail s} : Keeps firm s (engEntry id c e kind state detail s) := keeps_cutEntry
theorem keeps_releaseRind {s} : Keeps firm s (releaseRind s) := .ite keeps_update .refl

theorem keeps_stopFlood {op hard id t a m watchdog w4 w5 s} : Keeps firm s (stopFlood op hard id t a m watchdog w4 w5 s) :=
  keeps_originateFlood

theorem keeps_sendReport {id kind ws s} : Keeps firm s (sendReport id kind ws s) := keeps_sendFrame
theorem keeps_noteT {id s} : Keeps firm s (noteT id s) := keeps_modCut

theorem keeps_raiseCut {id s} : Keeps firm s (raiseCut id s) := by
  unfold raiseCut
  split
  · exact .refl
  · split
    · exact .after keeps_raiseEvent keeps_modCut
    · exact .after keeps_raiseEvent (.after keeps_raiseEvent keeps_modCut)

theorem keeps_concludeCut {id s} : Keeps firm s (concludeCut id s) := by
  unfold concludeCut
  split
  · exact .refl
  · exact .ite (.after keeps_sendReport keeps_modCut) (.ite keeps_raiseCut .refl)

theorem keeps_completeCut {id s} : Keeps firm s (completeCut id s) := by
  unfold completeCut
  split
  · exact .refl
  · exact .ite .refl (.after (.ite .refl keeps_concludeCut) (.after keeps_stageCut (.after keeps_noteT keeps_modCut)))

theorem keeps_concludeCuts {s} : Keeps firm s (concludeCuts s) := .foldl (fun _ _ => .ite keeps_concludeCut .refl) _

theorem keeps_endCut {id s} : Keeps firm s (endCut id s) := by
  unfold endCut
  split
  · exact .refl
  · exact .after keeps_releaseRind (keeps_tmap fun _ _ => by split <;> rfl)

theorem keeps_endIfOver {id s} : Keeps firm s (endIfOver id s) := by
  unfold endIfOver
  split
  · exact .refl
  · exact .ite keeps_endCut .refl

theorem keeps_cutProgress {id cl s} : Keeps firm s (cutProgress id cl s) := by
  unfold cutProgress
  split
  · exact .refl
  · exact .ite keeps_modCut .refl

theorem keeps_execLeafCutReport {cluster id s} : KeepsNext s (execLeafCutReport cluster id s) := by
  refine .next ?_
  split
  · exact .refl
  · exact .ite (.after (.ite (.after keeps_endIfOver keeps_completeCut) .refl) (.after keeps_noteT keeps_modCut)) .refl

theorem keeps_bareCutDone {id s} : Keeps firm s (bareCutDone id s) := by
  unfold bareCutDone
  split
  · exact .refl
  · exact .after (.ite (.after keeps_endIfOver keeps_completeCut) .refl) keeps_noteT

theorem keeps_cutsDue {s} : Keeps firm s (cutsDue s) := .ite (.foldl (fun _ _ => keeps_bareCutDone) _) .refl

theorem keeps_acceptCut {x s} : Keeps firm s (acceptCut x s) :=
  .after keeps_bareCutDone (.after (keeps_modCores (fun _ => rfl)) keeps_update)

theorem keeps_originateCut {a m hard t watchdog owner who s} : Keeps firm s (originateCut a m hard t watchdog owner who s) :=
  .after (.ite keeps_stopFlood .refl) (.after keeps_acceptCut keeps_update)

theorem keeps_execStopAtArm {via a m hard tform t watchdog s} : KeepsNext s (execStopAtArm via a m hard tform t watchdog s) :=
  .next (keeps_command (fun _ => .after keeps_respond keeps_originateCut))

theorem keeps_cancelCut {id s} : Keeps firm s (cancelCut id s) := .after keeps_endCut keeps_modCut

theorem keeps_execStopAtCancel {via id s} : KeepsNext s (execStopAtCancel via id s) := .next (keeps_command (fun _ => by
  split
  · exact keeps_respond
  · exact .after keeps_raiseCut (.after keeps_cancelCut (.after (.ite keeps_stopFlood .refl) keeps_respond))))

theorem keeps_execStopAtReport {via id first s} : KeepsNext s (execStopAtReport via id first s) :=
  .next (keeps_command (fun _ => by
    split <;> exact keeps_respond))

theorem keeps_excludeCore {id c st s} : Keeps firm s (excludeCore id c st s) :=
  .after keeps_cutProgress (.after keeps_modCut keeps_coreEntry)

theorem keeps_stopEngine {cause t c s e} : Keeps firm s (stopEngine cause t c s e) := by
  unfold stopEngine
  split
  · exact .refl
  · exact .ite (.after keeps_noteState keeps_modEng) .refl

theorem keeps_stopCore {c hard late t at_ s} : Keeps firm s (stopCore c hard late t at_ s) := by
  unfold stopCore
  split
  · exact .refl
  · dsimp only
    split
    · exact .ite (.after keeps_noteState (.after keeps_withdrawCore (keeps_modCore (fun _ => by simp))))
        (.after (.foldl (fun _ _ => keeps_stopEngine) _) (keeps_modCore (fun _ => by simp)))
    · exact .after keeps_closeGate (.after keeps_upPush (.after (keeps_modCore (fun _ => rfl))
        (.ite (.after keeps_noteState (.after keeps_withdrawCore (keeps_modCore (fun _ => by simp))))
        (.after (.foldl (fun _ _ => keeps_stopEngine) _) (keeps_modCore (fun _ => by simp))))))

theorem keeps_carried {id c st old epoch s} : Keeps firm s (carried id c st old epoch s) :=
  .foldl (fun _ _ => .ite .refl keeps_cutEntry) _

theorem keeps_steerEntries {id c st units tok dat old epoch s} : Keeps firm s (steerEntries id c st units tok dat old epoch s) :=
  .after keeps_carried (.ite .refl keeps_coreEntry)

theorem keeps_answerCore {id c co t s} : Keeps firm s (answerCore id c co t s) :=
  .after keeps_cutProgress (.after keeps_modCut (.after keeps_downPush
    (.after (keeps_modCore (fun _ => rfl)) (.after (.foldl (fun _ _ => .ite (.after keeps_noteState keeps_modEng) .refl) _)
    (.after keeps_steerEntries keeps_coreEntry)))))

theorem keeps_execLeafStopArm {core cyc id n s} : KeepsNext s (execLeafStopArm core cyc id n s) := by
  refine .next ?_
  split
  · exact .ite (.ite (.ite (.after keeps_excludeCore (keeps_modCore (fun _ => by simp))) .refl)
      (.ite .refl (.ite keeps_answerCore (.after keeps_modCut keeps_downPush)))) .refl
  · exact .refl

theorem keeps_excludeArmed {c id s} : Keeps firm s (excludeArmed c id s) := by
  unfold excludeArmed
  dsimp only
  split
  · exact keeps_modCore (fun _ => by simp)
  · exact .after (.ite keeps_excludeCore .refl) (keeps_modCore (fun _ => by simp))

theorem keeps_execShimArmReceive {core dc s} : KeepsNext s (execShimArmReceive core dc s) := by
  refine .next ?_
  refine .ite ?_ .refl
  dsimp only
  split
  · exact keeps_tapAdvance
  · split
    · exact keeps_tapAdvance
    · refine .ite keeps_tapAdvance ?_
      split
      · exact .after (.ite .refl (.ite (.ite keeps_excludeArmed keeps_stopCore) (keeps_modCore (fun _ => rfl))))
          (.after (keeps_modCore (fun _ => rfl)) keeps_tapAdvance)
      · exact .after (keeps_modCore (fun _ => by simp)) (.after (keeps_modCore (fun _ => rfl)) keeps_tapAdvance)
      · exact .after (keeps_modCore (fun _ => rfl)) (.after (keeps_modCore (fun _ => rfl)) keeps_tapAdvance)
      · exact .after (keeps_modCore (fun _ => rfl)) keeps_tapAdvance

theorem keeps_execShimHoldRaise {core dc s} : KeepsNext s (execShimHoldRaise core dc s) := by
  refine .next ?_
  refine .ite ?_ .refl
  dsimp only
  split
  · exact keeps_tapAdvance
  · split
    · exact keeps_tapAdvance
    · exact .after (.ite (keeps_modCore (fun _ => by simp)) .refl) keeps_tapAdvance

theorem keeps_execShimStopCycle {core dc cyc s} : KeepsNext s (execShimStopCycle core dc cyc s) := by
  refine .next ?_
  refine .ite ?_ .refl
  dsimp only
  split
  · exact keeps_tapAdvance
  · split
    · exact keeps_tapAdvance
    · exact .after (.ite .refl (.ite keeps_excludeArmed keeps_stopCore)) keeps_tapAdvance

theorem keeps_readStopped {c soft late tok dat old epoch stretch hard at_ s} :
    Keeps firm s (readStopped c soft late tok dat old epoch stretch hard at_ s) := by
  unfold readStopped
  split
  · exact .ite .refl (.after keeps_cutProgress (.after keeps_modCut
      (.after keeps_steerEntries (.after (.ite keeps_coreEntry .refl)
      (.after (.ite keeps_coreEntry .refl) (.foldl (fun _ _ => keeps_engEntry) _))))))
  · exact .refl

theorem keeps_readEngStopped {c e s} : Keeps firm s (readEngStopped c e s) := by
  unfold readEngStopped
  split
  · exact .refl
  · exact .ite (.after keeps_cutProgress keeps_modCut) .refl

theorem keeps_markLate {id s} : Keeps firm s (markLate id s) := keeps_modCut
theorem keeps_lateRecord {c e st x g s} : Keeps firm s (lateRecord c e st x g s) :=
  .ite (.after keeps_addEvent keeps_stateCrock) .refl

theorem keeps_lateBegin {c e held stamp s} : Keeps firm s (lateBegin c e held stamp s) := by
  unfold lateBegin
  split
  · exact .ite (.after keeps_lateRecord (.after keeps_markLate (.after keeps_modCut keeps_engEntry))) .refl
  · exact .refl

theorem keeps_lateSteering {c u held stamp s} : Keeps firm s (lateSteering c u held stamp s) := by
  unfold lateSteering
  split
  · exact .ite (.after keeps_lateRecord (.after keeps_markLate keeps_cutEntry)) .refl
  · exact .refl

theorem keeps_endedLate {c e t s} : Keeps firm s (endedLate c e t s) := by
  unfold endedLate
  split
  · exact .refl
  · exact .ite (.after keeps_closeGate (.after keeps_modEng keeps_engEntry)) .refl

theorem keeps_markIncomplete {id c e cause old s} : Keeps firm s (markIncomplete id c e cause old s) :=
  .after (.ite keeps_stageCrock .refl) (.after keeps_freezeCrock
    (.after keeps_modCut (.after keeps_noteState (.after keeps_modEng keeps_engEntry))))

theorem keeps_execStopWatchdogExpiry {id s} : KeepsNext s (execStopWatchdogExpiry id s) := by
  refine .next ?_
  split
  · exact .refl
  · exact .ite (.after (.foldl (fun _ _ => keeps_cutProgress) _)
      (.after keeps_modCut (.after (.foldl (fun _ _ => keeps_markIncomplete) _) keeps_noteT))) .refl

theorem keeps_execCutReportDeadline {id s} : KeepsNext s (execCutReportDeadline id s) := by
  refine .next ?_
  split
  · exact .refl
  · exact .ite (.after keeps_raiseCut keeps_modCut) .refl

theorem keeps_cutReported {src ws s} : Keeps firm s (cutReported src ws s) := by
  unfold cutReported
  dsimp only
  split
  · exact .refl
  · refine .ite ?_ .refl
    split
    · exact keeps_modCut
    · exact .after (.ite keeps_raiseCut .refl) keeps_modCut

theorem keeps_leaveCut {c took s} : Keeps firm s (leaveCut c took s) := by
  unfold leaveCut
  split
  · exact .refl
  · exact .ite (.after keeps_endIfOver (.after (.ite (.after keeps_cutProgress (.after keeps_modCut keeps_coreEntry))
      keeps_excludeCore) (keeps_modCore (fun _ => rfl)))) .refl

theorem keeps_enterStopped {c x st s} : Keeps firm s (enterStopped c x st s) :=
  .after keeps_modCut (.after (keeps_modCore (fun _ => by simp)) (.ite keeps_excludeCore .refl))

theorem keeps_releaseCore {cause epochToo at_ c s} : Keeps firm s (releaseCore cause epochToo at_ c s) := by
  unfold releaseCore
  split
  · exact .refl
  · exact .after keeps_closeGate (.after keeps_downPush (.after (keeps_modCore (fun _ => rfl))
      (.after (.foldl (fun _ _ => .ite (.after keeps_thawCrock (.after keeps_noteState keeps_modEng)) .refl) _)
      (.ite (.after keeps_restartBlock (.after keeps_noteState (keeps_modCore (fun _ => rfl)))) .refl))))

theorem keeps_execResume {via id a m tform r s} : KeepsNext s (execResume via id a m tform r s) :=
  .next (keeps_command (fun _ => .after (.ite keeps_stopFlood .refl) (.after keeps_modCut keeps_respond)))

theorem keeps_execResumeRelease {id s} : KeepsNext s (execResumeRelease id s) := by
  refine .next ?_
  split
  · exact .refl
  · split
    · exact .refl
    · refine .after keeps_endIfOver ?_
      split
      · exact .after keeps_raiseEvent (.after keeps_modCut (.foldl (fun _ _ => .after keeps_releaseCore keeps_modCut) _))
      · exact .after keeps_modCut (.foldl (fun _ _ => .after keeps_releaseCore keeps_modCut) _)

theorem keeps_modRind {n f s} : Keeps firm s (modRind n f s) := keeps_update
theorem keeps_countLink {n f s} : Keeps firm s (countLink n f s) := keeps_update

/-! ## Steps and resume -/

theorem keeps_modStep {id f s} : Keeps firm s (modStep id f s) := keeps_modCut

theorem keeps_stepFinish {id s} : Keeps firm s (stepFinish id s) := by
  unfold stepFinish
  split
  · exact .refl
  · split
    · exact .refl
    · exact .ite (.after keeps_raiseEvent keeps_modCut) .refl

theorem keeps_stepStop {c e s} : Keeps firm s (stepStop c e s) := by
  unfold stepStop
  split
  · exact .refl
  · exact .after (.ite keeps_noteState .refl) keeps_modEng

theorem keeps_engineOutcome {id c e kind detail no s} : Keeps firm s (engineOutcome id c e kind detail no s) :=
  .after keeps_stepFinish (.after keeps_modStep (.after keeps_engEntry keeps_stepStop))

theorem keeps_releaseEngine {cause c e s} : Keeps firm s (releaseEngine cause c e s) :=
  .after keeps_closeGate (.after (.ite (.after keeps_noteState keeps_thawCrock) .refl) keeps_modEng)

theorem keeps_stepEngineEnd {id r c e t s} : Keeps firm s (stepEngineEnd id r c e t s) :=
  .ite keeps_engineOutcome (.ite keeps_engineOutcome (.after keeps_modStep
    (.after keeps_downPush (.after keeps_modEng keeps_releaseEngine))))

theorem keeps_stepReadEnd {c e t s} : Keeps firm s (stepReadEnd c e t s) := by
  unfold stepReadEnd
  split
  · exact .refl
  · split
    · exact .refl
    · exact .ite keeps_modEng (.ite keeps_stepEngineEnd .refl)

theorem keeps_steerOutcome {id c s} : Keeps firm s (steerOutcome id c s) := by
  unfold steerOutcome
  split
  · exact .refl
  · exact .after keeps_stepFinish (.after keeps_modStep (.after (keeps_modCore (fun _ => rfl))
      (.ite keeps_coreEntry keeps_coreEntry)))

theorem keeps_stepReadFired {c s} : Keeps firm s (stepReadFired c s) := by
  unfold stepReadFired
  split
  · split
    · exact .refl
    · exact .ite keeps_steerOutcome .refl
  · exact .refl

theorem keeps_epochEntry {id s c} : Keeps firm s (epochEntry id s c) := keeps_coreEntry

theorem keeps_epochEnd {c epoch s} : Keeps firm s (epochEnd c epoch s) := by
  unfold epochEnd
  split
  · exact .refl
  · split
    · exact .after keeps_stepFinish (.after (.foldl (fun _ _ => .ite keeps_modEng keeps_engineOutcome) _)
        (.after (.foldl (fun _ _ => keeps_steerOutcome) _) (.after keeps_coreEntry keeps_modStep)))
    · exact .ite (.after (.foldl (fun _ _ => .after keeps_shimEpochHold keeps_epochEntry) _) keeps_modCut) .refl

theorem keeps_sendRelease {engs cores steer s c} : Keeps firm s (sendRelease engs cores steer s c) := keeps_downPush

theorem keeps_beginStep {via id form engs cores steer ctx rounds bound s} :
    Keeps firm s (beginStep via id form engs cores steer ctx rounds bound s) := by
  refine .after (.foldl (fun _ _ => keeps_sendRelease) _) (.after (.foldl (fun _ _ => ?_) _)
    (.after (.foldl (fun _ _ => .after keeps_modEng keeps_releaseEngine) _)
      (.after keeps_modCut (.after keeps_respond keeps_update))))
  exact keeps_modCore fun _ => rfl

theorem keeps_execStepCommand {via id a m bound s} : KeepsNext s (execStepCommand via id a m bound s) :=
  .next (keeps_command (fun _ => by
    split
    · exact keeps_respond
    · exact keeps_beginStep))

theorem keeps_execStepContext {via id a m ctx rounds bound s} : KeepsNext s (execStepContext via id a m ctx rounds bound s) :=
  .next (keeps_command (fun _ => by
    split
    · exact keeps_respond
    · exact keeps_beginStep))

theorem keeps_execStepFiring {via id a m steer withEng bound s} : KeepsNext s (execStepFiring via id a m steer withEng bound s) :=
  .next (keeps_command (fun _ => by
    split
    · exact keeps_respond
    · exact keeps_beginStep))

theorem keeps_armTimeStep {old new a m r x s} : Keeps firm s (armTimeStep old new a m r x s) :=
  .after keeps_bareCutDone (.after keeps_modCut keeps_update)

theorem keeps_execStepTime {via id a m delta s} : KeepsNext s (execStepTime via id a m delta s) :=
  .next (keeps_command (fun _ => by
    split
    · exact keeps_respond
    · exact .after (.ite keeps_stopFlood .refl) (.after keeps_armTimeStep (.after keeps_respond keeps_update))))

theorem keeps_takeOver {old new cs s} : Keeps firm s (takeOver old new cs s) :=
  .after (keeps_modCores (fun _ => by split <;> rfl)) keeps_modCut

theorem keeps_execTimeStepRelease {id s} : KeepsNext s (execTimeStepRelease id s) := by
  refine .next ?_
  split
  · exact .refl
  · split
    · exact .refl
    · exact .ite (.after keeps_endIfOver (.after keeps_modCut (.after keeps_takeOver (.foldl (fun _ _ => keeps_releaseCore) _))))
        .refl

theorem keeps_execStepBoundExpiry {id s} : KeepsNext s (execStepBoundExpiry id s) := by
  refine .next ?_
  split
  · exact .refl
  · split
    · exact .refl
    · exact .after keeps_stepFinish (.after (.ite (.foldl (fun _ _ => keeps_steerOutcome) _) .refl)
        (.foldl (fun _ _ => .ite (.after keeps_modStep keeps_markIncomplete) keeps_engineOutcome) _))

/-! ## Triggers -/

theorem keeps_modSeq {cl q f s} : Keeps firm s (modSeq cl q f s) := keeps_modTrig
theorem keeps_seqDrop {cl q s} : Keeps firm s (seqDrop cl q s) := keeps_modSeq

theorem keeps_emitMark {cl src value unit tags stamp w1 s} : Keeps firm s (emitMark cl src value unit tags stamp w1 s) := by
  refine .ite .refl ?_
  split
  · exact .after keeps_emitEng keeps_closeProg
  · exact keeps_emitCluster

theorem keeps_actEvent {cl q st value stamp s} : Keeps firm s (actEvent cl q st value stamp s) :=
  .ite keeps_seqDrop (.after keeps_raiseEvent keeps_modSeq)

theorem keeps_actStop {cl q st value hdr stamp s} : Keeps firm s (actStop cl q st value hdr stamp s) :=
  .ite keeps_seqDrop keeps_update

theorem keeps_takeActions {cl q st w p x} : Keeps firm x.1 (takeActions cl q st w p x).1 := by
  unfold takeActions
  extract_lets b hdr set value _ opened _ closed marked n _ counted evented r armed stopped
  have hopened : Keeps firm x.1 opened.1 := .ite_fst .refl .refl
  have hclosed : Keeps firm x.1 closed.1 := .ite_fst hopened hopened
  have hmarked : Keeps firm x.1 marked.1 := .ite_fst (.after keeps_emitMark hclosed) hclosed
  have hcounted : Keeps firm x.1 counted.1 :=
    .ite_fst (.ite_fst (.after keeps_modSeq hmarked) (.after keeps_modSeq hmarked)) hmarked
  have hevented : Keeps firm x.1 evented.1 := .ite_fst (.after keeps_actEvent hcounted) hcounted
  have harmed : Keeps firm x.1 armed.1 :=
    .ite_fst (.ite (.after keeps_armSkim hevented) (.after keeps_seqDrop hevented)) hevented
  have hstopped : Keeps firm x.1 stopped.1 := .ite_fst (.after keeps_actStop harmed) harmed
  exact .ite_fst (.ite_fst (.after keeps_seqDrop hstopped) (.after keeps_update hstopped)) hstopped

theorem keeps_seqPulse {cl p x q} : Keeps firm x.1 (seqPulse cl p x q).1 := by
  unfold seqPulse
  dsimp only
  split
  · exact .refl
  · split
    · exact keeps_modSeq
    · exact .after keeps_takeActions keeps_modSeq

theorem keeps_applyGates {f s} : Keeps firm s (applyGates f s) :=
  .after (.foldl (fun _ _ => keeps_setGate) _) (.foldl (fun _ _ => .ite .refl keeps_setGate) _)

theorem keeps_evalPulse {cl p s} : Keeps firm s (evalPulse cl p s).1 := by
  have hseq (p s) : Keeps firm s ([0, 1, 2, 3].foldl (seqPulse cl p) (s, ({} : Effects))).1 :=
    Keeps.foldl_on (s := (s, ({} : Effects))) Prod.fst (fun _ _ => keeps_seqPulse) _
  refine .trans (.after keeps_applyGates (hseq p s)) (Keeps.foldl_on (s := (_, _)) Prod.fst (fun x src => ?_) _)
  dsimp only
  exact .after keeps_modTrig (.after keeps_applyGates (hseq _ _))

theorem keeps_linkLost {c first last cmds progs datas s} : Keeps firm s (linkLost c first last cmds progs datas s) :=
  .after (.ite keeps_traceEmit .refl) (.after (.ite keeps_traceEmit .refl) (.ite keeps_traceEmit .refl))

theorem keeps_writeEvent {c k g s} : Keeps firm s (writeEvent c k g s) := by
  unfold writeEvent
  split
  · exact .ite (.after keeps_emitEng keeps_closeProg) .refl
  · exact .ite (.after keeps_emitEng keeps_closeProg) .refl
  · exact .ite keeps_progWord .refl
  · split
    · exact .refl
    · exact .ite (.after keeps_emitEng keeps_closeProg) .refl
  · exact .ite keeps_emitCore .refl
  · exact .ite keeps_emitCore .refl
  · exact .ite keeps_emitCore .refl
  · exact keeps_emitState
  · exact .refl

theorem keeps_switchBlock {cl b s} : Keeps firm s (switchBlock cl b s) := keeps_modTrig

theorem keeps_slotReports {cl c k g s} : Keeps firm s (slotReports cl c k g s) := by
  unfold slotReports
  split
  · exact .after (.foldl (fun _ _ => .after keeps_countPolicies keeps_leafReport) _) keeps_modTrig
  · exact .refl

theorem keeps_evalEvent {cl g ev s} : Keeps firm s (evalEvent cl g ev s) := by
  cases ev with
  | session p => exact keeps_takeSession
  | load b => exact keeps_switchBlock
  | gen unit domain rung old => exact keeps_emitGen
  | pulse ch src origin => exact .after keeps_evalPulse keeps_emitMark
  | word c k =>
    unfold evalEvent
    dsimp -zeta only
    extract_lets s' unit was srcs r
    have hr : Keeps firm s r.1 := by
      refine .trans keeps_slotReports (Keeps.foldl_on (s := (s', [])) Prod.fst (fun _ _ => ?_) _)
      exact keeps_evalPulse
    clear_value r unit
    cases unit with
    | none => exact .after keeps_writeEvent hr
    | some u => exact .ite (.after keeps_writeEvent hr) (.after keeps_modEng (.after keeps_writeEvent (.after keeps_modEng hr)))

theorem keeps_evalN {n bound cl s} : Keeps firm s (evalN n bound cl s) := by
  induction n generalizing s with
  | zero => exact .refl
  | succ n ih =>
    unfold evalN
    split
    · exact .ite (.after ih (.after keeps_evalEvent keeps_modLeaf)) .refl
    · exact .refl

theorem keeps_leafMerge {cl s} : Keeps firm s (leafMerge cl s) := .after keeps_traceFlush keeps_evalN

theorem keeps_execTriggerStopRequest {s} : KeepsNext s (execTriggerStopRequest s) := by
  refine .next ?_
  split
  · exact .refl
  · refine .ite .refl ?_
    dsimp only
    split
    · exact .after keeps_originateCut keeps_update
    · exact .after keeps_raiseEvent (.after keeps_seqDrop keeps_update)

theorem keeps_deliverChannel {ch origin s} : Keeps firm s (deliverChannel ch origin s) := keeps_update

theorem keeps_execCrossTriggerRaise {s} : KeepsNext s (execCrossTriggerRaise s) := by
  refine .next ?_
  split
  · exact .refl
  · exact .ite .refl (.after (.ite keeps_update (.after (.ite keeps_originateFlood .refl) keeps_deliverChannel)) keeps_update)

theorem keeps_execCrossTriggerDeliver {cluster cyc s} : KeepsNext s (execCrossTriggerDeliver cluster cyc s) := by
  refine .next ?_
  split
  · exact .refl
  · exact .ite .refl (.after keeps_leafMerge (.after keeps_addEvent keeps_update))

theorem keeps_execCounterCrossing {core eng dc comparator s} : KeepsNext s (execCounterCrossing core eng dc comparator s) :=
  .next (keeps_tapRow (fun _ => by
    split
    · exact .refl
    · exact .ite (.after keeps_upPush keeps_modEng) .refl))

theorem keeps_loadBlock {b cl s} : Keeps firm s (loadBlock b cl s) := by
  refine .after keeps_leafMerge (.after keeps_addEvent (.after (keeps_tmap fun c co => ?_) keeps_modTrig))
  split
  · rfl
  · refine (length_primeCrossed _ _ _).trans ?_
    split <;> rfl

theorem keeps_execTrigSetLoad {via a m dsel block s} : KeepsNext s (execTrigSetLoad via a m dsel block s) :=
  .next (keeps_command (fun _ => .after (.ite keeps_respond keeps_respond) (.foldl (fun _ _ => keeps_loadBlock) _)))

theorem keeps_execTrigSetClear {via a m s} : KeepsNext s (execTrigSetClear via a m s) :=
  .next (keeps_command (fun _ => .after keeps_respond (.foldl (fun _ _ => keeps_loadBlock) _)))

theorem keeps_execTrigSetChannel {via ch ca cm ha hm enable s} : KeepsNext s (execTrigSetChannel via ch ca cm ha hm enable s) :=
  .next (keeps_command (fun _ => .after (.ite keeps_respond keeps_respond) keeps_update))

theorem keeps_execTrigSetStatus {via a m s} : KeepsNext s (execTrigSetStatus via a m s) :=
  .next (keeps_command (fun _ => keeps_respond))

/-! ## Reset domains -/

theorem keeps_advEngineGen {rung c e s} : Keeps firm s (advEngineGen rung c e s) := .after keeps_leafOwn keeps_modEng

theorem keeps_advCoreGen {rung c s} : Keeps firm s (advCoreGen rung c s) := by
  unfold advCoreGen
  split
  · exact .refl
  · exact .after (.foldl (fun _ _ => keeps_advEngineGen) _) (.after keeps_leafOwn (keeps_modCore (fun _ => rfl)))

theorem keeps_leafGens {cls domain rung old s} : Keeps firm s (leafGens cls domain rung old s) :=
  .foldl (fun _ _ => keeps_leafOwn) _

theorem keeps_advPartGen {rung p s} : Keeps firm s (advPartGen rung p s) :=
  .after (.foldl (fun _ _ => keeps_advCoreGen) _) (.after keeps_leafGens keeps_update)

theorem keeps_advChipGen {rung s} : Keeps firm s (advChipGen rung s) :=
  .after (.foldl (fun _ _ => keeps_advPartGen) _) (.after keeps_leafGens keeps_update)

theorem keeps_leaveStep {c s} : Keeps firm s (leaveStep c s) := by
  unfold leaveStep
  split
  · exact .refl
  · exact .ite (.after keeps_stepFinish (.after keeps_modStep (keeps_modCore (fun _ => by simp)))) .refl

theorem keeps_leaveStepEngine {c e s} : Keeps firm s (leaveStepEngine c e s) := by
  unfold leaveStepEngine
  split
  · exact .refl
  · exact .after (.ite (.after keeps_cutProgress keeps_modCut) .refl)
      (.after keeps_stepFinish (.after keeps_modStep (.ite keeps_coreEntry .refl)))

theorem keeps_fenceCore {cause c s} : Keeps firm s (fenceCore cause c s) := by
  unfold fenceCore
  split
  · exact .refl
  · exact .after keeps_leaveCut (.after keeps_leaveStep (.after (.ite .refl keeps_noteState)
      (.after (keeps_modCore (fun _ => by simp)) (.after keeps_withdrawCore keeps_skimGap))))

theorem keeps_unfreeze {c s} : Keeps firm s (unfreeze c s) := by
  unfold unfreeze
  split
  · exact .refl
  · exact .ite (.after keeps_noteState (keeps_modCore (fun _ => by simp))) .refl

theorem keeps_enterResetting {fenced c s} : Keeps firm s (enterResetting fenced c s) := by
  unfold enterResetting
  split
  · exact .refl
  · exact .after keeps_leaveCut (.after keeps_leaveStep (.after keeps_noteState
      (.after (keeps_modCore (fun _ => by simp)) (.after (.foldl (fun _ _ => keeps_thawCrock) _)
      (.after keeps_withdrawCore (.after keeps_skimGap keeps_preemptCore))))))

theorem keeps_requestCoreReset {c s} : Keeps firm s (requestCoreReset c s) := keeps_modCore (fun _ => rfl)
theorem keeps_enterStale {cause c s} : Keeps firm s (enterStale cause c s) :=
  .after keeps_noteState (keeps_modCore (fun _ => by simp))
theorem keeps_scrubTaint {c s} : Keeps firm s (scrubTaint c s) := keeps_modCore (fun _ => rfl)
theorem keeps_readmit {c s} : Keeps firm s (readmit c s) := .after keeps_restartBlock (keeps_modCore (fun _ => rfl))

theorem keeps_leaveResetting {c s} : Keeps firm s (leaveResetting c s) := by
  unfold leaveResetting
  split
  · exact .refl
  · refine .ite .refl ?_
    refine .ite (.after keeps_enterStale keeps_scrubTaint) ?_
    dsimp only
    split
    · exact .after keeps_readmit (.after keeps_enterStopped
        (.after keeps_noteState (.after (keeps_modCore (fun _ => by simp)) keeps_scrubTaint)))
    · exact .after keeps_readmit (.after (keeps_modCore (fun _ => lowerHolds_engs_length _))
        (.after keeps_noteState (.after (keeps_modCore (fun _ => by simp)) keeps_scrubTaint)))

theorem keeps_enterEngineReset {c e s} : Keeps firm s (enterEngineReset c e s) := by
  unfold enterEngineReset
  split
  · exact .refl
  · exact .after keeps_closeGate (.after keeps_leaveStepEngine
      (.after keeps_noteState (.after keeps_modEng (.after keeps_thawCrock
      (.after keeps_withdrawEdge (.after keeps_skimGap keeps_preemptEngine))))))

theorem keeps_leaveEngineReset {c e s} : Keeps firm s (leaveEngineReset c e s) := by
  unfold leaveEngineReset
  extract_lets now cut reset last back held noted
  have hnoted : Keeps firm s noted :=
    .after keeps_noteState (.after (.ite keeps_modEng (keeps_modCore fun co => length_modEngC _ _ co)) keeps_modEng)
  clear_value cut noted
  cases cut with
  | none => exact hnoted
  | some x =>
    exact .after (.after keeps_closeGate (.after (.ite keeps_readEngStopped .refl)
      (.after (.ite keeps_enterStopped .refl) (.ite keeps_noteState .refl)))) hnoted

end Sys2Proof.Machine
end


section
/-! # Recovery, self test, dumps and hangs keep queue, memories and cores -/
namespace Sys2Proof.Machine

variable {firm : Bool}

/-! ## Self test -/

theorem keeps_modRun {id f s} : Keeps firm s (modRun id f s) := keeps_update

theorem keeps_testComplete {id s} : Keeps firm s (testComplete id s) := by
  unfold testComplete
  split
  · exact .refl
  · exact .ite (.after keeps_raiseEvent keeps_modRun) .refl

theorem keeps_testResult {c id outcome gen noreset fenced sig start end_ s} :
    Keeps firm s (testResult c id outcome gen noreset fenced sig start end_ s) :=
  .after keeps_raiseEvent keeps_modRun

theorem keeps_dropJob {j s} : Keeps firm s (dropJob j s) := keeps_update

theorem keeps_endJob {j outcome gen noreset fenced sig start s} :
    Keeps firm s (endJob j outcome gen noreset fenced sig start s) :=
  .after (.ite keeps_update (.after keeps_testComplete keeps_testResult)) keeps_dropJob

theorem keeps_leaveScan {clk c s} : Keeps firm s (leaveScan clk c s) := keeps_modCore (fun _ => rfl)

theorem keeps_abortTest {fenced c s} : Keeps firm s (abortTest fenced c s) := by
  unfold abortTest
  split
  · exact .refl
  · exact .after keeps_endJob keeps_leaveScan

theorem keeps_execTestLend {via a m s} : KeepsNext s (execTestLend via a m s) :=
  .next (keeps_command (fun _ => .after (.ite keeps_respond (.ite keeps_respond keeps_respond)) (keeps_modCores (fun _ => rfl))))

theorem keeps_execTestReclaim {via a m s} : KeepsNext s (execTestReclaim via a m s) :=
  .next (keeps_command (fun _ => .after (.ite keeps_respond keeps_respond) (keeps_modCores (fun _ => rfl))))

theorem keeps_execTestSlotConfig {via maxChip maxCluster s} : KeepsNext s (execTestSlotConfig via maxChip maxCluster s) :=
  .next (keeps_command (fun _ => .after keeps_respond keeps_update))

theorem keeps_execTestRequest {via p s} : KeepsNext s (execTestRequest via p s) :=
  .next (keeps_command (fun _ => .after keeps_testComplete (.after (.foldl (fun _ _ => by
    split
    · exact .refl
    · exact keeps_testResult) _) (.after keeps_respond keeps_update))))

theorem keeps_execTestCancel {via id s} : KeepsNext s (execTestCancel via id s) :=
  .next (keeps_command (fun _ => .after (.foldl (fun _ _ => by
    split
    · exact keeps_endJob
    · exact .ite (.after keeps_endJob keeps_leaveScan) (.after keeps_requestCoreReset
        (.after keeps_enterResetting (.after keeps_leaveScan keeps_update)))
    · exact .refl) _) keeps_respond))

theorem keeps_execTestStatus {via id s} : KeepsNext s (execTestStatus via id s) := .next (keeps_command (fun _ => keeps_respond))

theorem keeps_openSlot {s j} : Keeps firm s (openSlot s j) :=
  .ite (.after keeps_update (.after (keeps_modCore (fun _ => by simp [scanPins_engs])) (.ite keeps_fenceCore .refl))) .refl

theorem keeps_execTestSchedulerPass {s} : KeepsNext s (execTestSchedulerPass s) :=
  .next (.ite (.foldl (fun _ _ => keeps_openSlot) _) .refl)

theorem keeps_execTestDeadlineExpiry {s} : KeepsNext s (execTestDeadlineExpiry s) :=
  .next (.ite (.foldl (fun _ _ => keeps_endJob) _) .refl)

theorem keeps_execTestSequenceEnd {core responses s} : KeepsNext s (execTestSequenceEnd core responses s) := by
  refine .next ?_
  split
  · split
    · exact .ite (.after (.ite keeps_endJob (.after keeps_requestCoreReset (.after keeps_enterResetting keeps_update)))
        keeps_leaveScan) .refl
    · exact .refl
  · exact .refl

theorem keeps_closeTest {c s} : Keeps firm s (closeTest c s) := by
  unfold closeTest
  split
  · exact .refl
  · split
    · exact .after keeps_endJob (.ite keeps_fenceCore .refl)
    · exact .refl

theorem keeps_reportHeld {s} : Keeps firm s (reportHeld s) :=
  .after (.foldl (fun _ _ => keeps_testComplete) _) (.after (.foldl (fun _ _ => keeps_testResult) _) keeps_update)

/-! ## Recovery -/

theorem keeps_modRung {id f s} : Keeps firm s (modRung id f s) := keeps_update

theorem keeps_rungSettle {id s} : Keeps firm s (rungSettle id s) := by
  unfold rungSettle
  split
  · exact .refl
  · exact .after (.ite keeps_update .refl) (.ite (.after keeps_raiseEvent (.after keeps_stageRung keeps_modRung)) .refl)

theorem keeps_finishUnit {id u s} : Keeps firm s (finishUnit id u s) := .after keeps_rungSettle keeps_modRung
theorem keeps_supersede {id p s} : Keeps firm s (supersede id p s) := .foldl (fun _ _ => .after keeps_rungSettle keeps_modRung) _
theorem keeps_addUnit {id u inside s} : Keeps firm s (addUnit id u inside s) := keeps_modRung

theorem keeps_answerFence {via refused noack named s} : Keeps firm s (answerFence via refused noack named s) :=
  .ite keeps_respond (.ite keeps_respond keeps_respond)

theorem keeps_fenceSettled {c noack s} : Keeps firm s (fenceSettled c noack s) :=
  .after (.foldl (fun _ _ => keeps_answerFence) _) keeps_update

theorem keeps_pumpAborts {c s} : Keeps firm s (pumpAborts c s) := by
  unfold pumpAborts
  split
  · exact .refl
  · split
    · exact .refl
    · exact .ite .refl (keeps_modCore (fun _ => by simp))

theorem keeps_askAbort {c ctx rung s} : Keeps firm s (askAbort c ctx rung s) :=
  .after keeps_pumpAborts (keeps_modCore (fun _ => rfl))
theorem keeps_abortContext {ctx s} : Keeps firm s (abortContext ctx s) := .foldl (fun _ _ => keeps_askAbort) _
theorem keeps_applyRung1 {id c s} : Keeps firm s (applyRung1 id c s) := .after keeps_askAbort keeps_addUnit
theorem keeps_forgetAbort {c id s} : Keeps firm s (forgetAbort c id s) := keeps_modCore (fun _ => rfl)
theorem keeps_applyRung2 {id origs c e s} : Keeps firm s (applyRung2 id origs c e s) :=
  .after keeps_enterEngineReset keeps_addUnit

theorem keeps_rung3Reset {id u s} : Keeps firm s (rung3Reset id u s) :=
  .after (.ite (.after keeps_finishUnit (.after (keeps_modCore (fun _ => rfl))
    (.after keeps_enterStale (.after keeps_scrubTaint (.after keeps_advCoreGen keeps_enterResetting)))))
    (.after keeps_requestCoreReset (.after keeps_enterResetting keeps_modRung))) (.after keeps_fenceSettled keeps_abortTest)

theorem keeps_engineResetsEnd {c s} : Keeps firm s (engineResetsEnd c s) := by
  unfold engineResetsEnd
  split
  · exact .refl
  · exact .foldl (fun _ _ => .ite (.after keeps_noteState keeps_modEng) .refl) _

theorem keeps_applyRung3 {id origs c s} : Keeps firm s (applyRung3 id origs c s) := by
  unfold applyRung3
  split
  · exact .refl
  · exact .after (.ite keeps_rung3Reset (.after (.ite keeps_rung3Reset .refl)
      (.after keeps_fenceCore (.after keeps_engineResetsEnd keeps_unfreeze)))) (.after keeps_supersede keeps_addUnit)

theorem keeps_domainCore {s c} : Keeps firm s (domainCore s c) := by
  unfold domainCore
  dsimp only
  split
  · exact .after keeps_fenceSettled (.after keeps_abortTest keeps_preemptCore)
  · split
    · exact .after keeps_fenceSettled (.after keeps_abortTest keeps_preemptCore)
    · exact .after keeps_requestCoreReset (.after keeps_enterResetting
        (.after keeps_fenceSettled (.after keeps_abortTest keeps_preemptCore)))
    · exact .after keeps_requestCoreReset (.after keeps_enterResetting
        (.after keeps_fenceCore (.after keeps_fenceSettled (.after keeps_abortTest keeps_preemptCore))))
    · exact .after keeps_fenceSettled (.after keeps_abortTest keeps_preemptCore)
    · exact .after keeps_enterResetting (.after keeps_unfreeze
        (.after keeps_fenceSettled (.after keeps_abortTest keeps_preemptCore)))

theorem keeps_applyRung4 {id origs p s} : Keeps firm s (applyRung4 id origs p s) :=
  .after (.ite .refl keeps_update) (.after (.foldl (fun _ _ => keeps_domainCore) _) (.after keeps_supersede keeps_addUnit))

theorem keeps_closeRind {s} : Keeps firm s (closeRind s) := keeps_update

theorem keeps_applyRung5 {id origs s} : Keeps firm s (applyRung5 id origs s) :=
  .after (.ite .refl keeps_update) (.after (.foldl (fun _ _ => keeps_domainCore) _)
    (.after keeps_closeRind (.after keeps_supersede keeps_addUnit)))

theorem keeps_dropUnit {id u s} : Keeps firm s (dropUnit id u s) := keeps_modRung

theorem keeps_escalateUnit {r u s t} (h : escalateUnit r u s = some t) : Keeps firm s t := by
  unfold escalateUnit at h
  split at h
  · split at h
    · cases h
    · obtain ⟨_, h⟩ := Option.ite_none_right_eq_some.mp h
      cases h
      exact .after (.foldl (fun _ _ => keeps_applyRung2) _) keeps_dropUnit
  · obtain ⟨_, h⟩ := Option.ite_none_right_eq_some.mp h
    cases h
    exact .after keeps_applyRung3 keeps_dropUnit
  · obtain ⟨_, h⟩ := Option.ite_none_right_eq_some.mp h
    cases h
    exact .after keeps_applyRung4 keeps_dropUnit
  · obtain ⟨_, h⟩ := Option.ite_none_right_eq_some.mp h
    cases h
    exact .after keeps_applyRung5 keeps_dropUnit
  · cases h

theorem keeps_unitTimeout {id s u} : Keeps firm s (unitTimeout id s u) := by
  unfold unitTimeout
  split
  · exact .refl
  · refine .ite ?_ .refl
    extract_lets s'
    have hs' : Keeps firm s s' := .ite keeps_forgetAbort .refl
    split
    next h => exact .after (keeps_escalateUnit h) hs'
    next => exact .after keeps_modRung hs'

theorem keeps_execRungTimeout {id s} : KeepsNext s (execRungTimeout id s) := by
  refine .next ?_
  split
  · exact .refl
  · exact .ite (.after keeps_rungSettle (.foldl (fun _ _ => keeps_unitTimeout) _)) .refl

theorem keeps_applyRung {via rung p act s} (hact : ∀ y0 s, Keeps firm s (act y0 s)) : Keeps firm s (applyRung via rung p act s) :=
  .after keeps_rungSettle (.after (hact _ _) (.after (.ite .refl (keeps_modCores (fun _ => rfl)))
    (.after keeps_respond keeps_update)))

theorem keeps_execContextAbort {via p s} : KeepsNext s (execContextAbort via p s) :=
  .next (keeps_command (fun _ => keeps_applyRung (fun _ _ => .foldl (fun _ _ => .ite keeps_applyRung1 keeps_modRung) _)))

theorem keeps_execEngineReset {via p s} : KeepsNext s (execEngineReset via p s) :=
  .next (keeps_command (fun _ => keeps_applyRung (fun _ _ => .foldl (fun _ _ => keeps_applyRung2) _)))

theorem keeps_execCoreFenceAndReset {via p s} : KeepsNext s (execCoreFenceAndReset via p s) :=
  .next (keeps_command (fun _ => keeps_applyRung (fun _ _ => .foldl (fun _ _ => keeps_applyRung3) _)))

theorem keeps_execPartitionReset {via p s} : KeepsNext s (execPartitionReset via p s) :=
  .next (keeps_command (fun _ => keeps_applyRung (fun _ _ => .foldl (fun _ _ => keeps_applyRung4) _)))

theorem keeps_execChipComputeReset {via p s} : KeepsNext s (execChipComputeReset via p s) :=
  .next (keeps_command (fun _ => keeps_applyRung (fun _ _ => keeps_applyRung5)))

theorem keeps_execTrayPowerCycle {via p s} : KeepsNext s (execTrayPowerCycle via p s) :=
  .next (keeps_command (fun _ => .after keeps_update (keeps_applyRung (fun _ _ => .after keeps_addUnit keeps_modRung))))

theorem keeps_trayDone {id code extra s} : Keeps firm s (trayDone id code extra s) := by
  unfold trayDone
  extract_lets reason s'
  split
  · exact keeps_update
  · exact .after keeps_raiseEvent (.after keeps_update (.after keeps_stageRung keeps_update))

theorem keeps_execTrayStatusPoll {status pecOk s} : KeepsNext s (execTrayStatusPoll status pecOk s) := by
  refine .next ?_
  split
  · exact .refl
  · exact .ite (.ite keeps_trayDone (.ite keeps_trayDone .refl)) .refl

theorem keeps_execTrayTimeout {s} : KeepsNext s (execTrayTimeout s) := by
  refine .next ?_
  split
  · exact .ite keeps_trayDone .refl
  · exact .refl

theorem keeps_execReopen {via gen links s} : KeepsNext s (execReopen via gen links s) :=
  .next (keeps_command (fun _ => .after keeps_respond keeps_update))

theorem keeps_execRindLinksOpen {s} : KeepsNext s (execRindLinksOpen s) := .next keeps_update

theorem keeps_execResetRungStatus {via s} : KeepsNext s (execResetRungStatus via s) :=
  .next (keeps_command (fun _ => keeps_respond))

theorem keeps_execRindPacket {link tagged tag reply echo dpart g s} :
    KeepsNext s (execRindPacket link tagged tag reply echo dpart g s) :=
  .next (.ite (.after keeps_countLink keeps_modRind) .refl)

theorem keeps_execRindTxDrop {link s} : KeepsNext s (execRindTxDrop link s) := .next (.ite keeps_modRind .refl)

theorem keeps_execFence {via a m s} : KeepsNext s (execFence via a m s) :=
  .next (keeps_command (fun _ => .after (.ite keeps_answerFence keeps_update) (.foldl (fun _ _ => keeps_fenceCore) _)))

theorem keeps_unfenceCore {s c} : Keeps firm s (unfenceCore s c) := by
  unfold unfenceCore
  split
  · exact .refl
  · exact .ite (.after keeps_closeGate (.after keeps_readmit
      (.after (keeps_modCore (fun _ => lowerHolds_engs_length _)) (.after keeps_noteState (keeps_modCore (fun _ => by simp))))))
      .refl

theorem keeps_execUnfence {via a m s} : KeepsNext s (execUnfence via a m s) :=
  .next (keeps_command (fun _ => .after (.ite keeps_respond (.ite keeps_respond keeps_respond))
    (.after (.foldl (fun _ _ => keeps_unfenceCore) _) keeps_update)))

theorem keeps_execFenceAck {core dc s} : KeepsNext s (execFenceAck core dc s) := .next (keeps_tapRow (fun _ => by
  dsimp only
  split
  · exact .refl
  · refine .ite ?_ .refl
    split
    · exact .after keeps_rungSettle (.after keeps_rung3Reset (.after keeps_fenceSettled (keeps_modCore (fun _ => rfl))))
    · exact .after keeps_fenceSettled (keeps_modCore (fun _ => rfl))))

theorem keeps_execFenceAckTimeout {core s} : KeepsNext s (execFenceAckTimeout core s) := by
  unfold execFenceAckTimeout
  extract_lets c now late waits settled
  have hsettled : Keeps false s settled := .after keeps_fenceSettled (keeps_modCore fun _ => rfl)
  refine .next (.ite ?_ .refl)
  split
  · exact hsettled
  next id u hu =>
    extract_lets noted
    have hnoted : Keeps false s noted := .after keeps_modRung hsettled
    split
    · exact hnoted
    · split
      next h => exact .after keeps_rungSettle (.after (keeps_escalateUnit h) hnoted)
      next => exact .after (.ite (.after keeps_rungSettle keeps_modRung) (.after keeps_rungSettle keeps_rung3Reset)) hnoted

theorem keeps_execAbortAck {core dc s} : KeepsNext s (execAbortAck core dc s) := .next (keeps_tapRow (fun _ => by
  split
  · exact .refl
  · refine .ite ?_ .refl
    refine .after keeps_pumpAborts ?_
    split
    · split
      · exact .after keeps_finishUnit (keeps_modCore (fun _ => by simp))
      · exact keeps_modCore (fun _ => by simp)
    · exact keeps_modCore (fun _ => by simp)))

theorem keeps_assertEngine {c s e} : Keeps firm s (assertEngine c s e) :=
  .after keeps_modEng (.after (.ite .refl keeps_upPush) keeps_endCommand)

theorem keeps_execEngineResetAssert {core eng dc s} : KeepsNext s (execEngineResetAssert core eng dc s) :=
  .next (.ite (keeps_tapRow (fun _ => keeps_assertEngine)) .refl)

theorem keeps_execEngineResetRelease {core eng dc s} : KeepsNext s (execEngineResetRelease core eng dc s) := by
  refine .next ?_
  dsimp only
  split
  · exact .refl
  · exact .ite (keeps_tapRow (fun _ => by
  split
  · exact .after keeps_finishUnit (.after keeps_leaveEngineReset (.after keeps_advEngineGen keeps_modEng))
  · exact keeps_modEng)) .refl

theorem keeps_execCoreResetAssert {core dc s} : KeepsNext s (execCoreResetAssert core dc s) := by
  refine .next ?_
  split
  · exact .refl
  · exact .ite (keeps_tapRow (fun _ => .after (keeps_modCore (fun _ => rfl)) (.foldl (fun _ _ => keeps_assertEngine) _))) .refl

theorem keeps_reset3Ends {c s} : Keeps firm s (reset3Ends c s) :=
  .after keeps_enterStale (.after keeps_scrubTaint keeps_advCoreGen)

theorem keeps_execCoreResetRelease {core dc s} : KeepsNext s (execCoreResetRelease core dc s) := by
  refine .next ?_
  dsimp only
  split
  · exact .refl
  · exact .ite (keeps_tapRow (fun _ => by
  split
  · exact .after keeps_finishUnit (.after keeps_reset3Ends (keeps_modCore (fun _ => by simp)))
  · exact .after (.ite (.after keeps_closeTest keeps_reset3Ends) .refl) (keeps_modCore (fun _ => by simp)))) .refl

theorem keeps_domainLeaves {s c} : Keeps firm s (domainLeaves s c) :=
  .after (keeps_modCore (fun _ => by split <;> rfl)) keeps_leaveResetting

theorem keeps_execPartitionResetDone {part s} : KeepsNext s (execPartitionResetDone part s) := by
  refine .next ?_
  refine .ite ?_ .refl
  dsimp only
  split
  · exact .after keeps_finishUnit (.after (.foldl (fun _ _ => keeps_domainLeaves) _) (.after keeps_advPartGen keeps_update))
  · exact keeps_update

theorem keeps_execChipResetDone {s} : KeepsNext s (execChipResetDone s) := by
  refine .next ?_
  refine .ite ?_ .refl
  dsimp only
  split
  · exact .after keeps_finishUnit (.after (.foldl (fun _ _ => keeps_domainLeaves) _) (.after keeps_advChipGen keeps_update))
  · exact keeps_update

theorem keeps_execResetDoneLower {part s} : KeepsNext s (execResetDoneLower part s) := by
  refine .next ?_
  split <;> exact .ite keeps_update .refl

/-! ## Dump images -/

theorem keeps_modReport {id f s} : Keeps firm s (modReport id f s) := keeps_update

theorem keeps_takeAbort {id s} : Keeps firm s (takeAbort id s) := by
  unfold takeAbort
  split
  · exact .refl
  · split
    · exact .refl
    · exact .after keeps_abortContext (.after keeps_modReport keeps_update)

theorem keeps_modRegion {r f s} : Keeps firm s (modRegion r f s) := keeps_update
theorem keeps_writeControl {r s} : Keeps firm s (writeControl r s) := keeps_hmAsk
theorem keeps_publishRegion {r s} : Keeps firm s (publishRegion r s) := .after (.ite .refl keeps_writeControl) keeps_modRegion

/-! ## Dumps -/

theorem keeps_sendStream {id i header last chip s f} : Keeps firm s (sendStream id i header last chip s f) := by
  unfold sendStream
  split
  · exact .refl
  · exact .after keeps_sendFrame (.after keeps_openTrack keeps_modDump)

theorem keeps_sendImage {id i header off bs s} : Keeps firm s (sendImage id i header off bs s) := by
  unfold sendImage
  split
  · exact .refl
  · dsimp only
    split
    · exact .after (.foldl (fun _ _ => keeps_sendStream) _) keeps_modSect
    · exact .after (.foldl (fun _ _ => keeps_hmAsk) _) keeps_modSect

theorem keeps_sendChunk {id i s} : Keeps firm s (sendChunk id i s) := by
  unfold sendChunk
  split
  · exact .refl
  · exact .after keeps_sendImage keeps_modSect

theorem keeps_writeHeaderOf {id i s} : Keeps firm s (writeHeaderOf id i s) := by
  unfold writeHeaderOf
  split
  · exact .refl
  · exact .after keeps_sendImage (.after keeps_modSect keeps_hubCheck)

theorem keeps_churnHeard {chip churn code s} : Keeps firm s (churnHeard chip churn code s) := by
  unfold churnHeard
  split
  · exact .refl
  · exact .ite (.ite (.after keeps_raiseEvent keeps_update) keeps_update) .refl

theorem keeps_churnReport {churn id code localOnly omitted s} : Keeps firm s (churnReport churn id code localOnly omitted s) :=
  .ite keeps_churnHeard keeps_sendReport

theorem keeps_endDump {id st code s} : Keeps firm s (endDump id st code s) := by
  unfold endDump
  dsimp only
  split
  · exact keeps_modDump
  · refine .ite ?_ (.after (.ite .refl keeps_churnReport) (.after (.ite .refl keeps_raiseEvent)
      (.after keeps_update (.after keeps_publishRegion keeps_modDump))))
    split
    · exact .after keeps_takeAbort (.after (.ite .refl keeps_churnReport)
        (.after (.ite .refl keeps_raiseEvent) (.after keeps_update (.after keeps_publishRegion keeps_modDump))))
    · exact .after (.ite .refl keeps_churnReport) (.after (.ite .refl keeps_raiseEvent)
        (.after keeps_update (.after keeps_publishRegion keeps_modDump)))

theorem keeps_beginHubSection {id i s} : Keeps firm s (beginHubSection id i s) := by
  unfold beginHubSection
  split
  · exact .refl
  · exact .ite (.after keeps_writeHeaderOf keeps_modSect) (.after (.ite keeps_writeHeaderOf keeps_sendChunk) keeps_modSect)

theorem keeps_pumpSection {id s q} : Keeps firm s (pumpSection id s q) := by
  unfold pumpSection
  split
  · exact keeps_writeHeaderOf
  · exact .ite keeps_beginHubSection .refl
  · exact .refl

theorem keeps_pumpDump {id s} : Keeps firm s (pumpDump id s) := by
  unfold pumpDump
  split
  · exact .refl
  · refine .ite .refl ?_
    refine .ite ?_ (.foldl (fun _ _ => keeps_pumpSection) _)
    split <;> exact keeps_endDump

theorem keeps_pumpDumps {s} : Keeps firm s (pumpDumps s) := .foldl (fun _ _ => keeps_pumpDump) _
theorem keeps_endEarly {id cause s} : Keeps firm s (endEarly id cause s) := keeps_modDump

theorem keeps_chunkDone {id i s} : Keeps firm s (chunkDone id i s) := by
  unfold chunkDone
  split
  · exact .refl
  · refine .ite (.after keeps_writeHeaderOf (.after keeps_modSect (.ite .refl keeps_returnCredit))) ?_
    split
    · exact .after keeps_pumpDump (.after keeps_modSect (.after keeps_modSect (.ite .refl keeps_returnCredit)))
    · exact .after (.ite keeps_sendChunk (.ite keeps_modSect keeps_modSect))
        (.after keeps_modSect (.ite .refl keeps_returnCredit))

theorem keeps_headerDone {id i s} : Keeps firm s (headerDone id i s) := by
  unfold headerDone
  split
  · exact .refl
  · exact .after keeps_pumpDump (.after (.ite (.foldl (fun _ _ => keeps_thawCrock) _) .refl) keeps_modSect)

theorem keeps_sectAnswered {id i header s} : Keeps firm s (sectAnswered id i header s) := by
  unfold sectAnswered
  split
  · exact .refl
  · exact .ite .refl (.after (.ite (.ite keeps_headerDone keeps_chunkDone) .refl) keeps_modSect)

theorem keeps_dumpWritten {r s} : Keeps firm s (dumpWritten r s) := by
  unfold dumpWritten
  split
  · exact .after keeps_sectAnswered keeps_modDump
  · exact .after keeps_sectAnswered keeps_modDump
  · exact .refl

theorem keeps_dropHands {id s} : Keeps firm s (dropHands id s) := by
  unfold dropHands
  split
  · exact .refl
  · exact .after keeps_hmCancel (.after keeps_modDump (.foldl (fun _ _ => keeps_returnCredit) _))

theorem keeps_dumpFaulted {r code s} : Keeps firm s (dumpFaulted r code s) := by
  unfold dumpFaulted
  split
  · exact .after (.ite .refl keeps_raiseEvent) (.after keeps_modDump keeps_dropHands)
  · exact .after (.ite .refl keeps_raiseEvent) (.after keeps_modDump keeps_dropHands)
  · exact .refl

theorem keeps_streamFailed {id s} : Keeps firm s (streamFailed id s) := by
  unfold streamFailed
  split
  · exact .refl
  · exact .ite .refl (.after keeps_pumpDump (.after keeps_update
      (.after keeps_modDump (.foldl (fun _ _ => keeps_returnCredit) _))))

theorem keeps_readChunk {d i x co s} : Keeps firm s (readChunk d i x co s) :=
  .ite (.after keeps_sendChunk keeps_modSect) (.ite (.after keeps_writeHeaderOf (.after keeps_returnCredit keeps_modSect))
    (.after (.ite (.after keeps_downPush (keeps_modCore (fun _ => rfl))) keeps_queueJob) keeps_modSect))

theorem keeps_execDumpCreditGrant {part s} : KeepsNext s (execDumpCreditGrant part s) := by
  refine .next ?_
  refine .ite ?_ .refl
  dsimp only
  split
  · exact keeps_pumpDumps
  · split
    · split
      · exact .after keeps_pumpDump (.after keeps_omitSection keeps_pumpDumps)
      · exact .after (.ite .refl (.after keeps_readChunk keeps_update)) keeps_pumpDumps
    · exact keeps_pumpDumps

theorem keeps_chunkRead {id i j s} : Keeps firm s (chunkRead id i j s) := by
  unfold chunkRead
  split
  · exact .refl
  · exact .ite (.after keeps_sendChunk keeps_modSect) .refl

theorem keeps_markFirst {c j s} : Keeps firm s (markFirst c j s) := by
  unfold markFirst
  split
  · split
    · exact .ite keeps_modSect .refl
    · exact .refl
  · exact .refl

theorem keeps_execScanPassComplete {core chunk s} : KeepsNext s (execScanPassComplete core chunk s) := by
  refine .next ?_
  split
  · exact .refl
  · exact .ite .refl (.after keeps_upPush (keeps_modCore (fun _ => rfl)))

theorem keeps_scanRead {c chunk s} : Keeps firm s (scanRead c chunk s) := by
  unfold scanRead
  split
  · exact .refl
  · dsimp only
    split
    · exact keeps_modCore (fun _ => rfl)
    · exact .after (.ite (.after keeps_sendChunk keeps_modSect) .refl) (keeps_modCore (fun _ => rfl))

theorem keeps_execDumpSetup {via region base size declBw share s} :
    KeepsNext s (execDumpSetup via region base size declBw share s) :=
  .next (keeps_command (fun _ => .after keeps_respond (.after (.ite (.after keeps_writeControl keeps_modRegion) .refl)
    keeps_update)))

theorem keeps_startDumpOn {cs p origin owner who churn stream hang read s} :
    Keeps firm s (startDumpOn cs p origin owner who churn stream hang read s).2 :=
  .after keeps_pumpDump (.after keeps_modRegion (.after keeps_update keeps_readMetered))

theorem keeps_startDump {p origin owner who churn stream hang read s} :
    Keeps firm s (startDump p origin owner who churn stream hang read s).2 := keeps_startDumpOn

theorem keeps_hostStart {via cmd i p read s} : Keeps firm s (hostStart via cmd i p read s) :=
  keeps_command (fun _ => .after keeps_startDump keeps_respond)

theorem keeps_execDumpStart {via p read s} : KeepsNext s (execDumpStart via p read s) := .next keeps_hostStart
theorem keeps_execScanOut {via p read s} : KeepsNext s (execScanOut via p read s) := .next keeps_hostStart

theorem keeps_hubDump {cs hang read s} : Keeps firm s (hubDump cs hang read s).2 := by
  unfold hubDump
  dsimp only
  split
  · exact .after keeps_raiseEvent (.ite keeps_modRegion (.after keeps_writeControl keeps_modRegion))
  · exact keeps_startDumpOn

theorem keeps_abandonDump {id s} : Keeps firm s (abandonDump id s) := .after keeps_endDump keeps_modDump

theorem keeps_execDumpCancel {via id s} : KeepsNext s (execDumpCancel via id s) := .next (keeps_command (fun _ => by
  dsimp only
  split
  · exact keeps_respond
  · exact .after (.ite keeps_abandonDump (.after keeps_pumpDump keeps_endEarly)) keeps_respond))

theorem keeps_execDumpStatus {via id s} : KeepsNext s (execDumpStatus via id s) := .next (keeps_command (fun _ => by
  split <;> exact keeps_respond))

theorem keeps_execFaultRetry {via target index abandon s} : KeepsNext s (execFaultRetry via target index abandon s) :=
  .next (keeps_command (fun _ => by
    split
    · exact .after (.ite keeps_abandonDump (.after keeps_pumpDump keeps_modDump)) keeps_respond
    · exact .after keeps_pailRetry keeps_respond
    · exact .after keeps_traceRetry keeps_respond))

theorem keeps_churnDump {cut churn content region stream tag owner who read s} :
    Keeps firm s (churnDump cut churn content region stream tag owner who read s) := by
  unfold churnDump
  split
  · exact keeps_churnReport
  · exact .ite keeps_churnReport (.ite keeps_churnReport (.ite keeps_churnReport
      (.after (.ite keeps_modDump .refl) keeps_startDump)))

theorem keeps_execChurn {via cutId content region stream tag deadline read s} :
    KeepsNext s (execChurn via cutId content region stream tag deadline read s) :=
  .next (keeps_command (fun _ => by
    split
    · exact keeps_respond
    · exact .after (.ite keeps_churnDump .refl) (.after keeps_stopFlood (.after keeps_respond keeps_update))))

theorem keeps_execChurnDeadline {churnId s} : KeepsNext s (execChurnDeadline churnId s) := by
  refine .next ?_
  split
  · exact .refl
  · exact .ite (.after keeps_raiseEvent keeps_update) .refl

/-! ## State access -/

theorem keeps_answerAccess {via j s} : Keeps firm s (answerAccess via j s) :=
  .ite keeps_respond (.ite keeps_respond (.ite keeps_respond keeps_respond))

theorem keeps_jobEnds {c j s} : Keeps firm s (jobEnds c j s) := by
  unfold jobEnds
  split
  · exact keeps_chunkRead
  · exact .refl
  · exact .ite keeps_respond keeps_answerAccess

theorem keeps_accessGo {n c s} : Keeps firm s (accessGo n c s) := by
  induction n generalizing s with
  | zero => exact .refl
  | succ n ih =>
    unfold accessGo
    split
    · exact .refl
    · exact .ite .refl (.ite (.after ih (.after keeps_jobEnds (keeps_modCore fun _ => rfl))) keeps_raiseAccess)

theorem keeps_wordDone {c w code s} : Keeps firm s (wordDone c w code s) := .after keeps_accessGo (keeps_modCore (fun _ => rfl))
theorem keeps_dropReply {c s} : Keeps firm s (dropReply c s) := .ite keeps_update .refl

theorem keeps_replyRead {c w code s} : Keeps firm s (replyRead c w code s) := by
  unfold replyRead
  split
  · exact keeps_modCore (fun _ => rfl)
  · exact .after keeps_wordDone (.after keeps_dropReply keeps_markFirst)

theorem keeps_accessEnds {c w code timedOut gap co s} : Keeps firm s (accessEnds c w code timedOut gap co s) :=
  .after keeps_upPush (keeps_modCore (fun _ => rfl))

theorem keeps_execStateAccessAck {core dc rdata err s} : KeepsNext s (execStateAccessAck core dc rdata err s) :=
  .next (keeps_tapRow (fun _ => by
    split
    · exact .refl
    · exact .ite keeps_violate (.ite (.after keeps_violate keeps_accessEnds) keeps_accessEnds)))

theorem keeps_execStateAccessTimeout {core dc s} : KeepsNext s (execStateAccessTimeout core dc s) :=
  .next (keeps_tapRow (fun _ => by
    split
    · exact .refl
    · exact .ite keeps_accessEnds .refl))

theorem keeps_execStateRead {via a space waddr count gen incl s} :
    KeepsNext s (execStateRead via a space waddr count gen incl s) :=
  .next (keeps_command (fun _ => .ite keeps_answerAccess keeps_queueJob))

theorem keeps_execStateWrite {via a space waddr count gen incl data s} :
    KeepsNext s (execStateWrite via a space waddr count gen incl data s) :=
  .next (keeps_command (fun _ => keeps_queueJob))

/-! ## Hangs -/

theorem keeps_ownFence {c s} : Keeps firm s (ownFence c s) := .after keeps_fenceCore keeps_update

theorem keeps_execWaitEdgeRaise {core eng cyc s} : KeepsNext s (execWaitEdgeRaise core eng cyc s) := by
  refine .next ?_
  split
  · exact .refl
  · exact .ite (.after keeps_update keeps_modEng) .refl

theorem keeps_keepReport {r s} : Keeps firm s (keepReport r s) := keeps_update
theorem keeps_countDeclared {s} : Keeps firm s (countDeclared s) := keeps_update
theorem keeps_reportEvent {code r s} : Keeps firm s (reportEvent code r s) := keeps_raiseEvent

theorem keeps_unname {ns s} : Keeps firm s (unname ns s) :=
  .after (.foldl (fun _ _ => keeps_closeGate) _) (.foldl (fun _ _ => keeps_modEng) _)

theorem keeps_resolveKnot {s k} : Keeps firm s (resolveKnot s k) :=
  .after keeps_unname (.after keeps_raiseEvent (.after keeps_modReport keeps_update))

theorem keeps_edgeWithdrawn {n s} : Keeps firm s (edgeWithdrawn n s) := .foldl (fun _ _ => keeps_resolveKnot) _

theorem keeps_contextEnded {ctx s} : Keeps firm s (contextEnded ctx s) := by
  unfold contextEnded
  split
  · exact .refl
  · exact .after keeps_raiseEvent (.after keeps_modReport keeps_update)

theorem keeps_enterFallback {s} : Keeps firm s (enterFallback s) :=
  .ite .refl (.after (.ite .refl (.after keeps_reportEvent (.after keeps_stageHang
    (.after keeps_keepReport keeps_countDeclared)))) keeps_update)

theorem keeps_takeEdge {n e s} : Keeps firm s (takeEdge n e s) := .ite keeps_update keeps_enterFallback
theorem keeps_countStale {s} : Keeps firm s (countStale s) := keeps_update

theorem keeps_execWaitEdgeReceive {s} : KeepsNext s (execWaitEdgeReceive s) := by
  refine .next ?_
  split
  · exact .refl
  · refine .ite ?_ .refl
    extract_lets
    split
    · exact .after (.ite keeps_countStale keeps_takeEdge) keeps_update
    · refine .ite (.after keeps_countStale keeps_update) ?_
      dsimp only
      split
      · exact .after keeps_edgeWithdrawn keeps_update
      · exact .after (.ite (.after keeps_edgeWithdrawn keeps_update) .refl) keeps_update

theorem keeps_fenceCycle {cs s} : Keeps firm s (fenceCycle cs s).1 := by
  refine Keeps.foldl_on (s := (s, false, false)) Prod.fst (fun r c => ?_) cs
  split
  · exact .refl
  · split
    · exact .refl
    · exact keeps_ownFence

theorem keeps_actFence {id cycle s} : Keeps firm s (actFence id cycle s) := .ite (.after keeps_modReport keeps_fenceCycle) .refl
theorem keeps_actDump {id cs read s} : Keeps firm s (actDump id cs read s) := .ite (.after keeps_modReport keeps_hubDump) .refl
theorem keeps_actAbort {id ctx s} : Keeps firm s (actAbort id ctx s) :=
  .ite (.after (.ite .refl keeps_takeAbort) keeps_update) .refl

theorem keeps_declareKnot {g read s q} : Keeps firm s (declareKnot g read s q) :=
  .after keeps_actAbort (.after keeps_actDump (.after keeps_actFence
    (.after keeps_stageCrock (.after keeps_stageHang (.after keeps_reportEvent
    (.after (.foldl (fun _ _ => .after keeps_freezeCrock keeps_modEng) _)
    (.after keeps_update (.after keeps_keepReport keeps_countDeclared))))))))

theorem keeps_knotSweep {g read s} : Keeps firm s (knotSweep g read s) :=
  .after (.ite keeps_update (.after (.foldl (fun _ _ => keeps_declareKnot) _) keeps_update)) keeps_update

theorem keeps_declareStall {g s ctx} : Keeps firm s (declareStall g s ctx) :=
  .after keeps_reportEvent (.after (.ite .refl (.after keeps_stageHang keeps_keepReport))
    (.after keeps_countDeclared keeps_update))

theorem keeps_progressSweep {g s} : Keeps firm s (progressSweep g s) :=
  .after (.foldl (fun _ _ => keeps_declareStall) _) keeps_update

theorem keeps_execKnotSweep {read s} : KeepsNext s (execKnotSweep read s) :=
  .next (.ite (.after (.ite keeps_update (.ite (.ite keeps_update .refl) (.ite keeps_knotSweep keeps_update)))
    (.after keeps_progressSweep keeps_update)) .refl)

theorem keeps_execFallbackResendDone {cluster s} : KeepsNext s (execFallbackResendDone cluster s) := by
  refine .next ?_
  split
  · exact .refl
  · exact .ite (.after (.ite (.after keeps_raiseEvent keeps_update) keeps_update) (.foldl (fun _ _ => .foldl (fun _ _ => by
  split
  · exact .refl
  · exact keeps_takeEdge) _) _)) .refl

theorem keeps_execHangAbortTimeout {hangId s} : KeepsNext s (execHangAbortTimeout hangId s) := by
  refine .next ?_
  split
  · exact .refl
  · exact .ite keeps_takeAbort .refl

theorem keeps_writeMap {ch w s} : Keeps firm s (writeMap ch w s) := keeps_update
theorem keeps_writeMapFrom {first ws s} : Keeps firm s (writeMapFrom first ws s) := .foldl (fun _ _ => keeps_writeMap) _
theorem keeps_bumpMapver {s} : Keeps firm s (bumpMapver s) := keeps_update

theorem keeps_loadPiece {s} : Keeps firm s (loadPiece s) := by
  unfold loadPiece
  split
  · exact .refl
  · exact keeps_hmAsk

theorem keeps_endLoad {code ws s} : Keeps firm s (endLoad code ws s) := by
  unfold endLoad
  split
  · exact .refl
  · exact .after keeps_respond (.after keeps_bumpMapver keeps_update)

theorem keeps_loadArrived {bs s} : Keeps firm s (loadArrived bs s) := by
  unfold loadArrived
  split
  · exact .refl
  · exact .after (.ite keeps_endLoad keeps_loadPiece) (.after keeps_update keeps_writeMapFrom)

theorem keeps_execChanmapLoad {via inline addr first count data s} :
    KeepsNext s (execChanmapLoad via inline addr first count data s) :=
  .next (keeps_command (fun _ => .ite (.after keeps_respond (.after keeps_bumpMapver keeps_writeMapFrom))
    (.after keeps_loadPiece keeps_update)))

theorem keeps_execChanmapClear {via first count s} : KeepsNext s (execChanmapClear via first count s) :=
  .next (keeps_command (fun _ => .after keeps_respond (.after keeps_bumpMapver keeps_update)))

theorem keeps_execChanmapConfig {via knots blockGt period progSweeps actions actWait s} :
    KeepsNext s (execChanmapConfig via knots blockGt period progSweeps actions actWait s) :=
  .next (keeps_command (fun _ => .after keeps_respond keeps_update))

theorem keeps_execChanmapReport {via hangId first s} : KeepsNext s (execChanmapReport via hangId first s) :=
  .next (keeps_command (fun _ => by
    split <;> exact keeps_respond))

theorem keeps_execChanmapStatus {via s} : KeepsNext s (execChanmapStatus via s) := .next (keeps_command (fun _ => keeps_respond))

/-! ## Autofence -/

theorem keeps_restartSlot {i s} : Keeps firm s (restartSlot i s) := keeps_tmap (fun _ _ => rfl)

theorem keeps_execAutofenceSlot {via p s} : KeepsNext s (execAutofenceSlot via p s) :=
  .next (keeps_command (fun _ => .after keeps_respond (.after keeps_restartSlot keeps_update)))

theorem keeps_execAutofenceLimits {via chipMax partMax rate s} : KeepsNext s (execAutofenceLimits via chipMax partMax rate s) :=
  .next (keeps_command (fun _ => .after keeps_respond keeps_update))

theorem keeps_execAutofenceStatus {via s} : KeepsNext s (execAutofenceStatus via s) :=
  .next (keeps_command (fun _ => keeps_respond))

theorem keeps_triggered {i c p read s} : Keeps firm s (triggered i c p read s) := by
  refine .ite .refl ?_
  split
  · exact .after keeps_raiseEvent keeps_update
  · exact .after (.ite keeps_hubDump .refl) (.after keeps_raiseEvent (.after keeps_ownFence keeps_update))

theorem keeps_execIntakeLogMove {read s} : KeepsNext s (execIntakeLogMove read s) := by
  refine .next ?_
  split
  · exact .refl
  · refine .ite ?_ .refl
    refine .ite ?_ (.after keeps_logRecord keeps_update)
    dsimp only
    split
    · exact .after keeps_update (.after keeps_logRecord keeps_update)
    · exact .after (.ite .refl keeps_triggered) (.after keeps_update (.after keeps_logRecord keeps_update))

/-! ## Check units -/

theorem keeps_hostFeed {f s} : Keeps firm s (hostFeed f s) := keeps_update
theorem keeps_execCkRun {wdata wstrb s} : KeepsNext s (execCkRun wdata wstrb s) := .next (keeps_hrWrite (fun _ => keeps_hostFeed))
theorem keeps_feedBytes {n w s} : Keeps firm s (feedBytes n w s) := keeps_hostFeed

theorem keeps_execCkFeedB {wdata wstrb s} : KeepsNext s (execCkFeedB wdata wstrb s) :=
  .next (keeps_hrWrite (fun _ => keeps_feedBytes))

theorem keeps_execCkFeedH {wdata wstrb s} : KeepsNext s (execCkFeedH wdata wstrb s) :=
  .next (keeps_hrWrite (fun _ => keeps_feedBytes))

theorem keeps_execCkFeedW {wdata wstrb s} : KeepsNext s (execCkFeedW wdata wstrb s) :=
  .next (keeps_hrWrite (fun _ => keeps_feedBytes))

theorem keeps_writeCkCtrl {wdata s} : Keeps firm s (writeCkCtrl wdata s) := keeps_update

theorem keeps_execCkCtrlHost {wdata wstrb s} : KeepsNext s (execCkCtrlHost wdata wstrb s) :=
  .next (keeps_hrWrite (fun _ => keeps_writeCkCtrl))

theorem keeps_execCkHostGrant {s} : KeepsNext s (execCkHostGrant s) := .next (.ite keeps_update .refl)
theorem keeps_execCkStatusRead {s} : KeepsNext s (execCkStatusRead s) := .next (.ite (.after keeps_hrDone keeps_update) .refl)
theorem keeps_clearOverrun {wdata s} : Keeps firm s (clearOverrun wdata s) := .ite keeps_update .refl

theorem keeps_execCkOverrunClear {wdata wstrb s} : KeepsNext s (execCkOverrunClear wdata wstrb s) :=
  .next (keeps_hrWrite (fun _ => keeps_clearOverrun))

theorem keeps_execCkResultRead {result s} : KeepsNext s (execCkResultRead result s) :=
  .next (.ite (.after keeps_hrDone keeps_update) .refl)

theorem keeps_feedPiece {f s} : Keeps firm s (feedPiece f s) := keeps_hmAsk
theorem keeps_feedOver {via c64 run s} : Keeps firm s (feedOver via c64 run s) := .after keeps_respond keeps_hubCheck

theorem keeps_execCheckFeed {via c64 source addr length seed data s} :
    KeepsNext s (execCheckFeed via c64 source addr length seed data s) :=
  .next (keeps_command (fun _ => by
    split
    · exact keeps_feedOver
    · exact keeps_feedOver
    · exact .after keeps_feedPiece keeps_update))

theorem keeps_dropFeed {via s} : Keeps firm s (dropFeed via s) := keeps_update

theorem keeps_feedArrived {via piece bs s} : Keeps firm s (feedArrived via piece bs s) := by
  unfold feedArrived
  split
  · exact .refl
  · exact .ite (.after keeps_feedOver keeps_dropFeed) (.after keeps_feedPiece keeps_update)

theorem keeps_feedFaulted {via piece code addr s} : Keeps firm s (feedFaulted via piece code addr s) := by
  unfold feedFaulted
  split
  · exact .refl
  · exact .after keeps_respond keeps_dropFeed

theorem keeps_execGovernorWindow {s} : KeepsNext s (execGovernorWindow s) := .next (.ite (.after keeps_pumpHm keeps_update) .refl)

/-! ## Endings -/

theorem keeps_tellLeaves {p s} : Keeps firm s (tellLeaves p s) := .foldl (fun _ _ => .after keeps_leafMerge keeps_addEvent) _

theorem keeps_endSession_ {via s} : Keeps firm s (endSession_ via s) :=
  .ite .refl (.after keeps_traceFinish (.after keeps_tellLeaves (.after keeps_update keeps_selectData)))

theorem keeps_execCntConfig {via a m full s} : KeepsNext s (execCntConfig via a m full s) :=
  .next (keeps_cntConfigWith (fun _ => keeps_truncateTrace) (fun _ _ => keeps_refreshCrossed))

theorem keeps_execTraceConfig {via p s} : KeepsNext s (execTraceConfig via p s) :=
  .next (keeps_command (fun _ => .ite (.ite keeps_endSession_ keeps_respond)
    (.ite (.after keeps_respond (.after keeps_tellLeaves (.after keeps_selectData keeps_update)))
    (.after keeps_respond (.after keeps_tellLeaves (.after keeps_selectData keeps_startSession))))))

theorem keeps_endTraceIf {p s} : Keeps firm s (endTraceIf p s) := .ite keeps_endSession_ .refl

theorem keeps_endForGrant {who s} : Keeps firm s (endForGrant who s) :=
  .after keeps_dumpsLoseIncl (.after keeps_cancelCaptures keeps_endTraceIf)

theorem keeps_endForLevel {l s} : Keeps firm s (endForLevel l s) :=
  .after (.ite (.after keeps_cancelCaptures (.after keeps_disableSets keeps_endTraceIf)) .refl)
    (.after keeps_endForGrant keeps_endForGrant)

theorem keeps_endForDomain {dom s} : Keeps firm s (endForDomain dom s) := .after keeps_cancelCaptures keeps_disableSets

end Sys2Proof.Machine
end


section
/-! # The ports, power, protection and the torus keep queue, memories and cores -/
namespace Sys2Proof.Machine

variable {firm : Bool}

/-! ## Rows of the core-facing port -/

theorem keeps_engRow {c e dc n act s} (hact : ∀ y0 y1 s, Keeps firm s (act y0 y1 s)) : Keeps firm s (engRow c e dc n act s) :=
  .ite (keeps_tapRow (fun _ => by
    split
    · exact .refl
    · exact hact _ _ _)) .refl

theorem keeps_namedRow {c e dc n act s} (hact : ∀ y0 y1 s, Keeps firm s (act y0 y1 s)) : Keeps firm s (namedRow c e dc n act s) :=
  .ite (keeps_tapRow (fun _ => by
    split
    · exact .refl
    · exact hact _ _ _)) .refl

theorem keeps_coreRow {c dc n act s} (hact : ∀ y0 s, Keeps firm s (act y0 s)) : Keeps firm s (coreRow c dc n act s) :=
  keeps_tapRow (fun _ => by
    split
    · exact .refl
    · exact hact _ _)

theorem keeps_judgeFenced {c e co s} : Keeps firm s (judgeFenced c e co s) := .ite keeps_violate .refl
theorem keeps_epochStops {c s} : Keeps firm s (epochStops c s) := .ite keeps_epochReport .refl

theorem keeps_takeStatus {c e st s} : Keeps firm s (takeStatus c e st s).2 := by
  unfold takeStatus
  split
  · exact .after keeps_violate keeps_update
  · exact .refl

theorem keeps_portEnd {c e st ownCycle co en s} : Keeps firm s (portEnd c e st ownCycle co en s) :=
  .after (.ite keeps_violate (.after (.ite keeps_endOwnCycle keeps_endCommand) keeps_takeStatus)) keeps_judgeFenced

theorem keeps_softStopped {c e s} : Keeps firm s (softStopped c e s) := by
  unfold softStopped
  split
  · exact .refl
  · exact .ite (.after keeps_upPush (.after keeps_noteState keeps_modEng)) .refl

theorem keeps_execTsCmdBegin {core eng dc ctx layer op seq st stall chan endSt s} :
    KeepsNext s (execTsCmdBegin core eng dc ctx layer op seq st stall chan endSt s) :=
  .next (keeps_engRow (fun _ _ _ => by
    refine .after keeps_judgeRuns ?_
    refine .after (.ite (.after keeps_upPush keeps_modEng) .refl) ?_
    refine .after (.ite .refl keeps_upPush) ?_
    refine .after keeps_beginCommand ?_
    refine .after (.ite keeps_violate .refl) ?_
    split
    · exact keeps_portEnd
    · exact .ite (.after keeps_endCommand keeps_violate) .refl))

theorem keeps_execTsCmdEnd {core eng dc st s} : KeepsNext s (execTsCmdEnd core eng dc st s) :=
  .next (keeps_engRow (fun _ _ _ => .after keeps_judgeRuns (.after keeps_softStopped keeps_portEnd)))

theorem keeps_execEngineStateChange {core eng dc st stall chan s} :
    KeepsNext s (execEngineStateChange core eng dc st stall chan s) :=
  .next (keeps_engRow (fun _ _ _ => .after keeps_judgeRuns (.after (.ite .refl keeps_upPush) keeps_modEng)))

theorem keeps_execProgramRetire {core eng dc ret br tgt s} : KeepsNext s (execProgramRetire core eng dc ret br tgt s) :=
  .next (keeps_engRow (fun _ _ _ => .ite .refl (.after (.ite keeps_upPush .refl) keeps_judgeFenced)))

theorem keeps_execDataAccess {core dc wr size addr data s} : KeepsNext s (execDataAccess core dc wr size addr data s) :=
  .next (keeps_engRow (fun _ _ _ => .ite keeps_upPush .refl))

theorem keeps_execSteeringArrival {core dc unit tok dat old s} : KeepsNext s (execSteeringArrival core dc unit tok dat old s) :=
  .next (keeps_coreRow (fun _ _ => .ite (keeps_modCore (fun _ => rfl)) .refl))

theorem keeps_execSteeringFire {core dc unit tok dat old s} : KeepsNext s (execSteeringFire core dc unit tok dat old s) :=
  .next (keeps_coreRow (fun _ _ => .ite .refl (.after (.ite (.after keeps_upPush (keeps_modCore (fun _ => rfl))) .refl)
    (.after (keeps_modCore (fun _ => rfl)) (.after (.ite keeps_violate .refl)
    (.after (.ite keeps_violate .refl) (.after (.ite keeps_upPush .refl) keeps_judgeFenced)))))))

theorem keeps_execEpochChange {core dc epoch s} : KeepsNext s (execEpochChange core dc epoch s) :=
  .next (keeps_coreRow (fun _ _ => .ite .refl (.after (.ite keeps_epochStops .refl)
    (.after keeps_upPush (.after (keeps_modCore (fun _ => rfl)) (.ite keeps_violate .refl))))))

theorem keeps_execEpochRequest {core dc s} : KeepsNext s (execEpochRequest core dc s) :=
  .next (keeps_coreRow (fun _ _ => .after keeps_epochStops (keeps_modCore (fun _ => rfl))))

theorem keeps_execSlotOperation {core dc op full slot eng peerCtx peerV s} :
    KeepsNext s (execSlotOperation core dc op full slot eng peerCtx peerV s) :=
  .next (keeps_namedRow (fun _ _ _ => .after (.ite keeps_upPush (.ite keeps_upPush keeps_upPush)) keeps_judgeFenced))

theorem keeps_execStoreBeat {core dc eng cnt idx data scale s} : KeepsNext s (execStoreBeat core dc eng cnt idx data scale s) :=
  .next (keeps_namedRow (fun _ _ _ => by
    refine .ite keeps_violate ?_
    split
    · exact .refl
    · exact .after keeps_upPushAll (.after (keeps_modCore (fun _ => rfl)) (.after keeps_violateN (.ite keeps_violate .refl)))))

theorem keeps_execCoreErrorReport {core dc cls n eng code addr s} :
    KeepsNext s (execCoreErrorReport core dc cls n eng code addr s) :=
  .next (keeps_namedRow (fun _ _ _ => .ite .refl (.after keeps_upPush keeps_countError)))

theorem keeps_execStretchChange {core dc active s} : KeepsNext s (execStretchChange core dc active s) :=
  .next (keeps_coreRow (fun _ _ => by
    refine .ite .refl ?_
    split
    · exact keeps_modCore (fun _ => rfl)
    · exact .after (.ite .refl (.ite keeps_stopCore (keeps_modCore (fun _ => by simp))))
        (.after (.ite .refl (.after keeps_upPush (keeps_modCore (fun _ => rfl)))) (keeps_modCore (fun _ => rfl)))))

theorem keeps_linkDrains {n c s} : Keeps firm s (linkDrains n c s) :=
  keeps_modCore (fun _ => congrArg List.length (onlyLink_upRun _ _).engs)

theorem keeps_enterQuiet {c s} : Keeps firm s (enterQuiet c s) := by
  refine .after keeps_closeGate (.after keeps_accessGo (.after (keeps_modCore fun co => ?_)
    (.after keeps_abortTest (.after keeps_withdrawCore keeps_skimGap))))
  dsimp only [endAccess]
  split <;> simp

theorem keeps_execGateWarn {core dc waits s} : KeepsNext s (execGateWarn core dc waits s) :=
  .next (keeps_coreRow (fun _ _ => .ite .refl (.after (.ite
    (.after keeps_enterQuiet (.after keeps_linkDrains (.after keeps_upPush
    (.after (keeps_modCore (fun _ => rfl)) keeps_linkDrains)))) .refl) (.after keeps_upPush (keeps_modCore (fun _ => by simp))))))

theorem keeps_wakeRetained {c s} : Keeps firm s (wakeRetained c s) := by
  unfold wakeRetained
  split
  · exact .refl
  · refine .ite ?_ (.ite (keeps_modCore (fun _ => by split <;> simp [lowerHolds_engs_length])) .refl)
    dsimp only
    split
    · exact .after keeps_enterStopped (keeps_modCore (fun _ => by simp))
    · exact .after (keeps_modCore (fun _ => lowerHolds_engs_length _)) (keeps_modCore (fun _ => by simp))

theorem keeps_wakeLost {c s} : Keeps firm s (wakeLost c s) := by
  unfold wakeLost
  split
  · exact .refl
  · exact .after keeps_accessGo (.after (keeps_modCore (fun _ => rfl))
      (.after (keeps_modCore (fun _ => by simp)) (.ite .refl keeps_advCoreGen)))

theorem keeps_execCoreWake {core ret s} : KeepsNext s (execCoreWake core ret s) := by
  refine .next ?_
  split
  · exact .refl
  · exact .ite (.after keeps_upPush (.after (keeps_modCore (fun _ => rfl))
      (.ite (.after keeps_wakeRetained (keeps_modCore (fun _ => rfl))) keeps_wakeLost))) .refl

theorem keeps_execKeepAlive {core dc s} : KeepsNext s (execKeepAlive core dc s) :=
  .next (keeps_coreRow (fun _ _ => .ite (keeps_modCore (fun _ => rfl)) .refl))

/-! ## The observation link -/

theorem keeps_readState {c e st stall chan g s} : Keeps firm s (readState c e st stall chan g s) := by
  unfold readState
  split
  · exact .refl
  · exact .after keeps_modEng (.after (.ite (.after keeps_modEng keeps_crockPut) .refl) (.ite .refl keeps_withdrawEdge))

theorem keeps_execCrockStallEntry {core eng cyc s} : KeepsNext s (execCrockStallEntry core eng cyc s) := by
  refine .next ?_
  split
  · exact .refl
  · exact .ite (.after keeps_modEng keeps_crockPut) .refl

theorem keeps_readDrops {c cmds progs datas empties overs errs elems first g s} :
    Keeps firm s (readDrops c cmds progs datas empties overs errs elems first g s) :=
  .after (.ite .refl keeps_skimDrop) (.after keeps_modTrig (.after
    (.foldl (fun _ _ => .ite .refl (.after keeps_countPolicies keeps_leafDropped)) _) keeps_linkLost))

theorem keeps_readViolation {c row e t n g s} : Keeps firm s (readViolation c row e t n g s) :=
  .after keeps_countPolicies (.after (.ite .refl keeps_leafReport) keeps_leafReport)

theorem keeps_readError {c e t cls n code addr g s} : Keeps firm s (readError c e t cls n code addr g s) :=
  .after keeps_countPolicies (.after keeps_leafReport keeps_crockPut)

theorem keeps_sendAccount {ctx cycles ended s} : Keeps firm s (sendAccount ctx cycles ended s) := keeps_update

theorem keeps_readKind {c k first g s} : Keeps firm s (readKind c k first g s) := by
  cases k with
  | begin e t held => exact .after keeps_lateBegin (.after keeps_modEng keeps_crockPut)
  | fin e t st im busy stall n =>
    exact .after keeps_stepReadEnd (.after keeps_endedLate (.after keeps_sendAccount (.after keeps_modEng keeps_crockPut)))
  | account e ctx n => exact keeps_sendAccount
  | state e st stall chan => exact keeps_readState
  | error e t cls n code addr => exact keeps_readError
  | slotMark e t ov slot peer peerV => exact keeps_crockPut
  | elem e key bits scale => exact keeps_queueElem
  | stopped soft late tok dat old epoch stretch hard at_ => exact keeps_readStopped
  | reply w code gen => exact keeps_replyRead
  | scanData ws => exact keeps_scanRead
  | fired u held half => exact keeps_lateSteering
  | engStopped e => exact keeps_readEngStopped
  | stepDone e fired =>
    cases e with
    | none => exact keeps_stepReadFired
    | some e => exact .refl
  | epochBoundary ep old tok dat => exact keeps_epochEnd
  | stateChange e cause old new t => exact keeps_stateCrock
  | stretchChange => exact keeps_modCore fun _ => rfl
  | gateNotice infl => exact keeps_modCore fun _ => rfl
  | quiet infl busy cc synth finals => exact .after keeps_crockCore (keeps_modCore fun _ => rfl)
  | wake ret discarded cc since =>
    exact .after keeps_restartBlock (.after (.ite .refl (keeps_modCore length_forgetEngines))
      (.after keeps_crockCore (keeps_modCore length_markDisc)))
  | violation row e t n => exact keeps_readViolation
  | drops cmds progs datas slots empties overs errs elems => exact keeps_readDrops
  | keepAlive | prog | data | epoch | crossing | slotOp => exact .refl

theorem keeps_execObsLinkWordRead {core cyc s} : KeepsNext s (execObsLinkWordRead core cyc s) := by
  refine .next ?_
  split
  · exact .refl
  next co hco =>
    split
    · exact .refl
    next w rest hrest =>
      refine .ite (.after keeps_leafMerge (.after keeps_addEvent (.after keeps_readKind
        (.after (.ite keeps_restartBlock .refl) (keeps_modCore_at fun co' hco' => ?_))))) .refl
      cases hco.symm.trans hco'
      have hengs := engs_upTake hrest
      exact congrArg List.length hengs

theorem keeps_execClockStopDetect {core cyc s} : KeepsNext s (execClockStopDetect core cyc s) := by
  refine .next ?_
  split
  · exact .refl
  · refine .ite .refl ?_
    split
    · exact .after keeps_leafMerge (.after keeps_withdrawCore (.after keeps_skimGap (keeps_modCore (fun _ => rfl))))
    · exact .after keeps_leafMerge (.after keeps_addEvent (.after keeps_readKind
        (.after keeps_enterQuiet (keeps_modCore (fun _ => rfl)))))

theorem keeps_beatBrings {s} : Keeps firm s (beatBrings s) :=
  .after keeps_noteCloses (.after keeps_cutsDue (.foldl (fun _ _ => keeps_ownDue) _))

theorem keeps_execTimeBeat {obs hub tp s} : KeepsNext s (execTimeBeat obs hub tp s) :=
  .next (.ite (.after keeps_beatBrings (.after keeps_update (.after keeps_beatAll keeps_update))) .refl)

theorem keeps_execAccountWord {s} : KeepsNext s (execAccountWord s) := by
  refine .next ?_
  split
  · exact .refl
  · exact .ite .refl (.after (.ite (.after (.ite keeps_contextEnded .refl) keeps_update) (.ite keeps_update .refl)) keeps_update)

/-! ## Taking a command -/

theorem keeps_takeRequest {via cmd seq notify who level ws check s} :
    Keeps firm s (takeRequest via cmd seq notify who level ws check s) := by
  refine .ite (.after keeps_respond keeps_update) ?_
  split
  · exact .after (.ite keeps_respondWith keeps_respond) keeps_update
  · exact .after (.ite .refl keeps_respondWith) keeps_update

/-! ## Protection -/

theorem keeps_endSession {s} : Keeps firm s (endSession s) := keeps_update
theorem keeps_dropSession {s} : Keeps firm s (dropSession s) := keeps_update
theorem keeps_drawNonce {s} : Keeps firm s (drawNonce s).2 := keeps_update

theorem keeps_execProtectNonce {via s} : KeepsNext s (execProtectNonce via s) :=
  .next (keeps_command (fun _ => .after keeps_respond (.after keeps_update keeps_drawNonce)))

theorem keeps_propose {via lifecycle d key sig extra s} : Keeps firm s (propose via lifecycle d key sig extra s) := by
  unfold propose
  split
  · exact keeps_respond
  · refine .ite keeps_respond ?_
    refine .ite (.after keeps_respond keeps_update) ?_
    refine .ite (.after keeps_respond keeps_update) ?_
    refine .ite (.after keeps_respond keeps_update) ?_
    split
    · exact .after keeps_respond keeps_update
    · exact .after keeps_respond (.after keeps_update keeps_update)

theorem keeps_execProtectPropose {via d key sig extra s} : KeepsNext s (execProtectPropose via d key sig extra s) :=
  .next (keeps_command (fun _ => keeps_propose))

theorem keeps_execLifecycleAdvance {via d key sig s} : KeepsNext s (execLifecycleAdvance via d key sig s) :=
  .next (keeps_command (fun _ => keeps_propose))

theorem keeps_setDebug {l s} : Keeps firm s (setDebug l s) :=
  .after keeps_dropSession (.after (.ite keeps_endForLevel .refl) keeps_update)

theorem keeps_removeDomain {dom s} : Keeps firm s (removeDomain dom s) :=
  .after (.foldl (fun _ _ => .ite keeps_respond .refl) _) (.after keeps_update (.after keeps_endForDomain keeps_retireCtxs))

theorem keeps_setGrant {code g s} : Keeps firm s (setGrant code g s) := .ite keeps_update keeps_update
theorem keeps_endGrant {code s} : Keeps firm s (endGrant code s) := .after keeps_endForGrant keeps_setGrant

theorem keeps_programFuse {item via s} : Keeps firm s (programFuse item via s) := by
  refine .after keeps_update ?_
  split
  · exact keeps_update
  · exact keeps_update
  · exact .refl

theorem keeps_applyChange {d s} : Keeps firm s (applyChange d s) :=
  .ite keeps_update (.ite keeps_removeDomain (.ite keeps_update
    (.ite keeps_setDebug (.ite keeps_setGrant (.ite keeps_endGrant .refl)))))

theorem keeps_refuseConfirm {via p s} : Keeps firm s (refuseConfirm via p s) := .after keeps_respond keeps_update

theorem keeps_confirm {via id key sig extra s} : Keeps firm s (confirm via id key sig extra s) := by
  unfold confirm
  split
  · exact keeps_respond
  · refine .ite ?_ ?_
    · split
      · exact .ite keeps_refuseConfirm keeps_respond
      · exact keeps_respond
    · split
      · exact keeps_respond
      · refine .ite keeps_respond ?_
        refine .ite (.after keeps_respond keeps_update) ?_
        refine .ite keeps_refuseConfirm ?_
        dsimp only
        split
        · exact .after keeps_respond keeps_update
        · split
          · exact .after keeps_programFuse keeps_update
          · exact .after keeps_respond (.after keeps_applyChange keeps_update)

theorem keeps_execProtectConfirm {via id key sig extra s} : KeepsNext s (execProtectConfirm via id key sig extra s) :=
  .next (keeps_command (fun _ => keeps_confirm))

theorem keeps_commitReturn {s} : Keeps firm s (commitReturn s) :=
  .after keeps_setDebug (.after keeps_endGrant (.after keeps_endGrant
    (.after keeps_update (.foldl (fun _ _ => keeps_removeDomain) _))))

theorem keeps_commitLifecycle {next s} : Keeps firm s (commitLifecycle next s) := by
  refine .after keeps_endSession ?_
  split
  · exact .after keeps_setDebug keeps_update
  · exact .after keeps_setDebug (.after keeps_endGrant (.after keeps_endGrant keeps_update))
  · exact .after keeps_commitReturn keeps_update
  · exact keeps_update

theorem keeps_commitFuse {item s} : Keeps firm s (commitFuse item s) := by
  unfold commitFuse
  split
  · exact keeps_update
  · exact keeps_update
  · exact keeps_update
  · exact keeps_update
  · exact keeps_update
  · exact keeps_update
  · exact .ite keeps_commitLifecycle .refl

theorem keeps_execFuseCommit {s} : KeepsNext s (execFuseCommit s) := by
  refine .next ?_
  split
  · exact .refl
  · exact .after (.ite keeps_respond .refl) (.after keeps_commitFuse keeps_update)

theorem keeps_execFuseWrite {via item hash s} : KeepsNext s (execFuseWrite via item hash s) :=
  .next (keeps_command (fun _ => keeps_programFuse))

theorem keeps_execInclGrantExpiry {platform s} : KeepsNext s (execInclGrantExpiry platform s) := by
  refine .next ?_
  split
  · exact .refl
  · exact .ite keeps_endGrant .refl

/-! ## The narrow port -/

theorem keeps_expireSession {s} : Keeps firm s (expireSession s) := by
  unfold expireSession
  split
  · exact .refl
  · exact .ite keeps_endSession .refl

theorem keeps_execTapReset {s} : KeepsNext s (execTapReset s) := .next (.ite .refl (.after keeps_update keeps_endSession))
theorem keeps_execTestLogicReset {s} : KeepsNext s (execTestLogicReset s) := .next (.ite .refl keeps_update)
theorem keeps_execCaptureIr {s} : KeepsNext s (execCaptureIr s) := .next (.ite .refl (.after keeps_update keeps_expireSession))
theorem keeps_execIdcode {s} : KeepsNext s (execIdcode s) := .next (.ite .refl keeps_update)
theorem keeps_bypass {ir s} : Keeps firm s (bypass ir s) := keeps_update

theorem keeps_execChallenge {s} : KeepsNext s (execChallenge s) :=
  .next (.ite .refl (.ite keeps_bypass (.after (.ite keeps_update (.after keeps_update keeps_drawNonce)) keeps_expireSession)))

theorem keeps_execResponse {bs s} : KeepsNext s (execResponse bs s) := by
  refine .next ?_
  refine .ite .refl ?_
  refine .ite keeps_bypass ?_
  refine .ite (.after keeps_update keeps_expireSession) ?_
  dsimp only
  split <;> exact .after keeps_update keeps_expireSession

theorem keeps_execLockoutExpiry {s} : KeepsNext s (execLockoutExpiry s) := by
  refine .next ?_
  split
  · exact .refl
  · exact .ite keeps_update .refl

theorem keeps_execSessionExpiry {s} : KeepsNext s (execSessionExpiry s) := .next keeps_expireSession

theorem keeps_execDstatus {s} : KeepsNext s (execDstatus s) :=
  .next (.ite .refl (.ite keeps_bypass (.after keeps_update keeps_expireSession)))

theorem keeps_execDwepCapture {s} : KeepsNext s (execDwepCapture s) :=
  .next (.ite .refl (.ite keeps_bypass (.after keeps_update keeps_expireSession)))

theorem keeps_portAnswer {closes seq cmd chip code badCheck s} : Keeps firm s (portAnswer closes seq cmd chip code badCheck s) :=
  keeps_update

theorem keeps_answerOpen {key chip code s} : Keeps firm s (answerOpen key chip code s) := by
  unfold answerOpen
  split
  · exact .refl
  · exact .ite keeps_update (.after keeps_portAnswer keeps_update)

theorem keeps_relayRequest {key dst frame s} : Keeps firm s (relayRequest key dst frame s) :=
  .ite keeps_answerOpen (.ite keeps_answerOpen (.ite keeps_answerOpen
    (.after keeps_sendFrame (.after keeps_update keeps_openTrack))))

theorem keeps_judgePass {ws s} : Keeps firm s (judgePass ws s) :=
  .ite .refl (.ite (.ite keeps_portAnswer keeps_update) (.ite keeps_update
    (.ite keeps_portAnswer (.ite keeps_portAnswer (.ite keeps_update
    (.after (.ite keeps_relayRequest keeps_takeRequest) keeps_update))))))

theorem keeps_execDwepUpdate {shifted whole s} : KeepsNext s (execDwepUpdate shifted whole s) :=
  .next (.ite .refl (.after keeps_judgePass (.after keeps_update keeps_expireSession)))

theorem keeps_execNarrowRemoteTimeout {seq s} : KeepsNext s (execNarrowRemoteTimeout seq s) := by
  refine .next ?_
  split
  · exact .refl
  · split
    · exact .refl
    · exact .ite (.after keeps_answerOpen keeps_closeTrack) .refl

/-! ## Power -/

theorem keeps_alwaysOn {s} : Keeps false s (alwaysOn s) := ⟨rfl, fun _ => rfl, fun _ => rfl, nofun⟩

theorem keeps_obsRelease {t s} : Keeps false s (obsRelease t s) where
  pending := rfl
  memories _ := rfl
  fw := nofun
  cores _ := coresWhole_iff.mpr fun p hp => by
    obtain ⟨k, _, rfl⟩ := List.mem_map.mp hp
    exact length_freshCore k

theorem keeps_execObsResetRelease {t s} : KeepsNext s (execObsResetRelease t s) := .ite_fault (.ite keeps_obsRelease .refl)
theorem keeps_execObsPowerUp {t s} : KeepsNext s (execObsPowerUp t s) := .ite_fault (.ite .refl keeps_obsRelease)
theorem keeps_drainIntake {s} : Keeps firm s (drainIntake s) := keeps_update
theorem keeps_endSequence {failed ws s} : Keeps firm s (endSequence failed ws s) := keeps_update

theorem keeps_recognise {cause nvAvail s} : Keeps false s (recognise cause nvAvail s) :=
  .after (.ite keeps_update keeps_endSequence) (.after keeps_update (.after keeps_alwaysOn keeps_drainIntake))

theorem keeps_execPfWarnRecognise {nvAvail s} : KeepsNext s (execPfWarnRecognise nvAvail s) :=
  .next (.ite (.after keeps_recognise keeps_update) .refl)

theorem keeps_execRetentionRequestRecognise {nvAvail s} : KeepsNext s (execRetentionRequestRecognise nvAvail s) :=
  .next (.ite keeps_recognise .refl)

theorem keeps_execNvDurable {s} : KeepsNext s (execNvDurable s) := by
  refine .next ?_
  split
  · exact keeps_update
  · exact keeps_endSequence
  · exact .refl

theorem keeps_execNvFlushTimeout {s} : KeepsNext s (execNvFlushTimeout s) := by
  refine .next ?_
  split
  · exact keeps_endSequence
  · exact keeps_endSequence
  · exact .refl

theorem keeps_aoReset {s} : Keeps false s (aoReset s) := ⟨rfl, fun _ => rfl, fun _ => rfl, nofun⟩
theorem keeps_execAoPowerUp {slots s} : KeepsNext s (execAoPowerUp slots s) := .next (.after keeps_update keeps_aoReset)
theorem keeps_execAoPowerLoss {s} : KeepsNext s (execAoPowerLoss s) := .next (.after keeps_update keeps_aoReset)

theorem keeps_execPartGatedChange {part gated s} : KeepsNext s (execPartGatedChange part gated s) :=
  .next (.ite .refl keeps_update)

theorem keeps_execTrayBlockWrite {offset pecOk s} : KeepsNext s (execTrayBlockWrite offset pecOk s) :=
  .next (.ite .refl (.ite keeps_update (.ite keeps_update keeps_update)))

theorem keeps_execTrayBlockRead {s} : KeepsNext s (execTrayBlockRead s) := .next (.ite .refl keeps_update)

/-! ## Links of the torus -/

theorem keeps_goDown {p s} : Keeps firm s (goDown p s) :=
  .after (.foldl (fun _ _ => keeps_routeFrame) _) (.after keeps_setPort keeps_modPort)

theorem keeps_enterTraining {p s} : Keeps firm s (enterTraining p s) := .after keeps_setPort keeps_modPort

theorem keeps_goLive {p level s} : Keeps firm s (goLive p level s) :=
  .after (.ite keeps_recalibrateLink .refl) (.after keeps_setPort keeps_modPort)

theorem keeps_execIazanPhyUp {port s} : KeepsNext s (execIazanPhyUp port s) :=
  .next (.ite (.after (.ite keeps_enterTraining .refl) keeps_modPort) .refl)

theorem keeps_execIazanPhyDown {port s} : KeepsNext s (execIazanPhyDown port s) :=
  .next (.ite (.after (.ite .refl keeps_goDown) keeps_modPort) .refl)

theorem keeps_checkFailed {p s} : Keeps firm s (checkFailed p s) := keeps_modPort

theorem keeps_trainFlit {p f s} : Keeps firm s (trainFlit p f s) :=
  .ite (.after (.ite keeps_goLive .refl) keeps_modPort) (.after
    (.ite .refl (.ite (.after keeps_setPort keeps_modPort) keeps_modPort)) keeps_modPort)

theorem keeps_liveFlit {p f s} : Keeps firm s (liveFlit p f s) := keeps_modPort

theorem keeps_execLinkFlitReceive {port f s} : KeepsNext s (execLinkFlitReceive port f s) := by
  refine .next ?_
  refine .ite ?_ .refl
  refine .ite (.after keeps_modPort keeps_checkFailed) ?_
  dsimp only
  split
  · exact .after keeps_trainFlit (.after (.ite keeps_floodLinkState .refl) keeps_modPort)
  · exact .after keeps_liveFlit (.after (.ite keeps_floodLinkState .refl) keeps_modPort)
  · exact .after (.ite keeps_floodLinkState .refl) keeps_modPort

theorem keeps_execLinkFlitSend {port s} : KeepsNext s (execLinkFlitSend port s) :=
  .next (.ite (.after (.ite keeps_goLive .refl) keeps_modPort) .refl)

theorem keeps_execLinkFlitTimeout {port s} : KeepsNext s (execLinkFlitTimeout port s) := .next (.ite keeps_goDown .refl)

theorem keeps_execCheckFailureLimit {port s} : KeepsNext s (execCheckFailureLimit port s) :=
  .next (.ite (.after keeps_goDown (.after keeps_hubError keeps_modPort)) .refl)

theorem keeps_execIazanFencedRetry {port s} : KeepsNext s (execIazanFencedRetry port s) := .next (.ite keeps_enterTraining .refl)

theorem keeps_receiveFlood {p f arrive s} : Keeps firm s (receiveFlood p f arrive s) :=
  .ite keeps_modPort (.after (.ite .refl keeps_receiveLocal) (.after (.ite .refl keeps_floodOn) keeps_update))

theorem keeps_transitFrame {p lane f s} : Keeps firm s (transitFrame p lane f s) :=
  .ite (.after (.ite keeps_sendAnswer .refl) keeps_countDrop) (.ite keeps_countDrop keeps_routeFrame)

theorem keeps_acceptFrame {p lane f arrive s} : Keeps firm s (acceptFrame p lane f arrive s) :=
  .ite keeps_modPort (.ite keeps_modPort (.ite keeps_receiveFlood (.ite .refl (.ite keeps_receiveLocal keeps_transitFrame))))

theorem keeps_execIazanFrameReceive {port lane f check arrive s} :
    KeepsNext s (execIazanFrameReceive port lane f check arrive s) :=
  .next (.ite (.ite (.after keeps_acceptFrame keeps_modPort) (.ite .refl (.after keeps_modPort keeps_checkFailed))) .refl)

theorem keeps_execIazanFrameAged {port s} : KeepsNext s (execIazanFrameAged port s) := .next (.ite keeps_modPort .refl)
theorem keeps_execFloodRecordExpiry {s} : KeepsNext s (execFloodRecordExpiry s) := .next keeps_update
theorem keeps_execAvoidEntry {s} : KeepsNext s (execAvoidEntry s) := .next (.ite (.after keeps_floodLinkState keeps_update) .refl)
theorem keeps_execLinkStatePeriodic {s} : KeepsNext s (execLinkStatePeriodic s) := .next (.ite keeps_floodLinkState .refl)

theorem keeps_takeLocal {p s x t} (h : takeLocal p s = some (x, t)) : Keeps firm s t := by
  unfold takeLocal at h
  obtain ⟨_, h⟩ := Option.ite_none_right_eq_some.mp h
  obtain ⟨_, _, h⟩ := Option.map_eq_some_iff.mp h
  cases h
  exact keeps_update

theorem keeps_execLinkStateReceive {s} : KeepsNext s (execLinkStateReceive s) := by
  refine .next ?_
  split
  · exact .refl
  next h => exact .after (.ite .refl keeps_update) (keeps_takeLocal h)

theorem keeps_execLinkStateStale {chip s} : KeepsNext s (execLinkStateStale chip s) := by
  refine .next ?_
  split
  · exact .refl
  · exact .ite keeps_update .refl

/-! ## Remote commands and floods -/

theorem keeps_takeFlood {op act s} (hact : ∀ x s, Keeps firm s (act x s)) : Keeps firm s (takeFlood op act s) := by
  unfold takeFlood
  split
  · exact .refl
  next h => exact .after (.ite .refl (hact _ _)) (keeps_takeLocal h)

theorem keeps_refuseCut {x s} : Keeps firm s (refuseCut x s) := keeps_sendReport

theorem keeps_execFloodArm {s} : KeepsNext s (execFloodArm s) :=
  .next (keeps_takeFlood (fun _ _ => .ite .refl (.ite keeps_refuseCut keeps_acceptCut)))

theorem keeps_execFloodCancel {s} : KeepsNext s (execFloodCancel s) := .next (keeps_takeFlood (fun _ _ => by
  split
  · exact .refl
  · exact .ite keeps_update keeps_cancelCut))

theorem keeps_execFloodResume {s} : KeepsNext s (execFloodResume s) := .next (keeps_takeFlood (fun _ _ => by
  split
  · exact .refl
  · exact .ite .refl keeps_modCut))

theorem keeps_execFloodStepTime {s} : KeepsNext s (execFloodStepTime s) := .next (keeps_takeFlood (fun _ _ => by
  split
  · exact .refl
  · exact .ite .refl (.ite keeps_refuseCut keeps_armTimeStep)))

theorem keeps_execFloodChurn {read s} : KeepsNext s (execFloodChurn read s) :=
  .next (keeps_takeFlood (fun _ _ => .ite keeps_churnDump .refl))

theorem keeps_execTriggerFrameReceive {s} : KeepsNext s (execTriggerFrameReceive s) := by
  refine .next ?_
  split
  · exact .refl
  next h => exact .after (.ite keeps_update .refl) (keeps_takeLocal h)

theorem keeps_execReportReceive {s} : KeepsNext s (execReportReceive s) := by
  refine .next ?_
  split
  · exact .refl
  next h =>
    refine .after (.ite .refl (.ite keeps_cutReported ?_)) (keeps_takeLocal h)
    split
    · exact .refl
    · exact .after keeps_churnHeard (.after (.foldl (fun _ _ => keeps_publishRegion) _) keeps_update)

theorem keeps_sendRemote {via target genchk gen timeout level ws len s} :
    Keeps firm s (sendRemote via target genchk gen timeout level ws len s) :=
  .after keeps_sendFrame keeps_openTrack

theorem keeps_execRemoteCmd {via target notify cmd genchk gen timeout inner s} :
    KeepsNext s (execRemoteCmd via target notify cmd genchk gen timeout inner s) :=
  .next (keeps_command (fun _ => keeps_sendRemote))

theorem keeps_execRemoteWrite {via target genchk gen timeout win wgen bytes offset data s} :
    KeepsNext s (execRemoteWrite via target genchk gen timeout win wgen bytes offset data s) :=
  .next (keeps_command (fun _ => keeps_sendRemote))

theorem keeps_execRemoteRspReceive {s} : KeepsNext s (execRemoteRspReceive s) := by
  refine .next ?_
  split
  · exact .refl
  next h =>
    refine .after ?_ (keeps_takeLocal h)
    split
    · split
      · exact .after keeps_respond keeps_closeTrack
      · exact keeps_countLate
    · exact keeps_countLate

theorem keeps_trackEnds {ix e s} : Keeps firm s (trackEnds ix e s) := by
  unfold trackEnds
  split
  · exact .after keeps_respond keeps_closeTrack
  · exact .after keeps_streamFailed keeps_closeTrack
  · exact .after keeps_answerOpen keeps_closeTrack

theorem keeps_execTrackerTimeout {index s} : KeepsNext s (execTrackerTimeout index s) := by
  refine .next ?_
  split
  · exact .refl
  · exact .ite keeps_trackEnds .refl

theorem keeps_takeTagged {p act s} (hact : ∀ x s, Keeps firm s (act x s)) : Keeps firm s (takeTagged p act s) := by
  unfold takeTagged
  split
  · exact .refl
  next h =>
    refine .after ?_ (keeps_takeLocal h)
    split
    · split
      · exact keeps_sendFrame
      · exact .refl
    · exact .after (hact _ _) keeps_update

theorem keeps_execRemoteReqReceive {s} : KeepsNext s (execRemoteReqReceive s) :=
  .next (keeps_takeTagged (fun _ _ => .ite keeps_sendResponse (.ite keeps_sendResponse keeps_takeRequest)))

theorem keeps_execRemoteEventReceive {s} : KeepsNext s (execRemoteEventReceive s) := by
  refine .next ?_
  split
  · exact .refl
  next h => exact .after keeps_queueEvent (.after keeps_update (keeps_takeLocal h))

theorem keeps_execResponseRecordExpiry {s} : KeepsNext s (execResponseRecordExpiry s) := .next keeps_update
theorem keeps_modWindow {w f s} : Keeps firm s (modWindow w f s) := keeps_update

theorem keeps_execWindowOpen {via win base size aaddr amask s} : KeepsNext s (execWindowOpen via win base size aaddr amask s) :=
  .next (keeps_command (fun _ => .after keeps_respond keeps_modWindow))

theorem keeps_windowClosed {win s} : Keeps firm s (windowClosed win s) := by
  unfold windowClosed
  dsimp only
  split
  · exact .refl
  · exact .ite (.after keeps_respond keeps_modWindow) .refl

theorem keeps_execWindowClose {via win s} : KeepsNext s (execWindowClose via win s) :=
  .next (keeps_command (fun _ => .after keeps_windowClosed keeps_modWindow))

theorem keeps_answerWrite {f code s} : Keeps firm s (answerWrite f code s) := keeps_sendResponse

theorem keeps_admitWrite {x win n s} : Keeps firm s (admitWrite x win n s) :=
  .after (.foldl (fun _ _ => keeps_hmAsk) _) keeps_modWindow

theorem keeps_execRemoteWriteReceive {s} : KeepsNext s (execRemoteWriteReceive s) :=
  .next (keeps_takeTagged (fun _ _ => .ite keeps_answerWrite
    (.ite keeps_answerWrite (.ite keeps_answerWrite (.after keeps_windowClosed
    (.ite (.after keeps_answerWrite keeps_modWindow) (.ite keeps_answerWrite (.ite keeps_answerWrite keeps_admitWrite))))))))

theorem keeps_notePart {src tag code s} : Keeps firm s (notePart src tag code s) := .ite .refl keeps_update
theorem keeps_dropParts {src tag s} : Keeps firm s (dropParts src tag s) := keeps_update

theorem keeps_windowAnswered {src tag win code s} : Keeps firm s (windowAnswered src tag win code s) :=
  .after (.ite .refl (.after keeps_windowClosed (.after keeps_sendResponse (.after keeps_modWindow keeps_dropParts))))
    keeps_notePart

theorem keeps_modStream {chip churn f s} : Keeps firm s (modStream chip churn f s) := keeps_update
theorem keeps_answerStream {f code s} : Keeps firm s (answerStream f code s) := keeps_sendResponse

theorem keeps_streamOver {chip churn s} : Keeps firm s (streamOver chip churn s) := by
  unfold streamOver
  split
  · exact .refl
  · exact .ite (.after keeps_publishRegion keeps_update) .refl

theorem keeps_reserveStream {x read s t} (h : reserveStream x read s = some t) : Keeps firm s t := by
  unfold reserveStream at h
  dsimp only at h
  split at h
  · cases h
  · split at h
    · cases h
    · cases h
      exact .after keeps_modRegion (.after keeps_update keeps_readMetered)

theorem keeps_writeStream {x k s} : Keeps firm s (writeStream x k s) :=
  .after (.ite keeps_answerStream (.ite (.after keeps_streamOver keeps_answerStream) (.foldl (fun _ _ => keeps_hmAsk) _)))
    (.ite keeps_modStream .refl)

theorem keeps_execDumpStreamReceive {read s} : KeepsNext s (execDumpStreamReceive read s) := by
  refine .next (keeps_takeTagged fun x s => .ite keeps_answerStream ?_)
  extract_lets r
  split
  · exact keeps_answerStream
  next t k hk =>
    obtain ⟨u, hu, hk⟩ := Option.bind_eq_some_iff.mp hk
    obtain ⟨_, _, hk⟩ := Option.map_eq_some_iff.mp hk
    cases hk
    refine .after keeps_writeStream ?_
    unfold r at hu
    split at hu
    · exact keeps_reserveStream hu
    · cases hu
      exact .refl

theorem keeps_streamAnswered {src tag churn code s} : Keeps firm s (streamAnswered src tag churn code s) :=
  .after (.ite .refl (.after keeps_streamOver (.after keeps_sendResponse keeps_dropParts))) keeps_notePart

theorem keeps_execStreamRspReceive {s} : KeepsNext s (execStreamRspReceive s) := by
  refine .next ?_
  split
  · exact .refl
  next h =>
    refine .after ?_ (keeps_takeLocal h)
    split
    · split
      · exact .after (.ite keeps_sectAnswered keeps_streamFailed) keeps_closeTrack
      · exact keeps_countLate
    · exact keeps_countLate

theorem keeps_narrowRequest {x s} : Keeps firm s (narrowRequest x s) := .ite keeps_sendResponse keeps_takeRequest

theorem keeps_queueRelayed {q ws s} : Keeps firm s (queueRelayed q ws s) := by
  unfold queueRelayed
  split
  · exact .refl
  · exact .ite keeps_update keeps_update

theorem keeps_narrowReturn {x s} : Keeps firm s (narrowReturn x s) := by
  refine .ite keeps_queueNarrow ?_
  split
  · split
    · exact .after (.ite keeps_answerOpen keeps_queueRelayed) keeps_closeTrack
    · exact keeps_countLate
  · exact keeps_countLate

theorem keeps_execNarrowFrameReceive {s} : KeepsNext s (execNarrowFrameReceive s) := by
  refine .next ?_
  split
  · exact .refl
  · refine .ite ?_ (keeps_takeTagged fun _ _ => keeps_narrowRequest)
    split
    · exact .refl
    next h => exact .after keeps_narrowReturn (keeps_takeLocal h)

end Sys2Proof.Machine
end


section
/-! # Firmware, host memory, mailboxes and registers keep queue, memories and cores -/
namespace Sys2Proof.Machine

variable {firm : Bool}

/-! ## Firmware -/

theorem keeps_dropWaits {s} : Keeps firm s (dropWaits s) :=
  .after (keeps_tmap (fun _ _ => rfl)) (.ite (.after keeps_bumpMapver keeps_update) .refl)

theorem keeps_stormLeaves {s} : Keeps firm s (stormLeaves s) := keeps_update

theorem keeps_stopEngines {s} : Keeps firm s (stopEngines s) := by
  unfold stopEngines
  extract_lets uncalibrated untraced unsampled undumped
  have h : Keeps firm s undumped :=
    .after (.foldl (fun _ _ => .after keeps_pumpDump keeps_endEarly) _)
      (.after keeps_disableSets (.after keeps_traceFinish (.after keeps_endSession_ keeps_abortCal)))
  clear_value undumped
  exact .after keeps_update h

/-- The state in which the firmware is no longer started and the hub's state is `st`. -/
def fwEntered (st : FwState) (s : State) : State := { s with fw := { s.fw with state := st, started := false } }

/-- What an entry into basic service keeps once the firmware's record has changed. -/
theorem keeps_basicEntry_of_entered {st s} : Keeps firm (fwEntered st s) (basicEntry st s) :=
  .after keeps_raiseEvent (.after keeps_hubError (.after keeps_stormLeaves
    (.after keeps_stopEngines (.after (.foldl (fun _ _ => keeps_respond) _) keeps_dropWaits))))

theorem keeps_basicEntry {st s} : Keeps false s (basicEntry st s) :=
  .after keeps_basicEntry_of_entered ⟨rfl, id, id, nofun⟩

theorem keeps_modFw {g s} : Keeps false s (modFw g s) := ⟨rfl, id, id, nofun⟩
theorem keeps_askImage {load piece addr bytes s} : Keeps firm s (askImage load piece addr bytes s) := keeps_hmAsk
theorem keeps_startLoad {s} : Keeps false s (startLoad s) := .after keeps_askImage keeps_modFw
theorem keeps_endLoadFw {st s} : Keeps false s (endLoadFw st s) := .after keeps_modFw keeps_hmCancel

theorem keeps_headerArrived {h s} : Keeps false s (headerArrived h s) :=
  .ite (.after (.foldl (fun _ _ => keeps_askImage) _) keeps_modFw) keeps_endLoadFw

theorem keeps_bodyArrived {s} : Keeps false s (bodyArrived s) := by
  unfold bodyArrived
  dsimp only
  split
  · exact .after keeps_endLoadFw keeps_modFw
  · exact .after keeps_modFw keeps_modFw

theorem keeps_imageArrived {load piece bs s} : Keeps false s (imageArrived load piece bs s) :=
  .ite .refl (.ite (.after keeps_headerArrived keeps_modFw) (.after (.ite keeps_bodyArrived .refl) keeps_modFw))

theorem keeps_imageFaulted {load s} : Keeps false s (imageFaulted load s) := .ite .refl keeps_endLoadFw

theorem keeps_writeGo {wdata s} : Keeps false s (writeGo wdata s) :=
  .ite .refl (.ite (.after keeps_startLoad keeps_basicEntry) keeps_startLoad)

theorem keeps_execFwGo {wdata wstrb s} : KeepsNext s (execFwGo wdata wstrb s) := .next (keeps_hrWrite (fun _ => keeps_writeGo))
theorem keeps_clearStateArea {s} : Keeps firm s (clearStateArea s) := keeps_tmap (fun _ _ => by simp)

theorem keeps_execFirmwareReady {s} : KeepsNext s (execFirmwareReady s) :=
  .next (.ite (.after (.ite keeps_clearStateArea (.after keeps_reportHeld keeps_concludeCuts))
    (.after keeps_raiseEvent keeps_modFw)) .refl)

theorem keeps_failFirmware {s} : Keeps false s (failFirmware s) := .ite keeps_basicEntry (.ite keeps_endLoadFw .refl)
theorem keeps_execFirmwareWatchdog {s} : KeepsNext s (execFirmwareWatchdog s) := .next (.ite keeps_failFirmware .refl)
theorem keeps_execFirmwareWatchdogSignal {s} : KeepsNext s (execFirmwareWatchdogSignal s) := .next (.ite keeps_modFw .refl)
theorem keeps_execFirmwareStartTimeout {s} : KeepsNext s (execFirmwareStartTimeout s) := .next (.ite keeps_failFirmware .refl)

/-! ## Host memory -/

theorem keeps_hostMemError {r s} : Keeps firm s (hostMemError r s) := by
  unfold hostMemError
  split
  · exact .refl
  · exact keeps_hubError

theorem keeps_requestFaulted {r code s} : Keeps false s (requestFaulted r code s) := by
  unfold requestFaulted
  split
  · exact keeps_imageFaulted
  · exact keeps_ringFaulted
  · exact keeps_ringFaulted
  · exact keeps_ringFaulted
  · exact keeps_ringFaulted
  · exact keeps_pailFaulted
  · exact keeps_pailFaulted
  · exact keeps_pailFaulted
  · exact keeps_pailFaulted
  · exact keeps_dumpFaulted
  · exact keeps_dumpFaulted
  · exact .refl
  · exact keeps_traceFaulted
  · exact keeps_traceFaulted
  · exact keeps_traceFaulted
  · exact keeps_traceFaulted
  · exact keeps_feedFaulted
  · exact keeps_endLoad
  · exact keeps_windowAnswered
  · exact keeps_streamAnswered
  · exact .refl

theorem keeps_requestDone {r s} : Keeps false s (requestDone r s) := by
  unfold requestDone
  split
  · exact keeps_imageArrived
  · exact keeps_ringWritten
  · exact keeps_ringWritten
  · exact keeps_ringWritten
  · exact .refl
  · exact keeps_pailWritten
  · exact .refl
  · exact .refl
  · exact .refl
  · exact keeps_dumpWritten
  · exact keeps_dumpWritten
  · exact .refl
  · exact keeps_traceWritten
  · exact keeps_traceWritten
  · exact .refl
  · exact .refl
  · exact keeps_feedArrived
  · exact keeps_loadArrived
  · exact keeps_windowAnswered
  · exact keeps_streamAnswered
  · exact .refl

theorem keeps_hmAnswered {r code s} : Keeps false s (hmAnswered r code s) :=
  .after keeps_pumpHm (.after (.ite keeps_requestDone (.ite keeps_requestFaulted
    (.after keeps_requestFaulted keeps_hostMemError))) keeps_update)

theorem keeps_lateAnswer {tag s} : Keeps firm s (lateAnswer tag s) := .ite keeps_update .refl

theorem keeps_execHostMemoryWriteResponse {tag code s} : KeepsNext s (execHostMemoryWriteResponse tag code s) := by
  refine .next ?_
  refine .ite ?_ .refl
  split
  · exact keeps_hmAnswered
  · exact keeps_lateAnswer

theorem keeps_execHostMemoryReadBeat {tag beat last code s} : KeepsNext s (execHostMemoryReadBeat tag beat last code s) := by
  refine .next ?_
  refine .ite ?_ .refl
  split
  · exact .ite keeps_hmAnswered keeps_update
  · exact .ite keeps_lateAnswer .refl

theorem keeps_execHostMemoryTimeout {tag s} : KeepsNext s (execHostMemoryTimeout tag s) := by
  refine .next ?_
  split
  · exact .ite (.after keeps_hmAnswered keeps_update) .refl
  · exact .refl

theorem keeps_contextLost {addr s} : Keeps firm s (contextLost addr s) := keeps_retireCtxs
theorem keeps_mapEntryLost {addr s} : Keeps firm s (mapEntryLost addr s) := keeps_update

theorem keeps_trackerLost {ix s} : Keeps firm s (trackerLost ix s) := by
  unfold trackerLost
  split
  · exact .refl
  · exact keeps_trackEnds

theorem keeps_traceRecordLost {k s} : Keeps firm s (traceRecordLost k s) := by
  unfold traceRecordLost
  split
  · exact .refl
  · exact .after keeps_setStream keeps_update

theorem keeps_chunkLost {d q s} : Keeps firm s (chunkLost d q s) := .after keeps_pumpDump (.after keeps_modSect keeps_dropSection)

theorem keeps_traceOrChunkLost {k s} : Keeps firm s (traceOrChunkLost k s) := by
  refine .ite keeps_traceRecordLost ?_
  split
  · exact .refl
  · exact keeps_chunkLost

theorem keeps_stateRecordLost {k s} : Keeps firm s (stateRecordLost k s) := by
  refine .ite keeps_update ?_
  refine .ite keeps_update ?_
  refine .ite ?_ ?_
  · split
    · exact .refl
    · exact keeps_update
  · split
    · exact .refl
    · exact keeps_update

theorem keeps_retentionLost {k s} : Keeps firm s (retentionLost k s) :=
  .ite keeps_update (.ite keeps_update (.ite keeps_update (.ite keeps_update
    (.ite keeps_update (.ite keeps_update (.ite keeps_update
    (.ite keeps_update (.ite keeps_update (.ite keeps_update
    (.ite keeps_update (.ite keeps_update (.ite keeps_update (.ite keeps_update (.ite keeps_update .refl))))))))))))))

theorem keeps_firmwareRamLost {s} : Keeps false s (firmwareRamLost s) := .ite keeps_endLoadFw keeps_failFirmware

theorem keeps_sramHandled {code addr s} : Keeps false s (sramHandled code addr s) :=
  .ite keeps_contextLost (.ite keeps_mapEntryLost (.ite keeps_trackerLost
    (.ite keeps_traceOrChunkLost (.ite (.ite keeps_firmwareRamLost keeps_stateRecordLost)
    (.ite keeps_firmwareRamLost (.ite keeps_retentionLost .refl))))))

theorem keeps_execHubSramError {code addr corrected s} : KeepsNext s (execHubSramError code addr corrected s) :=
  .next (.ite (.after (.ite .refl (.after keeps_sramHandled keeps_raiseEvent)) keeps_hubError) .refl)

/-! ## Mailboxes -/

theorem keeps_pollMailbox {s m} : Keeps firm s (pollMailbox s m) := by
  refine .ite .refl (.after keeps_takeRequest (keeps_memories (fun h => ?_) id))
  apply memWf_memWriteWords h

theorem keeps_execMailboxPoll {s} : KeepsNext s (execMailboxPoll s) :=
  .next (.ite (.foldl (fun _ _ => keeps_pollMailbox) _) .refl)

theorem keeps_execLocalRead {via space offset length s} : KeepsNext s (execLocalRead via space offset length s) :=
  .next (keeps_command (fun _ => keeps_respond))

/-! ## Registers -/

theorem keeps_clearIrq {w s} : Keeps firm s (clearIrq w s) := keeps_update
theorem keeps_setIrq {w s} : Keeps firm s (setIrq w s) := keeps_update

theorem keeps_execIrqStatusClear {wdata wstrb s} : KeepsNext s (execIrqStatusClear wdata wstrb s) :=
  .next (keeps_hrWrite (fun _ => keeps_clearIrq))

theorem keeps_execIrqTest {wdata wstrb s} : KeepsNext s (execIrqTest wdata wstrb s) :=
  .next (keeps_hrWrite (fun _ => keeps_setIrq))

theorem keeps_writeRegister {off w s} : Keeps false s (writeRegister off w s) := by
  unfold writeRegister
  split
  · exact ⟨rfl, id, id, nofun⟩
  · exact keeps_writeGo
  · exact keeps_clearRateErr
  · exact keeps_writeRate
  · exact keeps_update
  · exact keeps_update
  · exact keeps_clearIrq
  · exact keeps_update
  · exact keeps_setIrq
  · exact keeps_writeCkCtrl
  · exact keeps_clearOverrun
  · exact keeps_hostFeed
  · exact keeps_feedBytes
  · exact keeps_feedBytes
  · exact keeps_feedBytes
  · exact .ite keeps_update .refl

theorem keeps_writeMailbox {a w strb s} : Keeps firm s (writeMailbox a w strb s) := by
  refine .ite .refl (keeps_memories (fun h => ?_) id)
  apply memWf_memWriteWords h

theorem keeps_execRegisterWrite {addr wdata wstrb s} : KeepsNext s (execRegisterWrite addr wdata wstrb s) :=
  .next (.ite (.ite (.after keeps_writeMailbox keeps_hrDone) .refl) (keeps_hrWrite (fun _ => keeps_writeRegister)))

/-! ## A step with nothing waiting -/

theorem keeps_idle {s} : Keeps firm s (idle s) := .after (.ite keeps_update .refl) (.ite keeps_update .refl)

end Sys2Proof.Machine
end


section
/-! # Every command leaves the queue, keeps the memories canonical and every core whole -/
namespace Sys2Proof.Machine

variable {firm : Bool}

theorem exec_keeps : ∀ (i : Instr) (s : State), KeepsNext s (exec i s)
  | .mailboxPoll, _ => keeps_execMailboxPoll | .hello .., _ => keeps_execHello | .capsSummary .., _ => keeps_execCapsSummary
  | .capsPresence .., _ => keeps_execCapsPresence | .capsIazan .., _ => keeps_execCapsIazan
  | .eventRingSet .., _ => keeps_execEventRingSet | .ctxDefine .., _ => keeps_execCtxDefine
  | .ctxRetire .., _ => keeps_execCtxRetire | .cntConfig .., _ => keeps_execCntConfig | .pailConfig .., _ => keeps_execPailConfig
  | .traceConfig .., _ => keeps_execTraceConfig | .trigSetLoad .., _ => keeps_execTrigSetLoad
  | .trigSetChannel .., _ => keeps_execTrigSetChannel | .trigSetClear .., _ => keeps_execTrigSetClear
  | .trigSetStatus .., _ => keeps_execTrigSetStatus | .skimArm .., _ => keeps_execSkimArm
  | .skimCancel .., _ => keeps_execSkimCancel | .skimRead .., _ => keeps_execSkimRead
  | .chanmapLoad .., _ => keeps_execChanmapLoad | .chanmapClear .., _ => keeps_execChanmapClear
  | .chanmapConfig .., _ => keeps_execChanmapConfig | .chanmapReport .., _ => keeps_execChanmapReport
  | .chanmapStatus .., _ => keeps_execChanmapStatus | .stopAtArm .., _ => keeps_execStopAtArm
  | .stopAtCancel .., _ => keeps_execStopAtCancel | .stopAtReport .., _ => keeps_execStopAtReport
  | .stepCommand .., _ => keeps_execStepCommand | .stepContext .., _ => keeps_execStepContext
  | .stepFiring .., _ => keeps_execStepFiring | .stepTime .., _ => keeps_execStepTime | .resume .., _ => keeps_execResume
  | .stateRead .., _ => keeps_execStateRead | .stateWrite .., _ => keeps_execStateWrite | .scanOut .., _ => keeps_execScanOut
  | .dumpSetup .., _ => keeps_execDumpSetup | .dumpStart .., _ => keeps_execDumpStart | .dumpCancel .., _ => keeps_execDumpCancel
  | .churn .., _ => keeps_execChurn | .dumpStatus .., _ => keeps_execDumpStatus | .faultRetry .., _ => keeps_execFaultRetry
  | .checkFeed .., _ => keeps_execCheckFeed | .fence .., _ => keeps_execFence | .unfence .., _ => keeps_execUnfence
  | .contextAbort .., _ => keeps_execContextAbort | .engineReset .., _ => keeps_execEngineReset
  | .coreFenceAndReset .., _ => keeps_execCoreFenceAndReset | .partitionReset .., _ => keeps_execPartitionReset
  | .chipComputeReset .., _ => keeps_execChipComputeReset | .trayPowerCycle .., _ => keeps_execTrayPowerCycle
  | .reopen .., _ => keeps_execReopen | .resetRungStatus .., _ => keeps_execResetRungStatus
  | .autofenceSlot .., _ => keeps_execAutofenceSlot | .autofenceLimits .., _ => keeps_execAutofenceLimits
  | .autofenceStatus .., _ => keeps_execAutofenceStatus | .testLend .., _ => keeps_execTestLend
  | .testReclaim .., _ => keeps_execTestReclaim | .testSlotConfig .., _ => keeps_execTestSlotConfig
  | .testRequest .., _ => keeps_execTestRequest | .testCancel .., _ => keeps_execTestCancel
  | .testStatus .., _ => keeps_execTestStatus | .timeCalStart .., _ => keeps_execTimeCalStart
  | .timeCalLink .., _ => keeps_execTimeCalLink | .timeCalSweep .., _ => keeps_execTimeCalSweep
  | .windowOpen .., _ => keeps_execWindowOpen | .windowClose .., _ => keeps_execWindowClose
  | .remoteCmd .., _ => keeps_execRemoteCmd | .remoteWrite .., _ => keeps_execRemoteWrite
  | .protectNonce .., _ => keeps_execProtectNonce | .protectPropose .., _ => keeps_execProtectPropose
  | .protectConfirm .., _ => keeps_execProtectConfirm | .lifecycleAdvance .., _ => keeps_execLifecycleAdvance
  | .localRead .., _ => keeps_execLocalRead | .fuseWrite .., _ => keeps_execFuseWrite | .fwGo .., _ => keeps_execFwGo
  | .firmwareReady, _ => keeps_execFirmwareReady | .firmwareWatchdog, _ => keeps_execFirmwareWatchdog
  | .firmwareStartTimeout, _ => keeps_execFirmwareStartTimeout | .ckCtrlHost .., _ => keeps_execCkCtrlHost
  | .ckHostGrant, _ => keeps_execCkHostGrant | .ckStatusRead, _ => keeps_execCkStatusRead
  | .ckOverrunClear .., _ => keeps_execCkOverrunClear | .ckRun .., _ => keeps_execCkRun | .ckFeedB .., _ => keeps_execCkFeedB
  | .ckFeedH .., _ => keeps_execCkFeedH | .ckFeedW .., _ => keeps_execCkFeedW | .ckResultRead .., _ => keeps_execCkResultRead
  | .timeRateWrite .., _ => keeps_execTimeRateWrite | .rateErrClear .., _ => keeps_execRateErrClear
  | .irqStatusClear .., _ => keeps_execIrqStatusClear | .irqTest .., _ => keeps_execIrqTest
  | .registerWrite .., _ => keeps_execRegisterWrite | .obsResetRelease .., _ => keeps_execObsResetRelease
  | .tsCmdBegin .., _ => keeps_execTsCmdBegin | .tsCmdEnd .., _ => keeps_execTsCmdEnd
  | .engineStateChange .., _ => keeps_execEngineStateChange | .crockStallEntry .., _ => keeps_execCrockStallEntry
  | .programRetire .., _ => keeps_execProgramRetire | .progRecordTimeout .., _ => keeps_execProgRecordTimeout
  | .dataAccess .., _ => keeps_execDataAccess | .steeringArrival .., _ => keeps_execSteeringArrival
  | .steeringFire .., _ => keeps_execSteeringFire | .epochChange .., _ => keeps_execEpochChange
  | .epochRequest .., _ => keeps_execEpochRequest | .slotOperation .., _ => keeps_execSlotOperation
  | .storeBeat .., _ => keeps_execStoreBeat | .stretchChange .., _ => keeps_execStretchChange
  | .gateWarn .., _ => keeps_execGateWarn | .coreWake .., _ => keeps_execCoreWake
  | .coreErrorReport .., _ => keeps_execCoreErrorReport | .fenceAck .., _ => keeps_execFenceAck
  | .fenceAckTimeout .., _ => keeps_execFenceAckTimeout | .abortAck .., _ => keeps_execAbortAck
  | .stateAccessAck .., _ => keeps_execStateAccessAck | .stateAccessTimeout .., _ => keeps_execStateAccessTimeout
  | .engineResetAssert .., _ => keeps_execEngineResetAssert | .engineResetRelease .., _ => keeps_execEngineResetRelease
  | .coreResetAssert .., _ => keeps_execCoreResetAssert | .coreResetRelease .., _ => keeps_execCoreResetRelease
  | .keepAlive .., _ => keeps_execKeepAlive | .clockStopDetect .., _ => keeps_execClockStopDetect
  | .obsLinkWordRead .., _ => keeps_execObsLinkWordRead | .counterCrossing .., _ => keeps_execCounterCrossing
  | .timeBeat .., _ => keeps_execTimeBeat | .refLostAssert, _ => keeps_execRefLostAssert
  | .refLostDeassert, _ => keeps_execRefLostDeassert | .referenceStopDetect, _ => keeps_execReferenceStopDetect
  | .timeExchange .., _ => keeps_execTimeExchange | .timeReqReceive .., _ => keeps_execTimeReqReceive
  | .timeRspReceive .., _ => keeps_execTimeRspReceive | .timeCalTimeout, _ => keeps_execTimeCalTimeout
  | .leafStopArm .., _ => keeps_execLeafStopArm | .shimArmReceive .., _ => keeps_execShimArmReceive
  | .shimHoldRaise .., _ => keeps_execShimHoldRaise | .shimStopCycle .., _ => keeps_execShimStopCycle
  | .leafCutReport .., _ => keeps_execLeafCutReport | .stopWatchdogExpiry .., _ => keeps_execStopWatchdogExpiry
  | .cutReportDeadline .., _ => keeps_execCutReportDeadline | .stepBoundExpiry .., _ => keeps_execStepBoundExpiry
  | .timeStepRelease .., _ => keeps_execTimeStepRelease | .resumeRelease .., _ => keeps_execResumeRelease
  | .rindPacket .., _ => keeps_execRindPacket | .rindTxDrop .., _ => keeps_execRindTxDrop
  | .pailSampleInstant .., _ => keeps_execPailSampleInstant | .pailLeafArm .., _ => keeps_execPailLeafArm
  | .pailShimSample .., _ => keeps_execPailShimSample | .pailRecordArrival .., _ => keeps_execPailRecordArrival
  | .housekeepingSample, _ => keeps_execHousekeepingSample | .milkRunBeat .., _ => keeps_execMilkRunBeat
  | .traceSinkWrite, _ => keeps_execTraceSinkWrite | .traceReadPoll .., _ => keeps_execTraceReadPoll
  | .triggerStopRequest, _ => keeps_execTriggerStopRequest | .crossTriggerRaise, _ => keeps_execCrossTriggerRaise
  | .crossTriggerDeliver .., _ => keeps_execCrossTriggerDeliver | .skimElement .., _ => keeps_execSkimElement
  | .skimCaptureOpen .., _ => keeps_execSkimCaptureOpen | .skimCloseTime .., _ => keeps_execSkimCloseTime
  | .dumpCreditGrant .., _ => keeps_execDumpCreditGrant | .scanPassComplete .., _ => keeps_execScanPassComplete
  | .governorWindow, _ => keeps_execGovernorWindow | .hostMemoryWriteResponse .., _ => keeps_execHostMemoryWriteResponse
  | .hostMemoryReadBeat .., _ => keeps_execHostMemoryReadBeat | .hostMemoryTimeout .., _ => keeps_execHostMemoryTimeout
  | .errorRecordArrival, _ => keeps_execErrorRecordArrival
  | .stormNoticeReceive _ cyc, _ => keeps_execStormNoticeReceive (_cyc := cyc) | .intakeLogMove .., _ => keeps_execIntakeLogMove
  | .coalesceIntervalEnd .., _ => keeps_execCoalesceIntervalEnd | .stormWindowEnd, _ => keeps_execStormWindowEnd
  | .leafSramError .., _ => keeps_execLeafSramError | .hubSramError .., _ => keeps_execHubSramError
  | .waitEdgeRaise .., _ => keeps_execWaitEdgeRaise | .waitEdgeReceive, _ => keeps_execWaitEdgeReceive
  | .knotSweep .., _ => keeps_execKnotSweep | .fallbackResendDone .., _ => keeps_execFallbackResendDone
  | .hangAbortTimeout .., _ => keeps_execHangAbortTimeout | .rungTimeout .., _ => keeps_execRungTimeout
  | .partitionResetDone .., _ => keeps_execPartitionResetDone | .chipResetDone, _ => keeps_execChipResetDone
  | .resetDoneLower .., _ => keeps_execResetDoneLower | .testSchedulerPass, _ => keeps_execTestSchedulerPass
  | .testDeadlineExpiry, _ => keeps_execTestDeadlineExpiry | .testSequenceEnd .., _ => keeps_execTestSequenceEnd
  | .iazanPhyUp .., _ => keeps_execIazanPhyUp | .iazanPhyDown .., _ => keeps_execIazanPhyDown
  | .linkFlitReceive .., _ => keeps_execLinkFlitReceive | .linkFlitSend .., _ => keeps_execLinkFlitSend
  | .linkFlitTimeout .., _ => keeps_execLinkFlitTimeout | .checkFailureLimit .., _ => keeps_execCheckFailureLimit
  | .iazanFencedRetry .., _ => keeps_execIazanFencedRetry | .iazanFrameReceive .., _ => keeps_execIazanFrameReceive
  | .iazanFrameAged .., _ => keeps_execIazanFrameAged | .floodArm, _ => keeps_execFloodArm
  | .floodCancel, _ => keeps_execFloodCancel | .floodResume, _ => keeps_execFloodResume
  | .floodStepTime, _ => keeps_execFloodStepTime | .floodChurn .., _ => keeps_execFloodChurn
  | .floodRecordExpiry, _ => keeps_execFloodRecordExpiry | .triggerFrameReceive, _ => keeps_execTriggerFrameReceive
  | .linkStatePeriodic, _ => keeps_execLinkStatePeriodic | .linkStateReceive, _ => keeps_execLinkStateReceive
  | .linkStateStale .., _ => keeps_execLinkStateStale | .avoidEntry, _ => keeps_execAvoidEntry
  | .remoteReqReceive, _ => keeps_execRemoteReqReceive | .remoteWriteReceive, _ => keeps_execRemoteWriteReceive
  | .remoteRspReceive, _ => keeps_execRemoteRspReceive | .remoteEventReceive, _ => keeps_execRemoteEventReceive
  | .trackerTimeout .., _ => keeps_execTrackerTimeout | .responseRecordExpiry, _ => keeps_execResponseRecordExpiry
  | .reportReceive, _ => keeps_execReportReceive | .churnDeadline .., _ => keeps_execChurnDeadline
  | .dumpStreamReceive .., _ => keeps_execDumpStreamReceive | .streamRspReceive, _ => keeps_execStreamRspReceive
  | .narrowFrameReceive, _ => keeps_execNarrowFrameReceive | .eventRingWrite, _ => keeps_execEventRingWrite
  | .eventRingReadPoll .., _ => keeps_execEventRingReadPoll | .tapReset, _ => keeps_execTapReset
  | .testLogicReset, _ => keeps_execTestLogicReset | .captureIr, _ => keeps_execCaptureIr | .idcode, _ => keeps_execIdcode
  | .challenge, _ => keeps_execChallenge | .response .., _ => keeps_execResponse | .dwepCapture, _ => keeps_execDwepCapture
  | .dwepUpdate .., _ => keeps_execDwepUpdate | .dstatus, _ => keeps_execDstatus
  | .narrowRemoteTimeout .., _ => keeps_execNarrowRemoteTimeout | .sessionExpiry, _ => keeps_execSessionExpiry
  | .lockoutExpiry, _ => keeps_execLockoutExpiry | .inclGrantExpiry .., _ => keeps_execInclGrantExpiry
  | .aoPowerUp .., _ => keeps_execAoPowerUp | .aoPowerLoss, _ => keeps_execAoPowerLoss | .obsPowerUp .., _ => keeps_execObsPowerUp
  | .partGatedChange .., _ => keeps_execPartGatedChange | .pfWarnRecognise .., _ => keeps_execPfWarnRecognise
  | .retentionRequestRecognise .., _ => keeps_execRetentionRequestRecognise | .nvDurable, _ => keeps_execNvDurable
  | .nvFlushTimeout, _ => keeps_execNvFlushTimeout | .trayBlockWrite .., _ => keeps_execTrayBlockWrite
  | .trayBlockRead, _ => keeps_execTrayBlockRead | .trayStatusPoll .., _ => keeps_execTrayStatusPoll
  | .trayTimeout, _ => keeps_execTrayTimeout | .accountWord, _ => keeps_execAccountWord
  | .rindLinksOpen, _ => keeps_execRindLinksOpen | .beatsLost .., _ => keeps_execBeatsLost
  | .firmwareWatchdogSignal, _ => keeps_execFirmwareWatchdogSignal | .fuseCommit, _ => keeps_execFuseCommit

/-- A step keeps what commands keep; the queue it takes its command from is the only part of them it changes. -/
theorem step_keeps {s t : State} (h : step s = .next t) : ∃ q, Keeps false { s with pending := q } t := by
  unfold step at h
  split at h
  · cases h
    exact ⟨s.pending, keeps_idle⟩
  · exact ⟨_, exec_keeps _ _ t h⟩

/-- Settles O1: it is how a step is defined. -/
theorem stepRunsFrontCommand : Obligations.StepRunsFrontCommand := fun _ _ _ => rfl

/-- Settles O5: what a command keeps is first of all the queue. -/
theorem commandsLeaveTheQueue : Obligations.CommandsLeaveTheQueue :=
  fun c s t h => (exec_keeps c s t h).pending

/-- Settles O6, by `step_keeps`. -/
theorem stepKeepsMemoriesCanonical : Obligations.StepKeepsMemoriesCanonical := fun s t hs h => by
  obtain ⟨q, hq⟩ := step_keeps h
  exact hq.memories hs

/-- Settles O9, by `step_keeps`. -/
theorem stepKeepsCoresWhole : Obligations.StepKeepsCoresWhole := ⟨rfl, fun s t hs h => by
  obtain ⟨q, hq⟩ := step_keeps h
  exact hq.cores hs⟩

end Sys2Proof.Machine
end

/-! # Frames and events leave the rest of the hub alone (R447, R453, R500) -/
section
namespace Sys2Proof.Machine

/-- From `s` to `t` only frames and events went out: nothing but the Iazan, the narrow port and the event queue differs. -/
def Emits (s t : State) : Prop := t = { s with iz := t.iz, narrow := t.narrow, events := t.events }

namespace Emits

theorem eq {s t : State} (h : Emits s t) : t = { s with iz := t.iz, narrow := t.narrow, events := t.events } := h

theorem refl {s : State} : Emits s s := rfl

theorem trans {s t u : State} (h : Emits s t) (h' : Emits t u) : Emits s u := by
  unfold Emits at h h' ⊢
  rw [h] at h'
  exact h'

theorem after {s t u : State} (h' : Emits t u) (h : Emits s t) : Emits s u := h.trans h'

theorem of_update {s : State} {iz narrow events} : Emits s { s with iz := iz, narrow := narrow, events := events } := rfl

theorem ite {p : Prop} [Decidable p] {s t u : State} (ht : Emits s t) (hu : Emits s u) : Emits s (if p then t else u) := by
  split
  · exact ht
  · exact hu

theorem foldl {α : Type} {f : State → α → State} (h : ∀ s x, Emits s (f s x)) (l : List α) {s : State} :
    Emits s (l.foldl f s) := by
  induction l generalizing s with
  | nil => exact refl
  | cons x l ih => exact (h s x).trans ih

section Fields
variable {s t : State} (h : Emits s t)
include h

theorem time : t.time = s.time := (congrArg State.time h.eq :)
theorem cores : t.cores = s.cores := (congrArg State.cores h.eq :)
theorem leaves : t.leaves = s.leaves := (congrArg State.leaves h.eq :)
theorem gens : t.gens = s.gens := (congrArg State.gens h.eq :)
theorem ties : t.ties = s.ties := (congrArg State.ties h.eq :)
theorem power : t.power = s.power := (congrArg State.power h.eq :)
theorem pw : t.pw = s.pw := (congrArg State.pw h.eq :)
theorem fw : t.fw = s.fw := (congrArg State.fw h.eq :)
theorem mb : t.mb = s.mb := (congrArg State.mb h.eq :)
theorem protect : t.protect = s.protect := (congrArg State.protect h.eq :)
theorem rec_ : t.rec_ = s.rec_ := (congrArg State.rec_ h.eq :)
theorem hang : t.hang = s.hang := (congrArg State.hang h.eq :)
theorem test : t.test = s.test := (congrArg State.test h.eq :)

end Fields
end Emits

section Sending
variable {s : State}

theorem emits_sendOn {p lane f} : Emits s (sendOn p lane f s) := .of_update

theorem emits_sendAnswer {f} : Emits s (sendAnswer f s) := by
  refine .ite .of_update ?_
  split
  · exact emits_sendOn
  · exact .of_update

theorem emits_routeFrame {f arrival lane} : Emits s (routeFrame f arrival lane s) := by
  unfold routeFrame
  split
  · exact emits_sendOn
  · refine .after (.ite emits_sendAnswer .refl) ?_
    split
    · exact .of_update
    · exact .of_update

theorem emits_sendFrame {f} : Emits s (sendFrame f s) := emits_routeFrame

theorem emits_floodOn {f arrival} : Emits s (floodOn f arrival s) := .foldl (fun _ _ => .ite emits_sendOn .refl) _

theorem emits_originateFlood {f} : Emits s (originateFlood f s) := .after emits_floodOn .of_update

theorem emits_queueEvent {e} : Emits s (queueEvent e s) :=
  .after (.ite .of_update .refl) (.ite .of_update .of_update)

theorem emits_raiseEvent {code line payload owner result} : Emits s (raiseEvent code line payload owner result s) := by
  refine .ite .refl ?_
  extract_lets e _ numbered queued notified
  have hqueued : Emits s queued := .after (.ite .of_update (.ite .refl emits_queueEvent)) .of_update
  have hnotified : Emits s notified := by
    unfold notified
    split
    · exact hqueued
    · exact .after emits_sendFrame hqueued
  split
  · exact hnotified
  · exact .after emits_sendFrame hnotified

theorem emits_floodLinkState : Emits s (floodLinkState s) := .after emits_originateFlood .of_update

theorem emits_setPort {p st level} : Emits s (setPort p st level s) :=
  .ite .refl (.after emits_floodLinkState (.after emits_raiseEvent .of_update))

theorem emits_coordPorts : Emits s (coordPorts s) := .foldl (fun _ _ => .ite emits_setPort .refl) _

end Sending
end Sys2Proof.Machine
end

/-! # Mailboxes and HELLO (R487, R488, R490, R492, R613) -/
section
namespace Sys2Proof.Machine

/-- Settles O8: 0xFFFF is followed by 1, and any other number by its successor, which is zero for 0xFFFF alone. -/
theorem sequenceNumbersSkipZero : Obligations.SequenceNumbersSkipZero := by
  refine ⟨rfl, fun n hn => ?_⟩
  have hstep : nextSeq n = n + 1 := if_neg hn
  refine ⟨hstep, hstep ▸ fun hzero => hn ?_⟩
  bv_omega

/-! ## MAILBOX_POLL (R488) -/

theorem pollMailbox_of_not_pollable {s : State} {m : Nat}
    (h : bits (memWord (4096 * m) s.mb.mem) 3 0 ≠ 1 ∨ (takenOf s (.mailbox (BitVec.ofNat 4 m))).isSome = true) :
    pollMailbox s m = s := if_pos h

/-- The state in which the seal of mailbox `m` has become TAKEN. -/
def sealTaken (m : Nat) (s : State) : State :=
  { s with mb := { s.mb with mem := memWriteWords (4096 * m) [takenSeal (memWord (4096 * m) s.mb.mem)] s.mb.mem } }

/-- R487: the mark with which a SEALED command is taken, of LEN before CHECK. -/
def requestMark (m len : Nat) (sw : Word) (mem : Mem) : Option Bool :=
  if 4032 < len then some false
  else if requestCheck m (bits sw 31 16) len mem ≠ fieldB 32 sw 32 then some true else none

/-- R488: a SEALED mailbox with nothing taken has its command taken from the copy read before the seal changes. -/
theorem pollMailbox_of_sealed {s : State} {m : Nat} (hseal : bits (memWord (4096 * m) s.mb.mem) 3 0 = 1)
    (hfree : takenOf s (.mailbox (BitVec.ofNat 4 m)) = none) :
    let sw := memWord (4096 * m) s.mb.mem
    let head := memWord (4096 * m + 8) s.mb.mem
    let len := bits head 31 16
    pollMailbox s m = takeRequest (.mailbox (BitVec.ofNat 4 m)) (fieldB 16 head 48) (fieldB 16 sw 16) (bit head 0)
      (mailboxWho (sealTaken m s) m) s.protect.debug (wordsOf (memBytes (4096 * m + 64) (min len 4032) s.mb.mem))
      (requestMark m len sw s.mb.mem) (sealTaken m s) := by
  have hseq : (fieldB 16 (memWord (4096 * m) s.mb.mem) 16).toNat = bits (memWord (4096 * m) s.mb.mem) 31 16 :=
    toNat_fieldB _ rfl
  intro sw head len
  unfold requestMark
  rw [← hseq]
  exact if_neg (by simp [hseal, hfree])

/-- Settles O10: the poll by the two conditions under which a mailbox is left alone, and its mark by LEN and CHECK. -/
theorem mailboxPollTakesInAscendingOrder : Obligations.MailboxPollTakesInAscendingOrder := by
  refine ⟨fun s h => congrArg Host.Outcome.next (if_pos h), fun s h => congrArg Host.Outcome.next (if_neg (by simp [h])),
    fun s m => pollMailbox_of_not_pollable, fun s m _ => ?_⟩
  intro sw head len held take hseal hfree
  have hpoll : pollMailbox s m = take (requestMark m len sw s.mb.mem) := pollMailbox_of_sealed hseal hfree
  refine ⟨fun hlen => ?long, fun hlen hcheck => ?bad, fun hlen hcheck => ?good⟩
  case long => rw [hpoll, requestMark, if_pos hlen]
  case bad => rw [hpoll, requestMark, if_neg (by omega), if_pos hcheck]
  case good => rw [hpoll, requestMark, if_neg (by omega), if_neg (by simpa using hcheck)]

/-! ## HELLO (R490, R492) -/

theorem startCall_eq_begun {via cmd i s} (h : (startCall via cmd i s).isSome = true) :
    startCall via cmd i s = some (begun via cmd i s) := by
  obtain ⟨b, hb⟩ := Option.isSome_iff_exists.mp h
  rw [begun, hb, Option.getD_some]

/-- R490: the level is min(MAX_LEVEL, 4), in numbers. -/
theorem helloLevel_eq (minL maxL : BitVec 8) : helloLevel minL maxL =
    if min maxL.toNat 4 < max minL.toNat 3 then none else some (BitVec.ofNat 8 (min maxL.toNat 4)) := by
  have hl : (if maxL ≤ 4 then maxL else 4) = BitVec.ofNat 8 (min maxL.toNat 4) := by
    split <;> bv_omega
  have hleast : (if 3 ≤ minL then minL else 3).toNat = max minL.toNat 3 := by
    split <;> bv_omega
  have hle : (if 3 ≤ minL then minL else 3) ≤ BitVec.ofNat 8 (min maxL.toNat 4) ↔
      ¬ min maxL.toNat 4 < max minL.toNat 3 := by
    rw [BitVec.le_def, hleast, BitVec.toNat_ofNat]
    omega
  simp only [helloLevel, hl, hle, ite_not]

/-- R492: the state with the coordinates of SETCOORD, if it sets them. -/
def helloCoord (setcoord : Bool) (c : Coord) (s : State) : State :=
  if setcoord then coordPorts { s with mb := { s.mb with coord := some c } } else s

theorem helloCoord_emits (setcoord : Bool) (c : Coord) (s : State) :
    Emits { s with mb := { s.mb with coord := if setcoord then some c else s.mb.coord } } (helloCoord setcoord c s) := by
  cases setcoord with
  | true => exact emits_coordPorts
  | false => exact .refl

/-- R490: the state with the level entered for the path's own mailbox. -/
def helloLeveled (l : BitVec 8) (s : State) : Via → State
  | .mailbox m => { s with mb := { s.mb with levels := s.mb.levels.set m.toNat l, hello := s.mb.hello.set m.toNat true } }
  | _ => s

theorem helloAct_eq (via : Via) (l : BitVec 8) (setcoord : Bool) (c : Coord) (s : State) :
    let r := helloLeveled l (helloCoord setcoord c s) via
    helloAct via l setcoord c s = respond via rOk [l.setWidth 64, identityWord r,
      pk [(0, 4, fwCode r.fw.state), (4, 1, b2n (basic r)), (5, 1, b2n r.mb.coord.isSome)]] r := by
  cases via <;> rfl

section Hello
variable {via : Via} {minL maxL : BitVec 8} {setcoord : Bool} {x dimx : BitVec 6} {y z dimy dimz : BitVec 5} {s b : State}
  (h : startCall via 0x0001 (.hello via minL maxL setcoord x y z dimx dimy dimz) s = some b)
include h

theorem exec_hello_of_no_level (hl : min maxL.toNat 4 < max minL.toNat 3) :
    exec (.hello via minL maxL setcoord x y z dimx dimy dimz) s = .next (respond via rVersion [3, 4] b) := by
  refine congrArg Host.Outcome.next ?_
  rw [h, helloLevel_eq, if_pos hl]

theorem exec_hello_of_level (hl : max minL.toNat 3 ≤ min maxL.toNat 4) (hwell : wellTaken via b = true)
    (hshut : helloShut b via = false)
    (hset : setcoord = true → holds .opPlatVen (whoOf b via) = true ∧ setcoordBad b ⟨x, y, z, dimx, dimy, dimz⟩ = false) :
    exec (.hello via minL maxL setcoord x y z dimx dimy dimz) s =
      .next (helloAct via (BitVec.ofNat 8 (min maxL.toNat 4)) setcoord ⟨x, y, z, dimx, dimy, dimz⟩ b) := by
  refine congrArg Host.Outcome.next ?_
  have hcode : firstCode [(helloShut b via || (setcoord && !holds .opPlatVen (whoOf b via)), rDenied),
      (setcoord && setcoordBad b ⟨x, y, z, dimx, dimy, dimz⟩, rBadArg)] = none := by
    refine firstCode_none _ ?_
    cases setcoord with
    | true => simp [hshut, hset rfl]
    | false => simp [hshut]
  rw [h, helloLevel_eq, if_neg (by omega)]
  simp only [hcode, judged_wellTaken hwell, Option.map_none]

end Hello

/-- Settles O11: HELLO by the level it negotiates; the level's state by the path, mailbox or not. -/
theorem helloSetsTheProtocolLevel : Obligations.HelloSetsTheProtocolLevel := by
  refine ⟨?_, fun _ _ => rfl⟩
  intro via minL maxL setcoord x dimx y z dimy dimz s i b l c hs
  have hb : startCall via 0x0001 i s = some b := startCall_eq_begun hs
  refine ⟨exec_hello_of_no_level hb, fun hl hwell hshut hset => ?_⟩
  have hcoord : Emits _ (helloCoord setcoord c b) := helloCoord_emits setcoord c b
  have hmb := hcoord.mb
  have hlevel : (BitVec.ofNat 8 l).setWidth 64 = wn l := by
    unfold wn
    bv_omega
  refine ⟨helloLeveled (BitVec.ofNat 8 l) (helloCoord setcoord c b) via, ?_, ?_⟩
  · rw [exec_hello_of_level hb hl hwell hshut hset, ← hlevel]
    exact congrArg Host.Outcome.next (helloAct_eq via _ setcoord c b)
  · cases via <;> simp [helloLeveled, hmb, hcoord.cores, hcoord.protect, hcoord.time]

end Sys2Proof.Machine
end

/-! # Capabilities, the event ring and contexts (R493, R496 to R500) -/
section
namespace Sys2Proof.Machine

/-! ## Host memory leaves the rest of the hub alone (R303) -/

theorem pumpHm_eq (n : Nat) (s : State) : pumpHm n s = { s with hm := (pumpHm n s).hm } := by
  induction n generalizing s with
  | zero => rfl
  | succ n ih =>
    unfold pumpHm
    split
    · split
      · exact ih _
      · rfl
    · rfl

/-- A transfer asked for changes the host memory's queues alone. -/
theorem hmAsk_eq (r : HmReq) (s : State) : hmAsk r s = { s with hm := (hmAsk r s).hm } := pumpHm_eq _ _

/-! ## CAPS and the event ring (R493, R498, R500) -/

section Caps
variable {via : Via} {s b : State}

theorem exec_capsSummary_runs (h : accepted via 0x0002 (.capsSummary via) true s = true)
    (hb : begun via 0x0002 (.capsSummary via) s = b) (hd : denied b via .everyone .sealedLevel = false) :
    exec (.capsSummary via) s = .next (respond via rOk (capsSummaryWords b via) b) :=
  congrArg Host.Outcome.next (command_runs_at h hb (by simp [hd]))

theorem exec_capsPresence_runs {first : BitVec 13} (h : accepted via 0x0002 (.capsPresence via first) true s = true)
    (hb : begun via 0x0002 (.capsPresence via first) s = b) (hd : denied b via .opPlatVen .sealedLevel = false) :
    exec (.capsPresence via first) s = .next (respond via rOk (pk [(0, 32, 8192), (32, 16, first.toNat)] ::
      pairWords ((List.range (min 1000 (8192 - first.toNat))).map fun k => presenceEntry b (first.toNat + k))) b) :=
  congrArg Host.Outcome.next (command_runs_at h hb (by simp [hd]))

theorem exec_capsIazan_runs (h : accepted via 0x0002 (.capsIazan via) true s = true)
    (hb : begun via 0x0002 (.capsIazan via) s = b) (hd : denied b via .opPlatVen .sealedLevel = false) :
    exec (.capsIazan via) s = .next (respond via rOk
      (pk [(32, 32, b.iz.lateRsp.toNat), (17, 15, b.iz.tracker.length), (0, 1, b2n b.iz.avoid)] ::
        b.iz.ports.flatMap portWords) b) :=
  congrArg Host.Outcome.next (command_runs_at h hb (by simp [hd]))

end Caps

/-- R498: the state in which EVENT_RING_SET has set the ring and abandoned its requests in flight. -/
def ringSet (base : Word) (log2 : BitVec 6) (enable : Bool) (s : State) : State :=
  let a := ringAbandon s
  { a with events := { a.events with
    base := (base >>> 12).setWidth 52, log2 := log2, enabled := enable, held := false
    write := if enable then 0 else a.events.write, read := if enable then 0 else a.events.read
    dropped := if enable then 0 else a.events.dropped, wait := if enable then some .control else none } }

/-- R498: with ENABLE the control block's offsets are asked to be written zero. -/
def ringCleared (base : Word) (enable : Bool) (s : State) : State :=
  if enable then hmAsk { purpose := .eventControl, cls := .ring, wr := true, addr := base, bytes := 24, data := [0, 0, 0] } s
  else s

theorem ringCleared_eq (base : Word) (enable : Bool) (s : State) :
    ringCleared base enable s = { s with hm := (ringCleared base enable s).hm } := by
  cases enable with
  | true => exact hmAsk_eq _ _
  | false => rfl

theorem exec_eventRingSet_runs {via : Via} {base : Word} {log2 : BitVec 6} {enable : Bool} {s b : State}
    (h : accepted via 0x0003 (.eventRingSet via base log2 enable) true s = true)
    (hb : begun via 0x0003 (.eventRingSet via base log2 enable) s = b) (hd : denied b via .opPlat .sealedLevel = false)
    (hbase : base.toNat % 4096 = 0) (hlo : 16 ≤ log2.toNat) (hhi : log2.toNat ≤ 26) :
    exec (.eventRingSet via base log2 enable) s =
      .next (respond via rOk [] (ringCleared base enable (ringSet base log2 enable b))) := by
  refine congrArg Host.Outcome.next (command_runs_at h hb ?_)
  simp [hd, hbase, hlo, hhi]

theorem nextEvent_of_queue {s : State} {e : Event} {q : List Event} (ho : s.events.overflow = none)
    (hq : s.events.queue = e :: q) :
    nextEvent s = some (e, { s with events := { s.events with queue := q } }) := by
  simp only [nextEvent, ho, hq]

theorem nextEvent_of_empty {s : State} (ho : s.events.overflow = none) (hq : s.events.queue = []) : nextEvent s = none := by
  simp only [nextEvent, ho, hq]

/-- R500: the oldest event is asked to be written past WRITE and leaves the queue. -/
theorem exec_eventRingWrite_of_event {s : State} {e : Event} {q : List Event} (hs : serving s = true)
    (hon : s.events.enabled = true) (hheld : s.events.held = false) (hw : s.events.wait = none) (hroom : ringHasRoom s = true)
    (ho : s.events.overflow = none) (hq : s.events.queue = e :: q) :
    exec .eventRingWrite s = .next (hmAsk
      { purpose := .eventEntry e.line, cls := .ring, wr := true, addr := wn (ringBase s + 128 + s.events.write)
        bytes := 128, data := eventWords e }
      { s with events := { s.events with queue := q, wait := some (.entry e.line), flying := some e } }) := by
  refine congrArg Host.Outcome.next ((if_pos (by simp [hs, hon, hheld, hw, hroom])).trans ?_)
  rw [nextEvent_of_queue ho hq]

theorem exec_eventRingWrite_of_empty {s : State} (ho : s.events.overflow = none) (hq : s.events.queue = []) :
    exec .eventRingWrite s = .next s := by
  refine congrArg Host.Outcome.next ?_
  rw [nextEvent_of_empty ho hq, ite_self]

/-- Settles O12: CAPS and EVENT_RING_SET run once their checks pass; EVENT_RING_WRITE by the event that is next. -/
theorem capabilityAndEventRingCommandsComplete : Obligations.CapabilityAndEventRingCommandsComplete := by
  refine ⟨⟨fun _ _ h => exec_capsSummary_runs h rfl, fun _ _ _ h => exec_capsPresence_runs h rfl,
      fun _ _ h => exec_capsIazan_runs h rfl, fun _ _ _ enable _ h hd hbase hlo hhi => ?_⟩,
    fun _ _ _ => exec_eventRingWrite_of_event, fun _ => exec_eventRingWrite_of_empty,
    fun read s hs hon hfits => congrArg Host.Outcome.next (if_pos (by simp [hs, hon, hfits]))⟩
  refine ⟨_, exec_eventRingSet_runs h rfl hd hbase hlo hhi, ?_⟩
  rw [ringCleared_eq]
  cases enable <;> simp [ringSet, ringAbandon, hmCancel]

/-! ## CTX_DEFINE and CTX_RETIRE (R496, R497, R513) -/

theorem tget_append {α : Type} (k : Nat) (t u : Tab α) : tget k (t ++ u) = (tget k t).or (tget k u) := by
  induction t with
  | nil => rfl
  | cons q t ih =>
    obtain ⟨n, v⟩ := q
    simp only [List.cons_append, tget]
    split
    · rfl
    · exact ih

theorem tget_filter_key {α : Type} (keep : Nat → Bool) (k : Nat) (t : Tab α) :
    tget k (t.filter fun q => keep q.1) = if keep k = true then tget k t else none := by
  induction t with
  | nil => simp [tget]
  | cons q t ih =>
    obtain ⟨n, v⟩ := q
    by_cases hnk : n = k
    · subst hnk
      by_cases hkeep : keep n = true
      · simp [List.filter, tget, hkeep]
      · simp [List.filter, hkeep, ih]
    · by_cases hkeep : keep n = true
      · simp [List.filter, tget, hkeep, hnk, ih]
      · simp [List.filter, tget, hkeep, hnk, ih]

/-- A run of fresh entries holds each of its contexts, all alike. -/
theorem tget_freshCtxs (f n k : Nat) (attr : Word) :
    tget k (freshCtxs f n attr) = if f ≤ k ∧ k < f + n then some { attr := attr } else none := by
  unfold freshCtxs
  induction n with
  | zero => exact (if_neg (by omega)).symm
  | succ n ih =>
    rw [List.range_succ, List.map_append, tget_append, ih]
    by_cases hin : f ≤ k ∧ k < f + n
    · rw [if_pos hin, if_pos (by omega), Option.some_or]
    · rw [if_neg hin, Option.none_or]
      by_cases hlast : f + n = k
      · rw [if_pos (by omega)]
        exact if_pos hlast
      · rw [if_neg (by omega)]
        exact if_neg hlast

/-- R496: the table in which the contexts of a range are defined anew. -/
def ctxsDefined (f n : Nat) (attr : Word) (t : Tab Ctx) : Tab Ctx :=
  (t.filter fun p => decide (p.1 < f)) ++ freshCtxs f n attr ++ (t.filter fun p => decide (f + n ≤ p.1))

theorem tget_ctxsDefined (f n k : Nat) (attr : Word) (t : Tab Ctx) :
    tget k (ctxsDefined f n attr t) = if f ≤ k ∧ k < f + n then some { attr := attr } else tget k t := by
  unfold ctxsDefined
  rw [tget_append, tget_append, tget_freshCtxs, tget_filter_key (fun m => decide (m < f)),
    tget_filter_key (fun m => decide (f + n ≤ m))]
  by_cases hin : f ≤ k ∧ k < f + n
  · rw [if_pos hin, if_pos hin, if_neg (by simpa using hin.1)]
    rfl
  · rw [if_neg hin, if_neg hin, Option.or_none]
    by_cases hbelow : k < f
    · rw [if_pos (by simpa using hbelow), if_neg (by simp; omega), Option.or_none]
    · rw [if_neg (by simpa using hbelow), if_pos (by simp; omega), Option.none_or]

section CtxDefine
variable {via : Via} {first : BitVec 16} {count : BitVec 17} {attr : Word} {s b : State}

theorem exec_ctxDefine_runs (h : accepted via 0x0010 (.ctxDefine via first count attr) false s = true)
    (hb : begun via 0x0010 (.ctxDefine via first count attr) s = b) (hd : denied b via .opPlat .sealedLevel = false)
    (hsecure : bit attr 8 = true → (b.fuses.lifecycle = .provision ∨ b.fuses.lifecycle = .deployed) ∧ b.fuses.redactKey ≠ none)
    (hpriv : bit attr 9 = true → fieldB 8 attr 0 = 0) (hdom : domainExists b (fieldB 8 attr 0) = true) (hpos : 0 < count.toNat)
    (hend : first.toNat + count.toNat ≤ 65536) (hnone : definedIn b first.toNat count.toNat = []) :
    exec (.ctxDefine via first count attr) s = .next (respond via rOk [] { b with
      ctxs := ctxsDefined first.toNat count.toNat (pk [(0, 10, attr.toNat)]) b.ctxs }) := by
  refine congrArg Host.Outcome.next (command_runs_at h hb ?_)
  simp only [List.mem_cons, List.not_mem_nil, or_false, forall_eq_or_imp, forall_eq]
  refine ⟨hd, Bool.and_eq_false_imp.mpr fun hs => ?_, ?_, by simp [hnone]⟩
  · obtain ⟨hlife, hkey⟩ := hsecure hs
    have hkey : b.fuses.redactKey.isNone = false := Option.isNone_eq_false_iff.mpr (Option.isSome_iff_ne_none.mpr hkey)
    rcases hlife with hlife | hlife <;> simp [hlife, hkey]
  · have hpriv : (bit attr 9 && decide (fieldB 8 attr 0 ≠ 0)) = false := by simpa using hpriv
    simp only [hpriv, hdom, Bool.not_true, Bool.or_false, decide_eq_false_iff_not]
    omega

/-- R497: with a defined context in the range, the defined ones are retired; the answer counts the others. -/
theorem exec_ctxRetire_runs (h : accepted via 0x0011 (.ctxRetire via first count) false s = true)
    (hb : begun via 0x0011 (.ctxRetire via first count) s = b) (hd : denied b via .opPlat .sealedLevel = false)
    (hend : first.toNat + count.toNat ≤ 65536) (hsome : definedIn b first.toNat count.toNat ≠ []) :
    let ds := definedIn b first.toNat count.toNat
    exec (.ctxRetire via first count) s = .next (if ds.length = count.toNat then respond via rOk [] (retireCtxs ds b)
      else respond via rPartial [wn (count.toNat - ds.length)] (retireCtxs ds b)) := by
  refine congrArg Host.Outcome.next (command_runs_at h hb ?_)
  have hpos : count.toNat ≠ 0 := by
    refine fun hzero => hsome ?_
    simp only [definedIn, List.map_eq_nil_iff, List.filter_eq_nil_iff, Bool.and_eq_true, decide_eq_true_eq]
    omega
  simp only [List.mem_cons, List.not_mem_nil, or_false, forall_eq_or_imp, forall_eq]
  exact ⟨hd, by simp only [decide_eq_false_iff_not]; omega, by simpa using hsome⟩

end CtxDefine

/-- Settles O13: each command runs once its checks pass, and its table is read key by key. -/
theorem contextCommandsComplete : Obligations.ContextCommandsComplete :=
  ⟨fun _ _ _ _ _ h hd hsecure hpriv hdom hpos hend hnone =>
      ⟨_, exec_ctxDefine_runs h rfl hd hsecure hpriv hdom hpos hend hnone, fun k => tget_ctxsDefined _ _ k _ _⟩,
    fun _ _ _ _ h hd hend hsome => ⟨_, exec_ctxRetire_runs h rfl hd hend hsome, fun k => by
      rw [tget_tmap]⟩⟩

end Sys2Proof.Machine
end

/-! # Trigger sets and the channel map (Table 06.10, R365, R366, R375) -/
section
namespace Sys2Proof.Machine

/-! ## TRIG_SET -/

section TrigSet
variable {via : Via} {a m : UnitAddr} {s b : State}

theorem exec_trigSetLoad_runs {dsel : BitVec 3} {block : List Word}
    (h : accepted via 0x0023 (.trigSetLoad via a m dsel block) false s = true)
    (hb : begun via 0x0023 (.trigSetLoad via a m dsel block) s = b) :
    let w : LeafBlock := { words := block }
    let own : LeafBlock := { words := block, owner := whoOf b via, mailbox := !isNarrow via, dsel := dsel }
    let hard := (List.range 4).any fun q => stopsBy w q && bit (seqWord w q 0) 54
    let wide := (List.range 4).any fun q => bit (seqWord w q 0) 63 && decide (bits (seqWord w q 0) 53 52 = 2)
    let r := (clustersIn b a m).foldl (fun s cl => loadBlock own cl s) b
    let away := (clustersIn b a m).filter fun cl => awayWatched r cl 0xFFFF
    denied b via .opPlatVen (if hard then .invasive else .observe) = false → setBadArg b a m 2 = false →
    blockBad b w = false → setBadUnit b a m 2 = false → (wide = true → b.time.diam ≠ none) → slotsShort w = false →
    exec (.trigSetLoad via a m dsel block) s = .next (if away = [] then respond via rOk [] r
      else respond via rPartial (away.map fun cl => (fullAddr r (clusterAddr cl)).setWidth 64) r) := by
  intro w own hard wide r away hd harg hblock hunit hwide hslots
  refine congrArg Host.Outcome.next ((command_runs_at h hb ?_).trans (if_congr List.isEmpty_iff rfl rfl))
  have hdiam : (b.time.diam.isNone && wide) = false := by
    cases hw : wide with
    | true => simpa [Option.isSome_iff_ne_none] using hwide hw
    | false => exact Bool.and_false _
  simp only [List.mem_cons, List.not_mem_nil, or_false, forall_eq_or_imp, forall_eq]
  exact ⟨hd, Bool.or_eq_false_iff.mpr ⟨harg, hblock⟩, hunit, hdiam, hslots⟩

theorem exec_trigSetClear_runs (h : accepted via 0x0023 (.trigSetClear via a m) false s = true)
    (hb : begun via 0x0023 (.trigSetClear via a m) s = b) (hd : denied b via .opPlatVen .observe = false)
    (harg : setBadArg b a m 2 = false) (hunit : setBadUnit b a m 2 = false) :
    exec (.trigSetClear via a m) s = .next (respond via rOk [] ((clustersIn b a m).foldl (fun s cl => loadBlock
      { words := List.replicate 196 0, owner := whoOf b via, mailbox := !isNarrow via } cl s) b)) :=
  congrArg Host.Outcome.next (command_runs_at h hb (by simp [hd, harg, hunit]))

theorem exec_trigSetChannel_runs {ch : BitVec 3} {ha hm : UnitAddr} {enable : Bool}
    (h : accepted via 0x0023 (.trigSetChannel via ch a m ha hm enable) false s = true)
    (hb : begun via 0x0023 (.trigSetChannel via ch a m ha hm enable) s = b) (hd : denied b via .opPlatVen .observe = false)
    (harg : setBadArg b a m 2 = false) (hunit : setBadUnit b a m 2 = false)
    (hchips : enable = true → vendorAway b via ha hm = false ∧ setBadArg b ha hm 4 true = false ∧ setBadUnit b ha hm 4 = false) :
    let c : Channel := { caddr := a, cmask := m, loaded := true, haddr := ha, hmask := hm, chips := enable }
    let r := { b with triggers := { b.triggers with channels := b.triggers.channels.set ch.toNat c } }
    let away := if enable then chipsShort r ha hm else []
    exec (.trigSetChannel via ch a m ha hm enable) s = .next (if away = [] then respond via rOk [] r
      else respond via rPartial (away.map (·.setWidth 64)) r) := by
  intro c r away
  refine congrArg Host.Outcome.next ((command_runs_at h hb ?_).trans (if_congr List.isEmpty_iff rfl rfl))
  cases enable with
  | true => simp [hd, harg, hunit, hchips rfl]
  | false => simp [hd, harg, hunit]

theorem exec_trigSetStatus_runs (h : accepted via 0x0023 (.trigSetStatus via a 0xFFFFFF80) false s = true)
    (hb : begun via 0x0023 (.trigSetStatus via a 0xFFFFFF80) s = b) (hd : denied b via .opPlatVen .observe = false)
    (harg : setBadArg b a 0xFFFFFF80 2 = false) (hunit : setBadUnit b a 0xFFFFFF80 2 = false) :
    let cl := ((clustersIn b a 0xFFFFFF80).head?).getD 0
    exec (.trigSetStatus via a 0xFFFFFF80) s = .next (respond via rOk
      (trigStatus (trigOf (if loadWaits b cl then switchBlock cl (newestBlock b cl) b else b) cl)) b) := by
  refine congrArg Host.Outcome.next (command_runs_at h hb ?_)
  simp only [List.mem_cons, List.not_mem_nil, or_false, forall_eq_or_imp, forall_eq]
  exact ⟨hd, Bool.or_eq_false_iff.mpr ⟨harg, by simp⟩, hunit⟩

end TrigSet

/-- Settles O15: each OP of TRIG_SET runs once its checks pass. -/
theorem triggerSetCommandsComplete : Obligations.TriggerSetCommandsComplete :=
  ⟨fun _ _ _ _ _ _ h => exec_trigSetLoad_runs h rfl, fun _ _ _ _ h => exec_trigSetClear_runs h rfl,
    fun _ _ _ _ _ _ _ _ h => exec_trigSetChannel_runs h rfl, fun _ _ _ h => exec_trigSetStatus_runs h rfl⟩

/-! ## CHANMAP_LOAD (R365, R366, R375) -/

theorem outOfRange_of_in_range {v lo hi : Nat} (h : v = 0 ∨ lo ≤ v ∧ v ≤ hi) : outOfRange v lo hi = false := by
  simp only [outOfRange, decide_eq_false_iff_not]
  omega

section Chanmap
variable {via : Via} {first : BitVec 18} {count : BitVec 19} {s b : State}

theorem exec_chanmapLoad_inline {addr : Word} {data : List Word}
    (h : accepted via 0x0026 (.chanmapLoad via true addr first count data) false s = true)
    (hb : begun via 0x0026 (.chanmapLoad via true addr first count data) s = b)
    (hd : denied b via .opPlat .sealedLevel = false) (hrange : mapRangeBad first count = false) (hload : b.hang.load = none)
    (hcount : count.toNat ≤ 448) (hlen : data.length = count.toNat) :
    let r := bumpMapver (writeMapFrom first.toNat data b)
    exec (.chanmapLoad via true addr first count data) s = .next (respond via rOk [r.hang.mapver.setWidth 64] r) :=
  congrArg Host.Outcome.next (command_runs_at h hb (by simp [hd, hrange, hload, hcount, hlen]))

theorem exec_chanmapLoad_from_host {addr : Word} {data : List Word}
    (h : accepted via 0x0026 (.chanmapLoad via false addr first count data) false s = true)
    (hb : begun via 0x0026 (.chanmapLoad via false addr first count data) s = b)
    (hd : denied b via .opPlat .sealedLevel = false) (hrange : mapRangeBad first count = false) (hload : b.hang.load = none) :
    exec (.chanmapLoad via false addr first count data) s = .next (loadPiece { b with hang := { b.hang with
      load := some { via := via, next := first.toNat, left := count.toNat, addr := addr.toNat } } }) :=
  congrArg Host.Outcome.next (command_runs_at h hb (by simp [hd, hrange, hload]))

/-- The channel is one of `count` from `first` on. -/
def mapNames (first : BitVec 18) (count : BitVec 19) (k : Nat) : Bool := decide (first.toNat ≤ k ∧ k < first.toNat + count.toNat)

/-- R365: the state in which the named entries are no longer valid, and MAPVER has advanced. -/
def mapCleared (first : BitVec 18) (count : BitVec 19) (s : State) : State :=
  bumpMapver { s with hang := { s.hang with
    map := (s.hang.map.map fun q => if mapNames first count q.1 then (q.1, q.2 &&& 0x7FFFFFFFFFFFFFFF) else q).filter
      fun q => q.2 ≠ 0
    mapBad := s.hang.mapBad.filter fun k => !mapNames first count k } }

theorem exec_chanmapClear_runs (h : accepted via 0x0026 (.chanmapClear via first count) false s = true)
    (hb : begun via 0x0026 (.chanmapClear via first count) s = b) (hd : denied b via .opPlat .sealedLevel = false)
    (hrange : mapRangeBad first count = false) :
    let r := mapCleared first count b
    exec (.chanmapClear via first count) s = .next (respond via rOk [r.hang.mapver.setWidth 64] r) :=
  congrArg Host.Outcome.next (command_runs_at h hb (by simp [hd, hrange]))

theorem mapCleared_not_valid {q : Nat × Word} (hq : q ∈ (mapCleared first count s).hang.map)
    (hin : mapNames first count q.1 = true) : bit q.2 63 = false := by
  obtain ⟨hmem, -⟩ := List.mem_filter.mp hq
  obtain ⟨p, -, rfl⟩ := List.mem_map.mp hmem
  by_cases hp : mapNames first count p.1 = true
  · rw [if_pos hp]
    change (p.2 &&& _).getLsbD 63 = false
    rw [BitVec.getLsbD_and]
    exact Bool.and_false _
  · rw [if_neg hp] at hin
    exact absurd hin hp

theorem mapCleared_keeps {q : Nat × Word} (hq : q ∈ s.hang.map) (hset : q.2 ≠ 0) (hout : mapNames first count q.1 = false) :
    q ∈ (mapCleared first count s).hang.map :=
  List.mem_filter.mpr ⟨List.mem_map.mpr ⟨q, hq, by rw [hout]; rfl⟩, by simpa using hset⟩

theorem mapCleared_not_bad {k : Nat} (hk : k ∈ (mapCleared first count s).hang.mapBad) : mapNames first count k = false := by
  obtain ⟨-, hout⟩ := List.mem_filter.mp hk
  simpa using hout

theorem exec_chanmapConfig_runs {knots : BitVec 2} {blockGt period : BitVec 32} {progSweeps : BitVec 16} {actions : BitVec 3}
    {actWait : BitVec 32}
    (h : accepted via 0x0026 (.chanmapConfig via knots blockGt period progSweeps actions actWait) false s = true)
    (hb : begun via 0x0026 (.chanmapConfig via knots blockGt period progSweeps actions actWait) s = b)
    (hd : denied b via .opPlat .sealedLevel = false) (hknots : knots ≠ 3)
    (hblock : blockGt = 0 ∨ 4000 ≤ blockGt.toNat ∧ blockGt.toNat ≤ 40000000)
    (hperiod : period = 0 ∨ 1000000 ≤ period.toNat ∧ period.toNat ≤ 400000000)
    (hwait : actWait = 0 ∨ 4000000 ≤ actWait.toNat ∧ actWait.toNat ≤ 4000000000)
    (habort : (actions.getLsbD 1 && actions.getLsbD 2) = false) (hdump : actions.getLsbD 0 = true → (regionOf b 0).size ≠ 0) :
    exec (.chanmapConfig via knots blockGt period progSweeps actions actWait) s =
      .next (respond via rOk [] { b with hang := { b.hang with
        knots := if knots = 0 then b.hang.knots else decide (knots = 2)
        blockGt := keepZero blockGt.toNat b.hang.blockGt, period := keepZero period.toNat b.hang.period
        progSweeps := keepZero progSweeps.toNat b.hang.progSweeps, actions := actions
        actWait := keepZero actWait.toNat b.hang.actWait } }) := by
  refine congrArg Host.Outcome.next (command_runs_at h hb ?_)
  have hblock := outOfRange_of_in_range (hblock.imp_left (congrArg BitVec.toNat))
  have hperiod := outOfRange_of_in_range (hperiod.imp_left (congrArg BitVec.toNat))
  have hwait := outOfRange_of_in_range (hwait.imp_left (congrArg BitVec.toNat))
  simp only [List.mem_cons, List.not_mem_nil, or_false, forall_eq_or_imp, forall_eq]
  refine ⟨hd, ?_⟩
  simp only [hblock, hperiod, hwait, habort, hknots, decide_false, Bool.or_self, Bool.false_or]
  simpa using hdump

/-- A parameter of CONFIG that is zero leaves the setting as it is. -/
theorem keepZero_toNat {w : Nat} (v : BitVec w) (old : Nat) : keepZero v.toNat old = if v = 0 then old else v.toNat :=
  if_congr (by simp [BitVec.toNat_eq]) rfl rfl

theorem exec_chanmapReport_runs {hangId : BitVec 32} {first : BitVec 16} {r : HangReport}
    (h : accepted via 0x0026 (.chanmapReport via hangId first) false s = true)
    (hb : begun via 0x0026 (.chanmapReport via hangId first) s = b) (hd : denied b via .opPlat .sealedLevel = false)
    (hr : (b.hang.reports.find? fun r => r.id == hangId) = some r) (hfirst : first = 0 ∨ first.toNat < r.entries.length / 3) :
    exec (.chanmapReport via hangId first) s =
      .next (respond via rOk (hangWords b r ++ (r.entries.drop (3 * first.toNat)).take 438) b) := by
  refine congrArg Host.Outcome.next ((command_runs_at h hb ?_).trans ?_)
  · simpa [hd, hr] using Decidable.or_iff_not_imp_left.mp hfirst
  · simp only [hr]

theorem exec_chanmapStatus_runs (h : accepted via 0x0026 (.chanmapStatus via) false s = true)
    (hb : begun via 0x0026 (.chanmapStatus via) s = b) (hd : denied b via .opPlat .sealedLevel = false) :
    exec (.chanmapStatus via) s = .next (respond via rOk (walkerWords b) b) :=
  congrArg Host.Outcome.next (command_runs_at h hb (by simp [hd]))

end Chanmap

/-- Settles O17: each OP of CHANMAP_LOAD runs once its checks pass, LOAD by where its entries come from. -/
theorem channelMapCommandsComplete : Obligations.ChannelMapCommandsComplete := by
  refine ⟨fun _ inl _ _ _ _ _ h => ?load, fun _ first count s h => ?clear,
    fun _ knots blockGt period progSweeps _ actWait _ h => ?config,
    fun _ _ _ _ _ h => exec_chanmapReport_runs h rfl, fun _ _ h => exec_chanmapStatus_runs h rfl⟩
  case load =>
    intro b hd hrange hload
    refine ⟨fun hinl hcount hlen => ?_, fun hinl => ?_⟩
    · subst hinl
      exact exec_chanmapLoad_inline h rfl hd hrange hload hcount hlen
    · subst hinl
      exact exec_chanmapLoad_from_host h rfl hd hrange hload
  case clear =>
    intro b hd hrange
    refine ⟨mapCleared first count b, exec_chanmapClear_runs h rfl hd hrange,
      fun q hq hlo hhi => mapCleared_not_valid hq (decide_eq_true ⟨hlo, hhi⟩),
      fun q hq hset hout => mapCleared_keeps hq hset (decide_eq_false hout),
      fun k hk => of_decide_eq_false (mapCleared_not_bad hk), rfl⟩
  case config =>
    intro b hd hknots hblock hperiod hwait habort hdump
    exact ⟨_, exec_chanmapConfig_runs h rfl hd hknots hblock hperiod hwait habort hdump, rfl, keepZero_toNat blockGt _,
      keepZero_toNat period _, keepZero_toNat progSweeps _, rfl, keepZero_toNat actWait _, rfl, rfl, rfl⟩

end Sys2Proof.Machine
end

/-! # Self test and policy (R419, R421, R423, R424) -/
section
namespace Sys2Proof.Machine

/-! ## TEST_LEND, TEST_REQUEST STATUS and AUTOFENCE_POLICY -/

section Policy
variable {via : Via} {a m : UnitAddr} {s b : State}

/-- R419: LEND marks the cores that can be lent and names the others. -/
theorem exec_testLend_runs (h : accepted via 0x0055 (.testLend via a m) false s = true)
    (hb : begun via 0x0055 (.testLend via a m) s = b) :
    let cs := coresIn b a m
    let ok := cs.filter fun c => ((coreOf b c).map lendable).getD false
    let no := cs.filter fun c => !decide (c ∈ ok)
    let r := modCores ok (fun co => { co with lent := true }) b
    levelThree b via = false → denied b via .opPlatVen .sealedLevel = false → setBadArg b a m 1 = false →
    setBadUnit b a m 1 = false → ok ≠ [] →
    exec (.testLend via a m) s = .next (if no = [] then respond via rOk [] r
      else respond via rPartial (no.map coreWord) r) := by
  intro cs ok no r hl hd harg hunit hok
  refine congrArg Host.Outcome.next ((command_runs_at h hb (by simp [hl, hd, harg, hunit])).trans ?_)
  exact ite_congr rfl (fun _ => rfl) fun _ => if_neg hok

/-- R419: RECLAIM clears the mark of the cores not under test. -/
theorem exec_testReclaim_runs (h : accepted via 0x0055 (.testReclaim via a m) false s = true)
    (hb : begun via 0x0055 (.testReclaim via a m) s = b) :
    let cs := coresIn b a m
    let no := cs.filter fun c => underTest b c
    let r := modCores (cs.filter fun c => !decide (c ∈ no)) (fun co => { co with lent := false }) b
    levelThree b via = false → denied b via .opPlatVen .sealedLevel = false → setBadArg b a m 1 = false →
    setBadUnit b a m 1 = false →
    exec (.testReclaim via a m) s = .next (if no = [] then respond via rOk [] r
      else respond via rPartial (no.map coreWord) r) := by
  intro cs no r hl hd harg hunit
  exact congrArg Host.Outcome.next (command_runs_at h hb (by simp [hl, hd, harg, hunit]))

theorem exec_testSlotConfig_runs {maxChip : BitVec 5} {maxCluster : BitVec 2}
    (h : accepted via 0x0055 (.testSlotConfig via maxChip maxCluster) false s = true)
    (hb : begun via 0x0055 (.testSlotConfig via maxChip maxCluster) s = b) (hl : levelThree b via = false)
    (hd : denied b via .opPlatVen .sealedLevel = false) (hchip : 1 ≤ maxChip.toNat) (hchip' : maxChip.toNat ≤ 16)
    (hcluster : 1 ≤ maxCluster.toNat) (hcluster' : maxCluster.toNat ≤ 2) :
    exec (.testSlotConfig via maxChip maxCluster) s = .next (respond via rOk [] { b with
      test := { b.test with maxChip := maxChip.toNat, maxCluster := maxCluster.toNat } }) := by
  refine congrArg Host.Outcome.next (command_runs_at h hb ?_)
  have hrange : decide (maxChip = 0 ∨ 16 < maxChip.toNat ∨ maxCluster = 0 ∨ 2 < maxCluster.toNat) = false := by
    rw [decide_eq_false_iff_not]
    bv_omega
  simp only [List.mem_cons, List.not_mem_nil, or_false, forall_eq_or_imp, forall_eq]
  exact ⟨hl, hd, hrange⟩

theorem exec_testStatus_runs {id : BitVec 16} {run : TestRun} (h : accepted via 0x0054 (.testStatus via id) false s = true)
    (hb : begun via 0x0054 (.testStatus via id) s = b) :
    let js := openJobs b id
    let p := (js.filter fun j => decide (j.phase = .pending)).length
    levelThree b via = false → denied b via .opPlatVen .sealedLevel = false → statusRun b id = some run →
    exec (.testStatus via id) s = .next (respond via rOk ([wn p, wn (js.length - p)] ++ run.counts.map wn) b) := by
  intro js p hl hd hrun
  refine congrArg Host.Outcome.next ((command_runs_at h hb (by simp [hl, hd, hrun])).trans ?_)
  rw [hrun]
  rfl

theorem exec_autofenceSlot_runs {p : SlotParams} (h : accepted via 0x0053 (.autofenceSlot via p) false s = true)
    (hb : begun via 0x0053 (.autofenceSlot via p) s = b) (hd : denied b via .opPlatVen .sealedLevel = false)
    (hp : p.enable = true → setBadArg b p.addr p.mask 1 = false ∧ setBadUnit b p.addr p.mask 1 = false ∧ p.threshold ≠ 0 ∧
      4000 ≤ p.window.toNat ∧ p.window.toNat ≤ 4000000000 ∧ p.action ≠ 3) :
    exec (.autofenceSlot via p) s = .next (respond via rOk [] (restartSlot p.slot.toNat { b with
      autofence := { b.autofence with slots := b.autofence.slots.set p.slot.toNat (if p.enable then some p else none) } })) := by
  refine congrArg Host.Outcome.next (command_runs_at h hb ?_)
  cases hen : p.enable with
  | false => simp [hd]
  | true =>
    obtain ⟨harg, hunit, hthreshold, hlo, hhi, haction⟩ := hp hen
    have hrange : decide (p.threshold = 0 ∨ p.window.toNat < 4000 ∨ 4000000000 < p.window.toNat ∨ p.action = 3) = false := by
      simp only [hthreshold, haction, false_or, or_false, decide_eq_false_iff_not]
      omega
    simp only [List.mem_cons, List.not_mem_nil, or_false, forall_eq_or_imp, forall_eq, harg, hunit, hrange]
    exact ⟨hd, rfl, rfl⟩

theorem exec_autofenceLimits_runs {chipMax : BitVec 14} {partMax : BitVec 11} {rate : BitVec 16}
    (h : accepted via 0x0053 (.autofenceLimits via chipMax partMax rate) false s = true)
    (hb : begun via 0x0053 (.autofenceLimits via chipMax partMax rate) s = b) (hd : denied b via .opPlatVen .sealedLevel = false)
    (hchip : chipMax.toNat ≤ 8192) (hpart : partMax.toNat ≤ 1024) :
    exec (.autofenceLimits via chipMax partMax rate) s = .next (respond via rOk [] { b with autofence := { b.autofence with
      chipMax := chipMax.toNat, partMax := partMax.toNat, rate := rate.toNat } }) :=
  congrArg Host.Outcome.next (command_runs_at h hb (by simp [hd, hchip, hpart]))

theorem exec_autofenceStatus_runs (h : accepted via 0x0053 (.autofenceStatus via) false s = true)
    (hb : begun via 0x0053 (.autofenceStatus via) s = b) (hd : denied b via .opPlatVen .sealedLevel = false) :
    exec (.autofenceStatus via) s = .next (respond via rOk (autofenceWords b) b) :=
  congrArg Host.Outcome.next (command_runs_at h hb (by simp [hd]))

end Policy

/-- Settles O22: each command runs once its checks pass. -/
theorem selfTestAndPolicyCommandsComplete : Obligations.SelfTestAndPolicyCommandsComplete :=
  ⟨fun _ _ _ _ h => exec_testLend_runs h rfl, fun _ _ _ _ h => exec_testReclaim_runs h rfl,
    fun _ _ _ _ h => exec_testSlotConfig_runs h rfl, fun _ _ _ _ h => exec_testStatus_runs h rfl,
    fun _ _ _ h => exec_autofenceSlot_runs h rfl, fun _ _ _ _ _ h => exec_autofenceLimits_runs h rfl,
    fun _ _ h => exec_autofenceStatus_runs h rfl⟩

/-! ## TEST_REQUEST and the scheduler (R421, R423, R424) -/

/-- R421: the state in which a request is entered with a job for each core of `fit`. -/
def testEntered (via : Via) (p : TestParams) (fit : List Nat) (s : State) : State :=
  let rs := { id := s.test.next, owner := ownerOf s via } :: s.test.runs
  { s with test := { s.test with
    next := nextSeq s.test.next
    jobs := s.test.jobs ++ fit.map (fun c => ({
      core := c, test := s.test.next, deadline := if p.deadline = 0 then hubGt s + 2 ^ 40 else p.deadline.toNat
      patterns := p.patterns.toNat, seed := p.seed, expect := p.expect } : Job))
    runs := rs.take 16 ++ (rs.drop 16).filter fun r => !r.complete } }

section TestRequest
variable {via : Via} {s b : State}

theorem exec_testRequest_runs {p : TestParams} (h : accepted via 0x0054 (.testRequest via p) false s = true)
    (hb : begun via 0x0054 (.testRequest via p) s = b) :
    let d := p.deadline.toNat
    let cs := coresIn b p.addr p.mask
    levelThree b via = false → denied b via .opPlatVen .sealedLevel = false → setBadArg b p.addr p.mask 1 = false →
    1 ≤ p.patterns.toNat → p.patterns.toNat ≤ 4096 → (d = 0 ∨ hubGt b + 1000 ≤ d ∧ d ≤ hubGt b + 2 ^ 40) →
    setBadUnit b p.addr p.mask 1 = false →
    let fit := cs.filter fun c => (atOnce b p c).isNone
    let id := b.test.next
    b.test.jobs.length + fit.length ≤ 1024 →
    exec (.testRequest via p) s = .next (testComplete id (cs.foldl
      (fun s c => match atOnce s p c with
        | none => s
        | some k => testResult c id k 0 false false 0 0 (hubGt b) s)
      (respond via rPending [id.setWidth 64] (testEntered via p fit b)))) := by
  intro d cs hl hd harg hlo hhi hdeadline hunit fit id hroom
  refine congrArg Host.Outcome.next (command_runs_at h hb ?_)
  have hzero : p.patterns ≠ 0 := by rintro hz; simp [hz] at hlo
  have hpatterns : decide (p.patterns = 0 ∨ 4096 < p.patterns.toNat) = false := by
    rw [decide_eq_false_iff_not]
    exact fun hbad => hbad.elim hzero (by omega)
  have hdeadline : decide (d ≠ 0 ∧ (d < hubGt b + 1000 ∨ hubGt b + 2 ^ 40 < d)) = false := by
    rw [decide_eq_false_iff_not]
    rintro ⟨hset, hout⟩
    obtain ⟨hlo, hhi⟩ := hdeadline.resolve_left hset
    exact hout.elim (Nat.not_lt.mpr hlo) (Nat.not_lt.mpr hhi)
  simp only [List.mem_cons, List.not_mem_nil, or_false, forall_eq_or_imp, forall_eq]
  exact ⟨hl, hd, by simp only [harg, hpatterns, Bool.or_self, Bool.false_or]; exact hdeadline, hunit,
    decide_eq_false (not_lt.mpr hroom)⟩

/-- R421: a CANCEL ends the pending jobs STARVED and closes the running ones ABORTED. -/
theorem exec_testCancel_runs {id : BitVec 16} {run : TestRun} (h : accepted via 0x0054 (.testCancel via id) false s = true)
    (hb : begun via 0x0054 (.testCancel via id) s = b) (hl : levelThree b via = false)
    (hd : denied b via .opPlatVen .sealedLevel = false) (hrun : testRun b id = some run) (hopen : run.complete = false) :
    exec (.testCancel via id) s = .next ((openJobs b id).foldl
      (fun s j => match j.phase with
        | .pending => endJob j 2 0 false false 0 0 s
        | .running g => if coreAdvFull s j.core then endJob j 3 0 true true 0 g (leaveScan true j.core s)
          else requestCoreReset j.core (enterResetting true j.core (leaveScan true j.core { s with test := { s.test with
            jobs := modFirst (fun q => q == j) (fun q => { q with phase := .closing g 3 0 }) s.test.jobs } }))
        | .closing _ _ _ => s) (respond via rOk [] b)) :=
  congrArg Host.Outcome.next (command_runs_at h hb (by simp [hl, hd, hrun, hopen]))

end TestRequest

section Scheduler
variable {s : State}

theorem exec_testScheduler_runs (hs : serving s = true) (hf : basic s = false) :
    exec .testSchedulerPass s = .next ((pendingJobs s).foldl openSlot s) ∧
    exec .testDeadlineExpiry s = .next (((pendingJobs s).filter fun j => decide (j.deadline ≤ hubGt s)).foldl
      (fun s j => endJob j 2 0 false false 0 0 s) s) :=
  ⟨congrArg Host.Outcome.next (if_pos (by simp [hs, hf])), congrArg Host.Outcome.next (if_pos (by simp [hs, hf]))⟩

theorem exec_testScheduler_rests (h : serving s = false ∨ basic s = true) :
    exec .testSchedulerPass s = .next s ∧ exec .testDeadlineExpiry s = .next s := by
  have hidle : ¬ (serving s && !basic s) = true := by
    rcases h with h | h <;> simp [h]
  exact ⟨congrArg Host.Outcome.next (if_neg hidle), congrArg Host.Outcome.next (if_neg hidle)⟩

/-- R424: the end of a running test is judged by its signature, once the core has left scan mode. -/
theorem exec_testSequenceEnd_of_running {core : CoreIx} {responses : List (BitVec 32)} {j : Job} {co : Core} {g : Nat}
    (hj : jobOn s core.toNat = some j) (hco : coreOf s core.toNat = some co) (hg : j.phase = .running g)
    (hs : serving s = true) :
    let c := core.toNat
    let sig := signatureOf co.ties.scanChains.toNat responses
    let outcome := if sig = j.expect then 0 else 1
    let b := leaveScan true c s
    exec (.testSequenceEnd core responses) s = .next (if coreAdvFull b c then endJob j outcome 0 true true sig g b
      else requestCoreReset c (enterResetting true c { b with test := { b.test with
        jobs := modFirst (fun q => q == j) (fun q => { q with phase := .closing g outcome sig }) b.test.jobs } })) := by
  intro c sig outcome b
  refine congrArg Host.Outcome.next ?_
  simp only [hj, hco, hg, hs, if_true]
  rfl

theorem exec_testSequenceEnd_of_no_job {core : CoreIx} {responses : List (BitVec 32)} (hj : jobOn s core.toNat = none) :
    exec (.testSequenceEnd core responses) s = .next s := by
  refine congrArg Host.Outcome.next ?_
  simp only [hj]

end Scheduler

/-- Settles O23: the commands run once their checks pass; the scheduler by what the hub serves, a test's end by its job. -/
theorem testRequestsAndSchedulingComplete : Obligations.TestRequestsAndSchedulingComplete := by
  refine ⟨⟨fun via p s h => ?request, fun _ _ _ _ h => exec_testCancel_runs h rfl⟩, fun _ => exec_testScheduler_runs,
    fun _ => exec_testScheduler_rests, fun _ _ hno => if_neg (Bool.eq_false_iff.mp hno), fun core responses s j co g => ?ended,
    fun _ _ _ => exec_testSequenceEnd_of_no_job⟩
  case request =>
    intro b d cs hl hd harg hlo hhi hdeadline hunit fit id hroom
    have hzero : p.deadline = 0 ↔ d = 0 := by simp [d, BitVec.toNat_eq]
    refine ⟨testEntered via p fit b, exec_testRequest_runs h rfl hl hd harg hlo hhi hdeadline hunit hroom, rfl, ?_, rfl⟩
    simp only [testEntered, hzero]
    rfl
  case ended =>
    intro c sig outcome b hj hco hg hs
    have hend := exec_testSequenceEnd_of_running (responses := responses) hj hco hg hs
    exact ⟨fun hfull => hend.trans (congrArg _ (if_pos hfull)),
      fun hfull => hend.trans (congrArg _ (if_neg (Bool.eq_false_iff.mp hfull)))⟩

end Sys2Proof.Machine
end

/-! # Fences, rungs and windows (R389, R390, R401 to R405, R412, R461 to R467) -/
section
namespace Sys2Proof.Machine

/-! ## FENCE, UNFENCE, REOPEN and STATUS of RESET_RUNG -/

section Fences
variable {via : Via} {a m : UnitAddr} {s b : State}

theorem exec_fence_runs (h : accepted via 0x0050 (.fence via a m) true s = true) (hb : begun via 0x0050 (.fence via a m) s = b) :
    let holdsOf := fun (c : Nat) (k : Core → Bool) => ((coreOf b c).map k).getD false
    let cs := coresIn b a m
    let refused := cs.filter fun c => holdsOf c fun co => decide (coreReports co = 7)
    let fresh := cs.filter fun c => holdsOf c fun co => decide (coreReports co ≠ 7 ∧ co.st ≠ .fenced)
    let waits := fresh.filter fun c => holdsOf c fun co => decide (co.st ≠ .quiet) && !coreGated co
    let r := fresh.foldl (fun s c => fenceCore 3 c s) b
    denied b via .opPlatVen .sealedLevel = false → setBadArg b a m 1 = false → setBadUnit b a m 1 = false →
    exec (.fence via a m) s = .next (if waits = [] then answerFence via refused [] cs.length r
      else { r with rec_ := { r.rec_ with fences := r.rec_.fences ++
        [{ via := via, due := hubGt r + 8000, waiting := waits, refused := refused }] } }) := by
  intro holdsOf cs refused fresh waits r hd harg hunit
  exact congrArg Host.Outcome.next (command_runs_at h hb (by simp [hd, harg, hunit]))

theorem exec_unfence_runs (h : accepted via 0x0051 (.unfence via a m) true s = true)
    (hb : begun via 0x0051 (.unfence via a m) s = b) :
    let rs := (coresIn b a m).map fun c => (c, ((coreOf b c).map unfenceCode).getD rBusy)
    let no := rs.filter fun q => decide (q.2 ≠ rOk)
    let ok := (rs.filter fun q => decide (q.2 = rOk)).map Prod.fst
    let r := ok.foldl unfenceCore { b with autofence := { b.autofence with
      owned := b.autofence.owned.filter fun c => !decide (c ∈ ok) } }
    denied b via .opPlatVen .sealedLevel = false → setBadArg b a m 1 = false → setBadUnit b a m 1 = false →
    exec (.unfence via a m) s = .next (if no = [] then respond via rOk [] r
      else if no.length = rs.length then
        respond via (if no.any fun q => decide (q.2 = rFenced) then rFenced else rBusy) [] r
      else respond via rPartial (codedCores no) r) := by
  intro rs no ok r hd harg hunit
  exact congrArg Host.Outcome.next (command_runs_at h hb (by simp [hd, harg, hunit]))

theorem exec_reopen_runs {gen : BitVec 8} {links : BitVec 16} (h : accepted via 0x0052 (.reopen via gen links) true s = true)
    (hb : begun via 0x0052 (.reopen via gen links) s = b) (hd : denied b via .opPlatVen .sealedLevel = false)
    (hgen : gen = b.gens.chip) (hunit : findUnit b (fun u => decide (u.rung = 5)) = none) :
    exec (.reopen via gen links) s = .next (respond via rOk [] { b with rec_ := { b.rec_ with opens := b.rec_.opens ++
      [(hubGt b + 1000, (if links = 0 then b.ties.linkPresent else links &&& b.ties.linkPresent))] } }) := by
  refine congrArg Host.Outcome.next ((command_runs_at h hb (by simp [hd, hgen, hunit])).trans ?_)
  have hlinks : (if links = 0 then 0xFFFF#16 else links) &&& b.ties.linkPresent =
      if links = 0 then b.ties.linkPresent else links &&& b.ties.linkPresent := by
    split
    · exact BitVec.allOnes_and
    · rfl
  simp only [hlinks]

theorem exec_resetRungStatus_runs (h : accepted via 0x0052 (.resetRungStatus via) true s = true)
    (hb : begun via 0x0052 (.resetRungStatus via) s = b) (hd : denied b via .opPlatVen .sealedLevel = false) :
    ∃ links, links.length = 16 ∧ exec (.resetRungStatus via) s = .next (respond via rOk
      ([pk [(48, 16, b.rec_.last.toNat), (0, 8, b.gens.chip.toNat)],
        pk ((List.range 8).map fun p => (8 * p, 8, (partGen b p).toNat))] ++ links) b) :=
  ⟨_, by rw [List.length_map, List.length_range], congrArg Host.Outcome.next (command_runs_at h hb (by simp [hd]))⟩

end Fences

/-- Settles O24: each command runs once its checks pass, FENCE by whether it waits, UNFENCE by the cores it refuses. -/
theorem fenceCommandsComplete : Obligations.FenceCommandsComplete := by
  refine ⟨fun _ _ _ _ h => ?fence, fun _ _ _ _ h => ?unfence, fun _ _ _ _ h => exec_reopen_runs h rfl,
    fun _ _ h => exec_resetRungStatus_runs h rfl⟩
  case fence =>
    intro b holdsOf cs refused fresh waits r hd harg hunit
    have hrun := exec_fence_runs h rfl hd harg hunit
    exact ⟨fun hnone => hrun.trans (congrArg _ (if_pos hnone)), fun hsome => hrun.trans (congrArg _ (if_neg hsome))⟩
  case unfence =>
    intro b rs no ok r hd harg hunit
    have hrun := exec_unfence_runs h rfl hd harg hunit
    exact ⟨fun hnone => hrun.trans (congrArg _ (if_pos hnone)),
      fun hsome hall => hrun.trans (congrArg _ ((if_neg hsome).trans (if_pos hall))),
      fun hsome hpart => hrun.trans (congrArg _ ((if_neg hsome).trans (if_neg hpart)))⟩

/-! ## RESET_RUNG APPLY (R389, R390) -/

section Rungs
variable {via : Via} {p : RungParams} {s b : State}

/-- R414: the tray's request and its reason stay on the sideband, and the hub waits under the rung's number. -/
theorem exec_trayPowerCycle_runs (h : accepted via 0x0052 (.trayPowerCycle via p) true s = true)
    (hb : begun via 0x0052 (.trayPowerCycle via p) s = b) (hc : firstCode (rungChecks via 6 p b) = none) :
    ∃ t, exec (.trayPowerCycle via p) s = .next t ∧ t.rec_.tray.request = trayRequest b p.reason ∧
      t.rec_.tray.reason = some p.reason ∧ (t.rec_.tray.waits.map Prod.fst) = some b.rec_.next :=
  ⟨_, congrArg Host.Outcome.next (command_runs_of_no_code h hb hc), rfl, rfl, rfl⟩

/-- R390: an APPLY accepted enters its record, answers PENDING, ends the loans and applies the rung. -/
theorem applyRung_eq (via : Via) (k : Nat) (p : RungParams) (act : BitVec 16 → State → State) (s : State) :
    ∃ (r : Rung) (x : State), r.id = s.rec_.next ∧ r.rung = k ∧ r.accept = hubGt s ∧
      x = respond via rPending [s.rec_.next.setWidth 64] { s with rec_ := { s.rec_ with
        next := nextSeq s.rec_.next, last := s.rec_.next, rungs := s.rec_.rungs ++ [r] } } ∧
      applyRung via k p act s = rungSettle s.rec_.next (act s.rec_.next
        (if k = 2 then x else modCores (coresIn x p.addr p.mask) (fun co => { co with lent := false }) x)) :=
  ⟨{ id := s.rec_.next, rung := k, p := p, owner := ownerOf s via, accept := hubGt s, highest := k
     single := if maskLevel p.mask = some (rungLevel k) then some (p.addr.setWidth 16) else none },
    _, rfl, rfl, rfl, rfl, rfl⟩

end Rungs

/-- Settles O25: an APPLY whose checks refuse nothing runs `applyRung` with its rung's act. -/
theorem rungsComplete : Obligations.RungsComplete :=
  ⟨fun _ _ _ => ⟨fun h hc => congrArg Host.Outcome.next (command_runs_of_no_code h rfl hc),
    fun h hc => congrArg Host.Outcome.next (command_runs_of_no_code h rfl hc),
    fun h hc => congrArg Host.Outcome.next (command_runs_of_no_code h rfl hc),
    fun h hc => congrArg Host.Outcome.next (command_runs_of_no_code h rfl hc),
    fun h hc => congrArg Host.Outcome.next (command_runs_of_no_code h rfl hc),
    fun h => exec_trayPowerCycle_runs h rfl⟩, applyRung_eq⟩

/-! ## WINDOW_OPEN, WINDOW_CLOSE and REMOTE (R461 to R467) -/

section Windows
variable {via : Via} {s b : State}

theorem exec_windowOpen_runs {win : BitVec 6} {base size : Word} {aaddr amask : UnitAddr}
    (h : accepted via 0x0061 (.windowOpen via win base size aaddr amask) false s = true)
    (hb : begun via 0x0061 (.windowOpen via win base size aaddr amask) s = b) (hl : levelThree b via = false)
    (hd : denied b via .opPlat .sealedLevel = false) (hbase : base.toNat % 4096 = 0) (hsize : size.toNat % 4096 = 0)
    (hpos : size ≠ 0) (hmax : size.toNat ≤ 2 ^ 40) (harg : setBadArg b aaddr amask 4 true = false)
    (hin : amask >>> 16 = 0 ∨ inTorus b ((aaddr >>> 16).setWidth 16) = true) (hopen : (windowOf b win).isOpen = false)
    (hclosing : (windowOf b win).closing = none) (hidle : (windowOf b win).admitted = 0) :
    let g := (windowOf b win).wgen + 1
    exec (.windowOpen via win base size aaddr amask) s = .next (respond via rOk [g.setWidth 64] (modWindow win (fun w => { w with
      wgen := g, isOpen := true, everOpened := true, base := base, size := size, aaddr := aaddr, amask := amask
      completed := 0, rejected := 0 }) b)) := by
  refine congrArg Host.Outcome.next (command_runs_at h hb ?_)
  have hrange : decide (base.toNat % 4096 ≠ 0 ∨ size.toNat % 4096 ≠ 0 ∨ size = 0 ∨ 2 ^ 40 < size.toNat) = false := by
    simp only [hbase, hsize, hpos, ne_eq, not_true_eq_false, false_or, decide_eq_false_iff_not]
    exact Nat.not_lt.mpr hmax
  have hplace : (decide (amask >>> 16 ≠ 0) && !inTorus b ((aaddr >>> 16).setWidth 16)) = false := by
    rcases hin with hin | hin <;> simp [hin]
  simp only [List.mem_cons, List.not_mem_nil, or_false, forall_eq_or_imp, forall_eq]
  exact ⟨hl, hd, Bool.or_eq_false_iff.mpr ⟨hrange, harg⟩, hplace, by simp [hopen, hclosing, hidle]⟩

theorem exec_windowClose_runs {win : BitVec 6} (h : accepted via 0x0062 (.windowClose via win) false s = true)
    (hb : begun via 0x0062 (.windowClose via win) s = b) (hl : levelThree b via = false)
    (hd : denied b via .opPlat .sealedLevel = false) (hopen : (windowOf b win).isOpen = true) :
    exec (.windowClose via win) s = .next (windowClosed win (modWindow win (fun w => { w with
      isOpen := false, closedAt := hubGt b, closing := some via }) b)) :=
  congrArg Host.Outcome.next (command_runs_at h hb (by simp [hl, hd, hopen]))

theorem exec_remoteCmd_runs {target : BitVec 16} {notify : Bool} {cmd : BitVec 16} {genchk : Bool} {gen : BitVec 8}
    {timeout : BitVec 32} {inner : List Word}
    (h : accepted via 0x0063 (.remoteCmd via target notify cmd genchk gen timeout inner) false s = true)
    (hb : begun via 0x0063 (.remoteCmd via target notify cmd genchk gen timeout inner) s = b)
    (hhello : cmd ≠ 0x0001) (hring : cmd ≠ 0x0003) (hremote : cmd ≠ 0x0063) (hlen : inner.length ≤ 443)
    (hc : firstCode (remoteChecks via target timeout 1 false b) = none) :
    let ws := pk [(2, 1, b2n notify), (16, 16, cmd.toNat)] :: inner
    exec (.remoteCmd via target notify cmd genchk gen timeout inner) s =
      .next (sendRemote via target genchk gen timeout 1 ws (8 * ws.length) b) := by
  have hgood : decide (cmd = 0x0001 ∨ cmd = 0x0003 ∨ cmd = 0x0063 ∨ 443 < inner.length) = false := by
    simp only [hhello, hring, hremote, false_or, decide_eq_false_iff_not, not_lt, hlen]
  exact congrArg Host.Outcome.next (command_runs_of_no_code h hb (by rw [hgood]; exact hc))

theorem exec_remoteWrite_runs {target : BitVec 16} {genchk : Bool} {gen : BitVec 8} {timeout : BitVec 32} {win : BitVec 6}
    {wgen : BitVec 8} {bytes : BitVec 32} {offset : Word} {data : List Word}
    (h : accepted via 0x0063 (.remoteWrite via target genchk gen timeout win wgen bytes offset data) false s = true)
    (hb : begun via 0x0063 (.remoteWrite via target genchk gen timeout win wgen bytes offset data) s = b) :
    let n := bytes.toNat
    1 ≤ n → n ≤ 3528 → data.length = (n + 7) / 8 → firstCode (remoteChecks via target timeout 2 false b) = none →
    exec (.remoteWrite via target genchk gen timeout win wgen bytes offset data) s =
      .next (sendRemote via target genchk gen timeout 2
        ([pk [(0, 2, 1)], pk [(32, 32, n), (8, 8, wgen.toNat), (0, 6, win.toNat)], offset] ++ data) (24 + n) b) := by
  intro n hlo hhi hlen hc
  have hgood : decide (n = 0 ∨ 3528 < n ∨ data.length ≠ (n + 7) / 8) = false := by
    rw [decide_eq_false_iff_not]
    omega
  exact congrArg Host.Outcome.next (command_runs_of_no_code h hb (by rw [hgood]; exact hc))

end Windows

/-- Settles O27: each command runs once its checks pass. -/
theorem windowAndRemoteCommandsComplete : Obligations.WindowAndRemoteCommandsComplete :=
  ⟨fun _ _ _ _ _ _ _ h => exec_windowOpen_runs h rfl, fun _ _ _ h => exec_windowClose_runs h rfl,
    fun _ _ _ _ _ _ _ _ _ h => exec_remoteCmd_runs h rfl, fun _ _ _ _ _ _ _ _ _ _ _ h => exec_remoteWrite_runs h rfl⟩

end Sys2Proof.Machine
end

/-! # Proposals, confirmations and fuses (R511, R519 to R525, R549) -/
section
namespace Sys2Proof.Machine

/-! ## Proposals -/

/-- R519: the nonces kept beside a new one: all that live, or the three youngest. -/
def noncesKept (s : State) : List (BitVec 128 × GT) :=
  if (liveNonces s).length < 4 then liveNonces s else (liveNonces s).drop ((liveNonces s).length - 3)

theorem noncesKept_length (s : State) : (noncesKept s).length ≤ 3 := by
  unfold noncesKept
  split
  · omega
  · rw [List.length_drop]
    omega

theorem noncesKept_live {s : State} {k : BitVec 128 × GT} (h : k ∈ noncesKept s) : k ∈ liveNonces s := by
  unfold noncesKept at h
  split at h
  · exact h
  · exact List.mem_of_mem_drop h

section Proposals
variable {via : Via} {s b : State}

theorem exec_protectNonce_runs (h : accepted via 0x0070 (.protectNonce via) false s = true)
    (hb : begun via 0x0070 (.protectNonce via) s = b) (hd : denied b via .opPlat .sealedLevel = false)
    (hlife : b.fuses.lifecycle ≠ .returned) :
    let n := Config.freeNonce b.free
    exec (.protectNonce via) s = .next (respond via rOk [n.setWidth 64, (n >>> 64).setWidth 64, wn (hubGt b)]
      { b with free := b.free + 1, protect := { b.protect with nonces := noncesKept b ++ [(n, hubGt b)] } }) :=
  congrArg Host.Outcome.next (command_runs_at h hb (by simp [hd, hlife]))

/-- R522: a proposal that every check admits is opened and awaits its second party. -/
theorem propose_of_admitted {lifecycle : Bool} {d : List Word} {key sig extra : List Byte} {who : Principal}
    (hwho : whoOf b via = some who) (hright : holds .opPlat (some who) = true) (hlife : b.fuses.lifecycle ≠ .returned)
    (hproposer : bits (descWord d 0) 47 40 = (principalCode who).toNat) (hmay : mayPropose b via who d = true)
    (hsigned : proposalSigned b who d key sig extra = true)
    (hnonce : ((liveNonces b).any fun n => n.1 == descNonce d) = true) (hform : descWellFormed d = true)
    (hchip : bits (descWord d 0) 15 0 = (chipOf b).toNat)
    (hstate : bits (descWord d 0) 39 32 = lifecycleCode b.fuses.lifecycle) (hkind : decide (descKind d = 10) = lifecycle) :
    let b1 := { b with protect := { b.protect with nonces := (liveNonces b).filter fun n => !(n.1 == descNonce d) } }
    let id := b.protect.nextProposal
    let rkey := if who = .platform ∧ descKind d = 9 then some extra else none
    let p : Proposal := {
      id := id, kind := BitVec.ofNat 8 (descKind d), proposer := principalCode who
      desc := d, extra := extra, expires := hubGt b + 40000000000 }
    changeRefused b1 d false rkey = none → b.protect.proposal = none →
    propose via lifecycle d key sig extra b = respond via rSecondParty [id.setWidth 64, wn p.expires]
      { b1 with protect := { b1.protect with proposal := some p, nextProposal := nextSeq id } } := by
  intro b1 id rkey p hrefused hnone
  have hparty : ¬ (!holds .opPlat (some who) || decide (b.fuses.lifecycle = .returned) ||
      decide (bits (descWord d 0) 47 40 ≠ (principalCode who).toNat) || !mayPropose b via who d ||
      !proposalSigned b who d key sig extra) = true := by
    simp [hright, hlife, hproposer, hmay, hsigned]
  have hargs : ¬ (!descWellFormed d || decide (bits (descWord d 0) 15 0 ≠ (chipOf b1).toNat) ||
      decide (bits (descWord d 0) 39 32 ≠ lifecycleCode b1.fuses.lifecycle) ||
      decide (decide (descKind d = 10) ≠ lifecycle) || decide (changeRefused b1 d false rkey = some rBadArg)) = true := by
    have hchip : bits (descWord d 0) 15 0 = (chipOf b1).toNat := hchip
    have hstate : bits (descWord d 0) 39 32 = lifecycleCode b1.fuses.lifecycle := hstate
    simp [hform, hchip, hstate, hkind, hrefused]
  have hidle : ¬ b1.protect.proposal.isSome = true := by simp [b1, hnone]
  unfold propose
  rw [hwho]
  refine (if_neg hparty).trans ((if_neg (by simp [hnonce])).trans ((if_neg hargs).trans ((if_neg hidle).trans ?_)))
  rw [hrefused]
  rfl

end Proposals

/-- Settles O28: each command runs once its checks pass. -/
theorem proposalsComplete : Obligations.ProposalsComplete :=
  ⟨fun _ _ h hd hlife => ⟨noncesKept _, exec_protectNonce_runs h rfl hd hlife, noncesKept_length _, fun _ => noncesKept_live,
      fun hfew => if_pos hfew⟩,
    fun _ _ _ _ _ _ _ _ hwho hright hlife hproposer hmay hsigned hnonce hform hchip hstate hkind =>
      propose_of_admitted hwho hright hlife hproposer hmay hsigned hnonce hform hchip hstate hkind,
    fun _ _ _ _ _ _ h => congrArg Host.Outcome.next (command_runs_of_no_code h rfl rfl),
    fun _ _ _ _ _ h => congrArg Host.Outcome.next (command_runs_of_no_code h rfl rfl)⟩

/-! ## Confirmations and fuses -/

section Confirm
variable {via : Via} {s b : State}

/-- R523: a confirmation that is admitted closes the proposal and applies its change, or programs its fused item. -/
theorem confirm_of_admitted {id : BitVec 16} {key sig extra : List Byte} {p : Proposal} {who : Principal}
    (hwho : whoOf b via = some who) (hright : holds .opPlat (some who) = true) (hlife : b.fuses.lifecycle ≠ .returned)
    (hp : b.protect.proposal = some p) (hid : p.id = id) (hin : hubGt b < p.expires)
    (hallowed : confirmAllowed b via who p key sig = true) :
    let gone := { b with protect := { b.protect with proposal := none } }
    let rkey := if p.proposer = 2 then p.extra else extra
    changeRefused b p.desc true (some rkey) = none →
    confirm via id key sig extra b = match fusedItem p.desc rkey with
      | some item => programFuse item via gone
      | none => respond via rOk [] (applyChange p.desc gone) := by
  intro gone rkey hrefused
  have hparty : ¬ (!holds .opPlat (some who) || decide (b.fuses.lifecycle = .returned)) = true := by simp [hright, hlife]
  unfold confirm
  rw [hwho]
  refine (if_neg hparty).trans ?_
  rw [hp]
  refine (if_neg (not_not_intro hid)).trans ((if_neg (Nat.not_le.mpr hin)).trans ((if_neg (by simp [hallowed])).trans ?_))
  dsimp only
  rewrite [hrefused]
  rfl

theorem exec_protectConfirm_runs {id : BitVec 16} {key sig extra : List Byte}
    (h : accepted via 0x0071 (.protectConfirm via id key sig extra) false s = true)
    (hb : begun via 0x0071 (.protectConfirm via id key sig extra) s = b) :
    exec (.protectConfirm via id key sig extra) s = .next (confirm via id key sig extra b) :=
  congrArg Host.Outcome.next (command_runs_of_no_code h hb rfl)

/-- R549: in MANUFACTURE a key hash that is not fused yet is programmed. -/
theorem exec_fuseWrite_runs {item : BitVec 2} {hash : List Byte}
    (h : accepted via 0x0F01 (.fuseWrite via item hash) true s = true)
    (hb : begun via 0x0F01 (.fuseWrite via item hash) s = b) (hport : isNarrow via = true)
    (hlife : b.fuses.lifecycle = .manufacture) (hwho : whoOf b via ≠ none) (hlen : hash.length = 48) (hitem : item ≠ 0)
    (hfree : (if item = 1 then b.fuses.platformKey else if item = 2 then b.fuses.vendorKey else b.fuses.fwKey) = none) :
    exec (.fuseWrite via item hash) s = .next (programFuse
      (if item = 1 then .platformKey hash else if item = 2 then .vendorKey hash else .fwKey hash) via b) := by
  refine congrArg Host.Outcome.next (command_runs_at h hb ?_)
  have hwho : (whoOf b via).isNone = false := Option.isNone_eq_false_iff.mpr (Option.isSome_iff_ne_none.mpr hwho)
  have hplace : (decide (item = 0) || decide (hash.length ≠ 48)) = false := by
    simp only [hitem, hlen, ne_eq, not_true_eq_false, decide_false, Bool.or_self]
  have hfused : (if item = 1 then b.fuses.platformKey.isSome else if item = 2 then b.fuses.vendorKey.isSome
      else b.fuses.fwKey.isSome) = false := by
    simpa [← apply_ite Option.isSome] using hfree
  simp only [List.mem_cons, List.not_mem_nil, or_false, forall_eq_or_imp, forall_eq]
  exact ⟨by simp [hport], by simp [hlife, hwho], Bool.or_eq_false_iff.mpr ⟨hplace, hfused⟩⟩

theorem exec_fuseCommit_of_write {w : FuseWrite} {l : List FuseWrite} (hw : s.fuseWrites = w :: l) :
    let r := commitFuse w.item { s with fuseWrites := l }
    exec .fuseCommit s = .next (if (takenOf r w.via).isSome then respond w.via rOk [] r else r) := by
  refine congrArg Host.Outcome.next ?_
  rw [hw]

theorem exec_fuseCommit_of_none (hw : s.fuseWrites = []) : exec .fuseCommit s = .next s := by
  refine congrArg Host.Outcome.next ?_
  rw [hw]

theorem commitFuse_platformKey {k : List Byte} (hnone : s.fuses.platformKey = none) :
    (commitFuse (.platformKey k) s).fuses.platformKey = some k := by
  change s.fuses.platformKey.or (some k) = some k
  rw [hnone, Option.none_or]

end Confirm

/-- Settles O29: a confirmation by the item of its change, FUSE_WRITE by its item, FUSE_COMMIT by the oldest write. -/
theorem confirmationsAndFusesComplete : Obligations.ConfirmationsAndFusesComplete := by
  refine ⟨fun via id key sig extra s p who h => ?confirm, fun via item hash s h => ?write, fun _ _ _ => exec_fuseCommit_of_write,
    fun _ => exec_fuseCommit_of_none, fun _ _ => commitFuse_platformKey, fun _ _ => rfl, fun _ _ => rfl⟩
  case confirm =>
    intro b gone rkey hwho hright hlife hp hid hin hallowed hrefused
    have hrun := (exec_protectConfirm_runs h rfl).trans
      (congrArg Host.Outcome.next (confirm_of_admitted hwho hright hlife hp hid hin hallowed hrefused))
    exact ⟨fun hitem => by rw [hrun, hitem], fun item hitem => by rw [hrun, hitem]⟩
  case write =>
    intro b hport hlife hwho hlen
    refine ⟨fun hitem hfree => ?_, fun hitem hfree => ?_, fun hitem hfree => ?_⟩ <;> subst hitem
    · exact exec_fuseWrite_runs h rfl hport hlife hwho hlen (by decide) hfree
    · exact exec_fuseWrite_runs h rfl hport hlife hwho hlen (by decide) hfree
    · exact exec_fuseWrite_runs h rfl hport hlife hwho hlen (by decide) hfree

end Sys2Proof.Machine
end

/-! # The TAP, the tray and the host port's byte enables (R414, R415, R532 to R546, R578, R585, R600, R601) -/
section
namespace Sys2Proof.Machine

/-! ## Capture-IR and DSTATUS as fields (R539, Table 18.3) -/

/-- R539: the byte that CAPTURE_IR loads. -/
def irByte (s : State) : BitVec 8 := BitVec.ofNat 8 (1 + b2n (!s.narrow.outQ.isEmpty) <<< 2 +
  b2n (decide (s.narrow.level ≠ .sealedLevel)) <<< 3 + b2n (basic s) <<< 4 + b2n (limited s) <<< 5 + b2n (locked s) <<< 6)

theorem toNat_irByte (s : State) : (irByte s).toNat = 1 + b2n (!s.narrow.outQ.isEmpty) * 4 +
    b2n (decide (s.narrow.level ≠ .sealedLevel)) * 8 + b2n (basic s) * 16 + b2n (limited s) * 32 + b2n (locked s) * 64 := by
  have hwaits := b2n_lt_two (!s.narrow.outQ.isEmpty)
  have hlevel := b2n_lt_two (decide (s.narrow.level ≠ .sealedLevel))
  have hbasic := b2n_lt_two (basic s)
  have hlimited := b2n_lt_two (limited s)
  have hlocked := b2n_lt_two (locked s)
  simp only [irByte, BitVec.toNat_ofNat, Nat.shiftLeft_eq]
  omega

theorem getLsbD_irByte_zero (s : State) : (irByte s).getLsbD 0 = true := by
  rw [BitVec.getLsbD, toNat_irByte, Nat.testBit_eq_decide_div_mod_eq, decide_eq_true_eq]
  omega

theorem getLsbD_irByte_one (s : State) : (irByte s).getLsbD 1 = false := by
  rw [BitVec.getLsbD, toNat_irByte, Nat.testBit_eq_decide_div_mod_eq, decide_eq_false_iff_not]
  omega

theorem getLsbD_irByte_five (s : State) : (irByte s).getLsbD 5 = limited s := by
  have hwaits := b2n_lt_two (!s.narrow.outQ.isEmpty)
  have hlevel := b2n_lt_two (decide (s.narrow.level ≠ .sealedLevel))
  have hbasic := b2n_lt_two (basic s)
  have hlimited := b2n_lt_two (limited s)
  rw [BitVec.getLsbD, toNat_irByte, Nat.testBit_eq_decide_div_mod_eq]
  exact (decide_eq_decide.mpr (by omega)).trans (decide_b2n_eq_one (limited s))

/-- Table 18.3: the word that DSTATUS captures. -/
def dstatusWord (s : State) : Word :=
  pk [(48, 16, (chipOf s).toNat), (40, 8, ((s.narrow.who.map principalCode).getD 0).toNat),
    (38, 2, levelRank s.narrow.level), (37, 1, b2n (locked s)), (36, 1, b2n (basic s)), (33, 3, s.narrow.open_.length),
    (32, 1, b2n s.narrow.full), (24, 8, s.narrow.respResult.toNat), (16, 8, s.protect.fails.toNat),
    (9, 7, (s.narrow.outQ.filter (·.event)).length), (8, 1, b2n s.narrow.evdrop), (0, 8, s.narrow.discarded.toNat)]

/-- DSTATUS: the last result, the failures and what stands below them are its low 32 bits. -/
theorem toNat_dstatusWord_low (s : State) : (dstatusWord s).toNat % 2 ^ 32 = s.narrow.respResult.toNat * 2 ^ 24 +
    s.protect.fails.toNat * 2 ^ 16 + (s.narrow.outQ.filter (·.event)).length % 2 ^ 7 * 2 ^ 9 + b2n s.narrow.evdrop * 2 ^ 8 +
      s.narrow.discarded.toNat := by
  have hresult := s.narrow.respResult.isLt
  have hfails := s.protect.fails.isLt
  have hdrop := b2n_lt_two s.narrow.evdrop
  have hdiscarded := s.narrow.discarded.isLt
  simp only [dstatusWord, pk, List.foldl, BitVec.toNat_ofNat, Nat.shiftLeft_eq]
  omega

theorem bits_dstatusWord_result (s : State) : bits (dstatusWord s) 31 24 = s.narrow.respResult.toNat := by
  have hlow := toNat_dstatusWord_low s
  have hresult := s.narrow.respResult.isLt
  have hfails := s.protect.fails.isLt
  have hdrop := b2n_lt_two s.narrow.evdrop
  have hdiscarded := s.narrow.discarded.isLt
  rw [bits, Nat.shiftRight_eq_div_pow]
  omega

theorem bits_dstatusWord_fails (s : State) : bits (dstatusWord s) 23 16 = s.protect.fails.toNat := by
  have hlow := toNat_dstatusWord_low s
  have hfails := s.protect.fails.isLt
  have hdrop := b2n_lt_two s.narrow.evdrop
  have hdiscarded := s.narrow.discarded.isLt
  rw [bits, Nat.shiftRight_eq_div_pow]
  omega

/-! ## The TAP rows -/

section Tap
variable {s : State} (hpow : s.power ≠ .off)
include hpow

theorem exec_tapReset_of_powered :
    exec .tapReset s = .next { endSession s with narrow := { (endSession s).narrow with ir := 0x01 } } :=
  congrArg Host.Outcome.next (if_neg hpow)

theorem exec_testLogicReset_of_powered : exec .testLogicReset s = .next { s with narrow := { s.narrow with ir := 0x01 } } :=
  congrArg Host.Outcome.next (if_neg hpow)

theorem exec_captureIr_of_powered : exec .captureIr s = .next { expireSession s with
    narrow := { (expireSession s).narrow with irCapture := irByte (expireSession s) } } :=
  congrArg Host.Outcome.next (if_neg hpow)

theorem exec_idcode_of_powered : exec .idcode s = .next { s with narrow := { s.narrow with
    ir := 0x01, drCapture := [pk [(28, 4, 1), (12, 16, 0x7404), (1, 11, s.ties.tapMfr.toNat), (0, 1, 1)]] } } :=
  congrArg Host.Outcome.next (if_neg hpow)

/-- R538: in limited power each capture of the debug registers is BYPASS's. -/
theorem exec_captures_of_limited (hlim : limited s = true) :
    exec .challenge s = .next (bypass 0x10 s) ∧ exec .dstatus s = .next (bypass 0x21 s) ∧
    exec .dwepCapture s = .next (bypass 0x20 s) ∧ ∀ bs, exec (.response bs) s = .next (bypass 0x11 s) :=
  ⟨congrArg Host.Outcome.next ((if_neg hpow).trans (if_pos hlim)), congrArg Host.Outcome.next ((if_neg hpow).trans (if_pos hlim)),
    congrArg Host.Outcome.next ((if_neg hpow).trans (if_pos hlim)),
    fun _ => congrArg Host.Outcome.next ((if_neg hpow).trans (if_pos hlim))⟩

variable (hlim : limited s = false)
include hlim

theorem exec_challenge_of_open (hlock : locked (expireSession s) = false) :
    let e := expireSession s
    let w := challengeWords e (Config.freeNonce e.free)
    exec .challenge s = .next { e with
      free := e.free + 1
      narrow := { e.narrow with ir := 0x10, drCapture := w, challenge := some (w, hubGt e + 40000000000) } } :=
  congrArg Host.Outcome.next ((if_neg hpow).trans ((if_neg (Bool.eq_false_iff.mp hlim)).trans
    (if_neg (Bool.eq_false_iff.mp hlock))))

theorem exec_challenge_of_locked (hlock : locked (expireSession s) = true) :
    let e := expireSession s
    exec .challenge s = .next { e with narrow := { e.narrow with
      ir := 0x10, drCapture := challengeWords e 0, challenge := none } } :=
  congrArg Host.Outcome.next ((if_neg hpow).trans ((if_neg (Bool.eq_false_iff.mp hlim)).trans (if_pos hlock)))

theorem exec_dstatus_of_powered :
    let e := expireSession s
    exec .dstatus s = .next { e with narrow := { e.narrow with
      ir := 0x21, drCapture := [dstatusWord e], full := false, evdrop := false, discarded := 0 } } :=
  congrArg Host.Outcome.next ((if_neg hpow).trans (if_neg (Bool.eq_false_iff.mp hlim)))

theorem exec_dwepCapture_of_powered :
    let e := expireSession s
    let f := if e.narrow.repeatNext then e.narrow.lastReleased else e.narrow.outQ.head?
    exec .dwepCapture s = .next { e with narrow := { e.narrow with
      ir := 0x20, offered := f, drCapture := (f.map (·.words)).getD [] } } :=
  congrArg Host.Outcome.next ((if_neg hpow).trans (if_neg (Bool.eq_false_iff.mp hlim)))

end Tap

/-- Settles O31: each row by the power, and CHALLENGE by the lockout. -/
theorem tapRowsComplete : Obligations.TapRowsComplete := by
  refine ⟨fun s hpow => ⟨exec_tapReset_of_powered hpow, exec_testLogicReset_of_powered hpow,
      ⟨_, exec_captureIr_of_powered hpow, getLsbD_irByte_zero _, getLsbD_irByte_one _, getLsbD_irByte_five _⟩,
      exec_idcode_of_powered hpow⟩,
    fun s hpow hlim => exec_captures_of_limited hpow hlim, fun s hpow hlim => ?_⟩
  exact ⟨fun hlock => ⟨_, exec_challenge_of_open hpow hlim hlock, rfl, rfl, rfl, rfl⟩,
    fun hlock => ⟨_, exec_challenge_of_locked hpow hlim hlock, rfl, rfl, rfl⟩,
    ⟨_, exec_dstatus_of_powered hpow hlim, bits_dstatusWord_result _, bits_dstatusWord_fails _⟩,
    ⟨_, exec_dwepCapture_of_powered hpow hlim, rfl⟩⟩

/-! ## The tray (R414, R415, R578, R600, R601) -/

theorem trayReplyOf_first (s : State) : (trayReplyOf s).getD 0 0 = 1 := by
  unfold trayReplyOf
  split
  · rfl
  · split
    · rfl
    · rfl

section Tray
variable {s : State}

theorem exec_trayBlockWrite_of_bad_offset {offset : BitVec 16} {pecOk : Bool} (hpow : s.power ≠ .off)
    (hbad : offset.toNat % 128 ≠ 0 ∨ 8064 < offset.toNat) :
    exec (.trayBlockWrite offset pecOk) s = .next { s with pw := { s.pw with trayNack := true } } :=
  congrArg Host.Outcome.next ((if_neg hpow).trans (if_pos (decide_eq_true hbad)))

theorem exec_trayBlockWrite_of_good_offset {offset : BitVec 16} {pecOk : Bool} (hpow : s.power ≠ .off)
    (hmult : offset.toNat % 128 = 0) (hmax : offset.toNat ≤ 8064) :
    exec (.trayBlockWrite offset pecOk) s = .next { s with pw := { s.pw with
      trayNack := false, trayOffset := if pecOk then offset else s.pw.trayOffset } } := by
  refine congrArg Host.Outcome.next ((if_neg hpow).trans ((if_neg ?_).trans ?_))
  · rw [decide_eq_true_eq]
    omega
  · cases pecOk <;> rfl

section Waiting
variable {id : BitVec 16} {due : GT} (hw : s.rec_.tray.waits = some (id, due))
include hw

/-- R415: the tray's answer to the request ends rung 6, with its two figures where it accepts. -/
theorem exec_trayStatusPoll_of_answer {status : List Byte} (hs : serving s = true) (hversion : byteAt status 0 = 1)
    (hseq : (bytesWord ((status.drop 2).take 4)).setWidth 32 = s.rec_.tray.seq) :
    exec (.trayStatusPoll status true) s = .next (
      if byteAt status 1 = 1 then trayDone id rOk [pk [(0, 16, byteAt status 6 + 256 * byteAt status 7),
        (16, 16, byteAt status 8 + 256 * byteAt status 9)]] s
      else if byteAt status 1 = 2 then trayDone id rDenied [] s else s) := by
  refine congrArg Host.Outcome.next ?_
  rw [hw]
  exact if_pos (by simp [hs, hversion, hseq])

theorem exec_trayStatusPoll_of_other {status : List Byte}
    (hseq : (bytesWord ((status.drop 2).take 4)).setWidth 32 ≠ s.rec_.tray.seq) :
    exec (.trayStatusPoll status true) s = .next s := by
  refine congrArg Host.Outcome.next ?_
  rw [hw]
  exact if_neg (by simp [hseq])

theorem exec_trayStatusPoll_of_bad_pec {status : List Byte} : exec (.trayStatusPoll status false) s = .next s := by
  refine congrArg Host.Outcome.next ?_
  rw [hw]
  exact if_neg (by simp)

theorem exec_trayTimeout_of_over (hs : serving s = true) (hdue : due ≤ hubGt s) :
    exec .trayTimeout s = .next (trayDone id rTimeout [] s) := by
  refine congrArg Host.Outcome.next ?_
  rw [hw]
  exact if_pos (by simp [hs, hdue])

theorem exec_trayTimeout_of_early (hdue : hubGt s < due) : exec .trayTimeout s = .next s := by
  refine congrArg Host.Outcome.next ?_
  rw [hw]
  exact if_neg (by simp [hdue])

end Waiting

theorem byteAt_lt (bs : List Byte) (i : Nat) : byteAt bs i < 256 := (bs.getD i 0).isLt

/-- R601: the tray's two figures, 16 bits each. -/
theorem bits_trayFigures (status : List Byte) :
    let w := pk [(0, 16, byteAt status 6 + 256 * byteAt status 7), (16, 16, byteAt status 8 + 256 * byteAt status 9)]
    bits w 15 0 = byteAt status 6 + 256 * byteAt status 7 ∧ bits w 31 16 = byteAt status 8 + 256 * byteAt status 9 := by
  have h6 := byteAt_lt status 6
  have h7 := byteAt_lt status 7
  have h8 := byteAt_lt status 8
  have h9 := byteAt_lt status 9
  simp only [bits, pk, List.foldl, BitVec.toNat_ofNat, Nat.shiftLeft_eq, Nat.shiftRight_eq_div_pow]
  omega

/-- The tray as rung 6's end leaves it: waited for no more, its reason kept only where the end is OK. -/
theorem trayDone_tray (id : BitVec 16) (code : BitVec 8) (extra : List Word) (s : State) :
    (trayDone id code extra s).rec_.tray =
      { s.rec_.tray with waits := none, reason := if code = rOk then s.rec_.tray.reason else none } := by
  unfold trayDone
  extract_lets reason ended
  split
  · rfl
  · rw [emits_raiseEvent.rec_]

end Tray

/-- Settles O38: the block rows by the offset and by what record there is, the status by the request it answers. -/
theorem trayRowsComplete : Obligations.TrayRowsComplete := by
  refine ⟨fun offset pecOk s hpow => ⟨exec_trayBlockWrite_of_bad_offset hpow, exec_trayBlockWrite_of_good_offset hpow⟩,
    fun s hpow => ⟨_, congrArg Host.Outcome.next (if_neg hpow), trayReplyOf_first s, fun hgasp => if_pos hgasp,
      fun hgasp hlast => ?none, fun hgasp ws hlast => ?some⟩,
    fun status s id due hw hs => ?poll,
    fun id code extra s => ⟨congrArg Tray.waits (trayDone_tray id code extra s),
      congrArg Tray.reason (trayDone_tray id code extra s)⟩⟩
  case none => rw [trayReplyOf, if_neg hgasp, hlast]
  case some => rw [trayReplyOf, if_neg hgasp, hlast]
  case poll =>
    intro seq
    refine ⟨fun hversion hcode hseq => ?_, fun hversion hcode hseq => ?_, exec_trayStatusPoll_of_other hw,
      exec_trayStatusPoll_of_bad_pec hw, exec_trayTimeout_of_over hw hs, exec_trayTimeout_of_early hw⟩
    · exact ⟨_, (exec_trayStatusPoll_of_answer hw hs hversion hseq).trans (congrArg _ (if_pos hcode)), bits_trayFigures status⟩
    · exact (exec_trayStatusPoll_of_answer hw hs hversion hseq).trans
        (congrArg _ ((if_neg (by omega)).trans (if_pos hcode)))

end Sys2Proof.Machine
end

/-! # Byte enables of the host port (R585) -/
section
namespace Sys2Proof.Machine

/-! ## The bytes of a word (R6) -/

/-- Byte `k` of a word, counted from its low end. -/
def byteOf (w : Word) (k : Nat) : Byte := (w >>> (8 * k)).setWidth 8

theorem byteOf_and (v w : Word) (k : Nat) : byteOf (v &&& w) k = byteOf v k &&& byteOf w k := by
  unfold byteOf
  rw [BitVec.ushiftRight_and_distrib, BitVec.setWidth_and]

theorem wordBytes_length (w : Word) : (wordBytes w).length = 8 := by
  rw [wordBytes, List.length_map, List.length_range]

theorem wordBytes_getD (w : Word) {k : Nat} (hk : k < 8) : (wordBytes w).getD k 0 = byteOf w k := by
  have hbyte : BitVec.ofNat 8 (w.toNat >>> (8 * k)) = byteOf w k :=
    BitVec.eq_of_toNat_eq (by simp [byteOf])
  simp [wordBytes, hk, hbyte]

/-- The number that bytes in address order stand for has them as its digits. -/
theorem bytes_digit (bs : List Byte) (k : Nat) :
    bs.foldr (fun b acc => acc * 256 + b.toNat) 0 / 256 ^ k % 256 = (bs.getD k 0).toNat := by
  induction bs generalizing k with
  | nil => simp
  | cons b bs ih =>
    have hb := b.isLt
    cases k with
    | zero =>
      simp only [List.foldr_cons, pow_zero, List.getD_cons_zero]
      omega
    | succ k =>
      rw [List.getD_cons_succ, ← ih k, pow_succ', ← Nat.div_div_eq_div_mul]
      congr 2
      simp only [List.foldr_cons]
      omega

theorem byteOf_bytesWord (bs : List Byte) {k : Nat} (hk : k < 8) : byteOf (bytesWord bs) k = bs.getD k 0 := by
  have hdigit := bytes_digit bs k
  refine BitVec.eq_of_toNat_eq ?_
  rw [← hdigit, byteOf, bytesWord]
  generalize bs.foldr (fun b acc => acc * 256 + b.toNat) 0 = n
  simp only [BitVec.toNat_setWidth, BitVec.toNat_ushiftRight, BitVec.toNat_ofNat, Nat.shiftRight_eq_div_pow]
  interval_cases k <;> omega

theorem byteOf_mergeBytes (old new : Word) (strb : BitVec 8) {k : Nat} (hk : k < 8) :
    byteOf (mergeBytes old new strb) k = if strb.getLsbD k = true then byteOf new k else byteOf old k := by
  rw [mergeBytes, byteOf_bytesWord _ hk, ← wordBytes_getD new hk, ← wordBytes_getD old hk]
  have hold : k < (wordBytes old).length := by rwa [wordBytes_length]
  have hnew : k < (wordBytes new).length := by rwa [wordBytes_length]
  simp [List.getD_eq_getElem?_getD, hold, hnew]

theorem memBytes_getD (a : Nat) {n k : Nat} (hk : k < n) (m : Mem) : (memBytes a n m).getD k 0 = memRead (a + k) m := by
  induction n generalizing a k with
  | zero => omega
  | succ n ih =>
    cases k with
    | zero => rfl
    | succ k =>
      rw [memBytes, List.getD_cons_succ, ih (a + 1) (by omega), Nat.add_right_comm, Nat.add_assoc]

theorem byteOf_memWord (a : Nat) (m : Mem) {k : Nat} (hk : k < 8) : byteOf (memWord a m) k = memRead (a + k) m := by
  rw [memWord, byteOf_bytesWord _ hk, memBytes_getD a hk]

theorem memRead_memWriteWord {a x : Nat} {w : Word} {m : Mem} (h : memWf m = true) :
    memRead x (memWriteWords a [w] m) = if a ≤ x ∧ x < a + 8 then byteOf w (x - a) else memRead x m := by
  have hbytes : bytesOf [w] = wordBytes w := List.flatMap_singleton _ _
  rw [memWriteWords, hbytes, memRead_memWriteBytes h, wordBytes_length]
  split
  · exact wordBytes_getD w (by omega)
  · rfl

/-! ## Writes of a serving hub -/

section Writes
variable {a : BitVec 17} {w : Word} {strb : BitVec 8} {s : State} (hs : serving s = true)
include hs

theorem exec_registerWrite_of_mailbox (hlo : 0x2000 ≤ a.toNat) (hhi : a.toNat < 0x4000) :
    exec (.registerWrite a w strb) s = .next (writeMailbox (8 * (a.toNat - 0x2000)) w strb (hrDone 0 s)) := by
  have hin : 0x10000 ≤ 8 * a.toNat ∧ 8 * a.toNat < 0x20000 := by omega
  have hoff : 8 * a.toNat - 0x10000 = 8 * (a.toNat - 0x2000) := by omega
  refine congrArg Host.Outcome.next ((if_pos hin).trans ((if_pos hs).trans ?_))
  rw [hoff]

/-- R585: outside the mailboxes a write with a byte not enabled is only answered. -/
theorem exec_write_of_partial (hstrb : strb ≠ 0xFF) :
    ∀ i ∈ [Instr.timeRateWrite w strb, .rateErrClear w strb, .irqStatusClear w strb, .irqTest w strb, .fwGo w strb,
      .ckRun w strb, .ckFeedB w strb, .ckFeedH w strb, .ckFeedW w strb, .ckCtrlHost w strb, .ckOverrunClear w strb],
    exec i s = .next (hrDone 0 s) := by
  have hpart : ∀ act, Host.Outcome.next (hrWrite strb act s) = (.next (hrDone 0 s) : Host.Outcome State Fault Refusal) :=
    fun act => by rw [hrWrite_of_partial act hs hstrb]
  simp only [List.mem_cons, List.not_mem_nil, or_false, forall_eq_or_imp, forall_eq]
  exact ⟨hpart _, hpart _, hpart _, hpart _, hpart _, hpart _, hpart _, hpart _, hpart _, hpart _, hpart _⟩

end Writes

/-- R585: the enabled bytes of a mailbox word take the written ones, all masked by the bits the word has (R9). -/
theorem memRead_writeMailbox {off x : Nat} {w : Word} {strb : BitVec 8} {mem : Mem} (hwf : memWf mem = true) :
    memRead x (memWriteWords off [mergeBytes (memWord off mem) w strb &&& mailboxBits off] mem) =
      if off ≤ x ∧ x < off + 8 then
        (if strb.getLsbD (x - off) = true then byteOf w (x - off) else memRead x mem) &&& byteOf (mailboxBits off) (x - off)
      else memRead x mem := by
  rw [memRead_memWriteWord hwf]
  refine ite_congr rfl (fun hin => ?_) fun _ => rfl
  have hk : x - off < 8 := by omega
  rw [byteOf_and, byteOf_mergeBytes _ _ _ hk, byteOf_memWord _ _ hk, Nat.add_sub_cancel' hin.1]

/-- Settles O35: a write by its place, in a mailbox by whether its word is a SEAL. -/
theorem writesTakeTheirByteEnables : Obligations.WritesTakeTheirByteEnables := by
  refine ⟨fun w strb s hs hstrb => ⟨exec_write_of_partial hs hstrb, fun a ha => ?outside⟩, fun a w strb s hs hlo hhi => ?mailbox⟩
  case outside => rw [exec_registerWrite_of_register _ _ _ ha, hrWrite_of_partial _ hs hstrb]
  case mailbox =>
    intro off
    have hrun := exec_registerWrite_of_mailbox (w := w) (strb := strb) hs hlo hhi
    refine ⟨fun hseal hstrb => hrun.trans (congrArg _ (if_pos ⟨hseal, hstrb⟩)), fun hwhole hwf =>
      ⟨_, hrun.trans (congrArg _ (if_neg ?_)), fun x => memRead_writeMailbox hwf⟩⟩
    rintro ⟨hseal, hstrb⟩
    exact hwhole.elim (fun h => h hseal) hstrb

end Sys2Proof.Machine
end

/-! # Errors and hangs (R341 to R351, R357 to R369, R378 to R381, R504, R612) -/
section
namespace Sys2Proof.Machine

/-! ## The intake queue and its log (R347, R504, R612) -/

section Intake
variable {s : State} {r : ErrRec} {l : List ErrRec}

theorem exec_errorRecordArrival_of_none (hf : s.errors.flight = []) : exec .errorRecordArrival s = .next s := by
  refine congrArg Host.Outcome.next ?_
  rw [hf]

theorem exec_errorRecordArrival_of_full (hf : s.errors.flight = r :: l) (hfull : 4096 ≤ s.errors.queue.length) :
    exec .errorRecordArrival s = .next s := by
  refine congrArg Host.Outcome.next ?_
  rw [hf]
  exact if_pos (.inl hfull)

/-- R347: a record that is queued begins storm mode where it is due. -/
theorem exec_errorRecordArrival_of_room (hf : s.errors.flight = r :: l) (hs : serving s = true)
    (hroom : s.errors.queue.length < 4096) :
    let b := { s with errors := { s.errors with
      flight := l, queue := s.errors.queue ++ [r], winRecords := s.errors.winRecords + 1 } }
    exec .errorRecordArrival s = .next (if stormDue b && !s.errors.storm then enterStorm b else b) := by
  refine congrArg Host.Outcome.next ?_
  rw [hf]
  refine if_neg ?_
  simp [hs, hroom]

theorem exec_intakeLogMove_of_none (hq : s.errors.queue = []) (w : Word) : exec (.intakeLogMove w) s = .next s := by
  refine congrArg Host.Outcome.next ?_
  rw [hq]

/-- R504: the oldest queued record is logged; a TRIGGER record also counts its slot's fire. -/
theorem exec_intakeLogMove_of_record (w : Word) (hq : s.errors.queue = r :: l) (hs : serving s = true) :
    let b := logRecord r { s with errors := { s.errors with queue := l } }
    let i := bits r.w2 63 56
    let f := { b with autofence := { b.autofence with fires := b.autofence.fires.modify i satInc } }
    exec (.intakeLogMove w) s = .next (if bits r.w1 63 60 = 10 then
      (match f.autofence.slots.getD i none with
        | none => f
        | some p => if basic f then f else triggered i (bits r.w1 47 32 / 8) p w f) else b) := by
  refine congrArg Host.Outcome.next ?_
  rw [hq]
  exact if_pos hs

end Intake

/-! ## Leaf intervals and windows (R345, R348 to R351) -/

section Windows
variable {s : State}

theorem exec_coalesceIntervalEnd_of_open {cluster : ClusterIx} {cyc : Nat} {l : Leaf} {t : GT}
    (hl : tget cluster.toNat s.leaves = some l) (ht : l.err.start = some t) (hv : leafValid s cluster.toNat = true) :
    exec (.coalesceIntervalEnd cluster cyc) s =
      .next (if t + 4000 ≤ leafGt s cluster.toNat cyc then endInterval cluster.toNat s else s) := by
  refine congrArg Host.Outcome.next ?_
  rw [hl, Option.map_some, Option.getD_some, ht]
  exact if_congr (and_iff_right hv) rfl rfl

/-- R348: the window in which the state's errors are counted next, after the partitions' summaries are logged. -/
def windowTurned (s : State) : State :=
  let total := (s.leaves.map fun q => windowTotal q.2.err).foldl (· + ·) 0
  let sums := if s.errors.storm = true then (List.range 8).filterMap (summaryRec s) else []
  let l := sums.foldl (fun s r => logRecord r s) s
  { l with
    leaves := tmap (fun _ y => { y with err := { y.err with window := List.replicate 4 0 } }) l.leaves
    errors := { l.errors with
      winStart := hubGt s / 40000 * 40000, winRecords := 0, summaries := l.errors.summaries + sums.length
      quiet := if l.errors.storm && decide (total < 64) && !stormDue s then l.errors.quiet + 1 else 0 } }

theorem exec_stormWindowEnd_of_open (h : hubGt s / 40000 * 40000 ≤ s.errors.winStart ∨ serving s = false) :
    exec .stormWindowEnd s = .next s := by
  refine congrArg Host.Outcome.next (if_neg ?_)
  rintro ⟨hlt, hs⟩
  exact h.elim (Nat.not_le.mpr hlt) (by simp [hs])

/-- R349: what follows a window in storm mode: the latched records in basic service, else the mode's end after three quiet
ones. -/
theorem exec_stormWindowEnd_of_over (hs : serving s = true) (hover : s.errors.winStart < hubGt s / 40000 * 40000) :
    let e := windowTurned s
    exec .stormWindowEnd s = .next (if e.errors.storm = false then e
      else if basic e = true then (latched e).foldl (fun s r => logRecord r s) (clearLatches e)
      else if 3 ≤ e.errors.quiet then exitStorm e else e) := by
  intro e
  refine congrArg Host.Outcome.next ((if_pos ⟨hover, hs⟩).trans ?_)
  exact if_congr (by rw [Bool.not_eq_true']; rfl) rfl rfl

end Windows

/-! ## SRAM errors (R341) -/

section Records
variable (gt : GT) (src cls n : Nat) (tags : Option Tags) (unit : BitVec 16) (gen : BitVec 8) (code addr : Nat) (detail : Word)

/-- Table 11.3: a record's second word, its source and class above the rest. -/
theorem toNat_errRec_w1 : ∃ low < 2 ^ 58, (errRec gt src cls n tags unit gen code addr detail).w1.toNat =
    src % 16 * 2 ^ 60 + cls % 4 * 2 ^ 58 + low := by
  have htags := b2n_lt_two tags.isSome
  refine ⟨n % 16 * 2 ^ 54 + b2n tags.isSome * 2 ^ 53 + unit.toNat % 2 ^ 16 * 2 ^ 32 + gen.toNat % 2 ^ 8 * 2 ^ 24 +
    ctxField tags % 2 ^ 16, by omega, ?_⟩
  simp only [errRec, pk, List.foldl, BitVec.toNat_ofNat, Nat.shiftLeft_eq]
  omega

theorem bits_errRec_source : bits (errRec gt src cls n tags unit gen code addr detail).w1 63 60 = src % 16 := by
  obtain ⟨low, hlow, hw⟩ := toNat_errRec_w1 gt src cls n tags unit gen code addr detail
  rw [bits, hw, Nat.shiftRight_eq_div_pow]
  omega

theorem bits_errRec_class : bits (errRec gt src cls n tags unit gen code addr detail).w1 59 58 = cls % 4 := by
  obtain ⟨low, hlow, hw⟩ := toNat_errRec_w1 gt src cls n tags unit gen code addr detail
  rw [bits, hw, Nat.shiftRight_eq_div_pow]
  omega

end Records

theorem exec_hubSramError_of_corrected {s : State} {code : BitVec 16} {addr : BitVec 32} (hs : serving s = true) :
    exec (.hubSramError code addr true) s = .next (hubError 4 0 code.toNat addr.toNat 0 s) :=
  congrArg Host.Outcome.next (if_pos hs)

theorem exec_hubSramError_of_uncorrected {s : State} {code : BitVec 16} {addr : BitVec 32} (hs : serving s = true) :
    exec (.hubSramError code addr false) s = .next (sramHandled code.toNat addr.toNat
      (raiseEvent 0x0303 3 [wn code.toNat, wn addr.toNat] {} 0 (hubError 4 1 code.toNat addr.toNat 0 s))) :=
  congrArg Host.Outcome.next (if_pos hs)

/-- Settles O54: each row by the queue, the interval or the window that it concerns. -/
theorem errorRowsComplete : Obligations.ErrorRowsComplete := by
  refine ⟨fun _ => exec_errorRecordArrival_of_none, fun s r l hf hs => ?arrival, fun _ hq w => exec_intakeLogMove_of_none hq w,
    fun s r l w hq hs => ?move, fun cluster cyc s l t hl ht hv => ?interval,
    fun _ _ _ hstorm => congrArg Host.Outcome.next (if_neg (Bool.eq_false_iff.mp hstorm)),
    fun _ _ _ hstorm => congrArg Host.Outcome.next (if_pos hstorm), fun _ => exec_stormWindowEnd_of_open,
    fun _ => exec_stormWindowEnd_of_over,
    fun cluster cyc code addr corrected s => ⟨_, rfl, rfl, bits_errRec_source .., (bits_errRec_class ..).trans ?ofClass⟩,
    fun _ _ _ hs => ⟨exec_hubSramError_of_corrected hs, exec_hubSramError_of_uncorrected hs⟩⟩
  case arrival =>
    intro b due
    refine ⟨exec_errorRecordArrival_of_full hf, fun hroom hno => ?_, fun hroom hdue hstorm => ?_⟩
    · have hrests : (stormDue b && !s.errors.storm) = false := Bool.and_eq_false_iff.mpr (hno.imp id fun h => by rw [h]; rfl)
      exact (exec_errorRecordArrival_of_room hf hs hroom).trans (congrArg _ (if_neg (Bool.eq_false_iff.mp hrests)))
    · have hbegins : (stormDue b && !s.errors.storm) = true := (Bool.and_eq_true _ _).mpr ⟨hdue, by rw [hstorm]; rfl⟩
      exact (exec_errorRecordArrival_of_room hf hs hroom).trans (congrArg _ (if_pos hbegins))
  case move =>
    intro b i f
    have hrun := exec_intakeLogMove_of_record w hq hs
    refine ⟨fun hother => hrun.trans (congrArg _ (if_neg hother)), fun htrigger hfree => ?_, fun p htrigger hslot => ?_⟩
    · rw [hrun, if_pos htrigger, hfree]
    · rw [hrun, if_pos htrigger, hslot]
  case interval =>
    have hrun := exec_coalesceIntervalEnd_of_open (cyc := cyc) hl ht hv
    exact ⟨fun hover => hrun.trans (congrArg _ (if_pos hover)),
      fun hearly => hrun.trans (congrArg _ (if_neg (Nat.not_le.mpr hearly)))⟩
  case ofClass => cases corrected <;> rfl

/-! ## Wait edges (R357 to R361) -/

section Edges
variable {s : State}

/-- R359: the wait edge that engine `e` of core `co` raises. -/
def edgeOf (s : State) (co : Core) (c e : Nat) : WaitEdge :=
  let en := engOf co e
  { chan := en.lChan, full := decide (en.lStall = 3), ctx := ((en.lCur.map (·.ctx)).getD 0xFFFF)
    layer := ((en.lCur.map (·.layer)).getD 0), gen := engGen s c e, since := en.lSince, serial := en.serial + 1 }

/-- The stall of engine `e` is to be reported: allowed, unbroken for BLOCK_GT and not reported yet. -/
def edgeDue (s : State) (co : Core) (c e cyc : Nat) : Prop :=
  let en := engOf co e
  edgesAllowed co = true ∧ en.st ≠ .resetting ∧ chanStall en = true ∧ en.edge = none ∧ leafValid s (clusterOf c) = true ∧
    max en.lSince en.blockFrom + s.hang.blockGt ≤ leafGt s (clusterOf c) cyc

section Raise
variable {core : CoreIx} {eng : EngIx} {cyc : Nat} {co : Core} (hco : coreOf s core.toNat = some co)
include hco

theorem exec_waitEdgeRaise_of_due (h : edgeDue s co core.toNat eng.toNat cyc) :
    let c := core.toNat
    let e := eng.toNat
    let w := edgeOf s co c e
    exec (.waitEdgeRaise core eng cyc) s = .next { modEng c e (fun x => { x with edge := some w, serial := w.serial }) s with
      hang := { s.hang with flight := s.hang.flight ++ [.edge c e w] } } := by
  refine congrArg Host.Outcome.next ?_
  rw [hco]
  exact if_pos h

theorem exec_waitEdgeRaise_of_not_due (h : ¬ edgeDue s co core.toNat eng.toNat cyc) :
    exec (.waitEdgeRaise core eng cyc) s = .next s := by
  refine congrArg Host.Outcome.next ?_
  rw [hco]
  exact if_neg h

end Raise

theorem exec_waitEdgeReceive_of_none (hf : s.hang.flight = []) : exec .waitEdgeReceive s = .next s := by
  refine congrArg Host.Outcome.next ?_
  rw [hf]

/-- R361: an edge of the current generation is taken, one of an old generation counted. -/
theorem exec_waitEdgeReceive_of_edge {c e : Nat} {w : WaitEdge} {l : List EdgeMsg} (hf : s.hang.flight = .edge c e w :: l)
    (hs : serving s = true) :
    let b := { s with hang := { s.hang with flight := l } }
    exec .waitEdgeReceive s = .next (if w.gen ≠ engGen s c e then countStale b else takeEdge (c * 8 + e) w b) := by
  refine congrArg Host.Outcome.next ?_
  rw [hf]
  exact if_pos hs

theorem exec_waitEdgeReceive_of_withdrawal {c e : Nat} {gen : BitVec 8} {serial : BitVec 16} {l : List EdgeMsg}
    (hf : s.hang.flight = .withdraw c e gen serial :: l) (hs : serving s = true) :
    let b := { s with hang := { s.hang with flight := l } }
    exec .waitEdgeReceive s = .next (if gen ≠ engGen s c e then countStale b else match tget (c * 8 + e) s.hang.edges with
      | none => edgeWithdrawn (c * 8 + e) b
      | some w => if w.serial = serial then
          edgeWithdrawn (c * 8 + e) { b with hang := { b.hang with edges := tdel (c * 8 + e) s.hang.edges } } else b) := by
  refine congrArg Host.Outcome.next ?_
  rw [hf]
  exact if_pos hs

end Edges

/-! ## Sweeps, FALLBACK and the ABORT action (R362 to R369, R378, R379, R381) -/

section Sweeps
variable {s : State}

theorem exec_knotSweep_of_no_sweep {read : Word}
    (h : serving s = false ∨ hubGt s / s.hang.period * s.hang.period ≤ s.hang.lastSweep) :
    exec (.knotSweep read) s = .next s := by
  refine congrArg Host.Outcome.next (if_neg ?_)
  rintro ⟨hs, hlt⟩
  exact h.elim (by simp [hs]) (Nat.not_le.mpr hlt)

theorem exec_knotSweep_of_sweep {read : Word} (hs : serving s = true)
    (hlt : s.hang.lastSweep < hubGt s / s.hang.period * s.hang.period) :
    let g := hubGt s / s.hang.period * s.hang.period
    let b := progressSweep g { s with hang := { s.hang with lastSweep := g } }
    let none_ := { b with hang := { b.hang with cands := [] } }
    exec (.knotSweep read) s = .next (if basic b then none_
      else if b.hang.fallback then
        if b.hang.resend.isNone && decide (b.hang.edges.length ≤ 24576) then
          { b with hang := { b.hang with resend := some (allClusters b) } } else b
      else if b.hang.knots then knotSweep g read b else none_) :=
  congrArg Host.Outcome.next (if_pos ⟨hs, hlt⟩)

/-- R379: the state in which every edge that still stands in a cluster's cores has been taken again. -/
def edgesResent (cl : Nat) (s : State) : State :=
  (s.cores.filter fun q => decide (clusterOf q.1 = cl)).foldl (fun s q => q.2.engs.zipIdx.foldl (fun s x =>
    match x.1.edge with | none => s | some w => takeEdge (q.1 * 8 + x.2) w s) s) s

theorem exec_fallbackResendDone_of_none {cluster : ClusterIx} (hr : s.hang.resend = none) :
    exec (.fallbackResendDone cluster) s = .next s := by
  refine congrArg Host.Outcome.next ?_
  rw [hr]

theorem exec_fallbackResendDone_of_resend {cluster : ClusterIx} {cls : List Nat} (hr : s.hang.resend = some cls) :
    let cl := cluster.toNat
    let t := edgesResent cl s
    let left := cls.filter (· ≠ cl)
    exec (.fallbackResendDone cluster) s = .next (if cl ∈ cls ∧ basic s = false then
      if left = [] then raiseEvent 0x0114 1 [wn (hubGt t)] {} 0 { t with hang := { t.hang with
        fallback := false, resend := none, cands := [] } }
      else { t with hang := { t.hang with resend := some left } } else s) := by
  refine congrArg Host.Outcome.next ?_
  rw [hr]
  rfl

theorem exec_hangAbortTimeout_of_none {id : BitVec 32} (h : (s.hang.standing.find? (fun k => k.id == id)).bind (·.abort) = none) :
    exec (.hangAbortTimeout id) s = .next s := by
  refine congrArg Host.Outcome.next ?_
  rw [h]

theorem exec_hangAbortTimeout_of_action {id : BitVec 32} {ctx : BitVec 16} {due : GT}
    (h : (s.hang.standing.find? (fun k => k.id == id)).bind (·.abort) = some (ctx, due)) :
    exec (.hangAbortTimeout id) s = .next (if due ≤ hubGt s ∧ basic s = false then takeAbort id s else s) := by
  refine congrArg Host.Outcome.next ?_
  rw [h]

end Sweeps

/-- Settles O55: each row by the message, the sweep instant, the resend or the action that it concerns. -/
theorem hangDetectionRowsComplete : Obligations.HangDetectionRowsComplete := by
  refine ⟨fun core eng cyc s co => ?raise, fun _ => exec_waitEdgeReceive_of_none, fun s c e w l hf hs => ?edge,
    fun s c e gen serial l hf hs => ?withdrawal, fun _ _ => exec_knotSweep_of_no_sweep, fun read s => ?sweep,
    fun _ _ => exec_fallbackResendDone_of_none, fun cluster s cls hr => ?resend, fun _ _ => exec_hangAbortTimeout_of_none,
    fun id s k ctx due hk hdue => ?abort⟩
  case raise =>
    intro c e en ripe hco
    refine ⟨fun hno => exec_waitEdgeRaise_of_not_due hco ?_, fun hallowed hst hstall hvalid hripe hedge =>
      ⟨edgeOf s co c e, exec_waitEdgeRaise_of_due hco ⟨hallowed, hst, hstall, hedge, hvalid, hripe⟩, rfl, rfl, rfl, rfl, rfl⟩⟩
    rintro ⟨hallowed, hst, hstall, hedge, hvalid, hripe⟩
    rcases hno with h | h | h | h | h | h
    · exact Bool.eq_false_iff.mp h hallowed
    · exact hst h
    · exact Bool.eq_false_iff.mp h hstall
    · exact Bool.eq_false_iff.mp h hvalid
    · exact Nat.not_le.mpr h hripe
    · exact h hedge
  case edge =>
    intro b
    have hrun := exec_waitEdgeReceive_of_edge hf hs
    exact ⟨fun hgen => hrun.trans (congrArg _ (if_neg (not_not_intro hgen))), fun hgen => hrun.trans (congrArg _ (if_pos hgen))⟩
  case withdrawal =>
    intro b
    have hrun := exec_waitEdgeReceive_of_withdrawal hf hs
    refine ⟨fun hgen => hrun.trans (congrArg _ (if_pos hgen)), fun hgen => ?_⟩
    replace hrun := hrun.trans (congrArg _ (if_neg (not_not_intro hgen)))
    refine ⟨fun hnone => ?_, fun w hw hserial => ?_, fun w hw hserial => ?_⟩
    · rw [hrun, hnone]
    · rw [hrun, hw]
      exact congrArg _ (if_pos hserial)
    · rw [hrun, hw]
      exact congrArg _ (if_neg hserial)
  case sweep =>
    intro g b none_ hs hlt
    have hrun : exec (.knotSweep read) s = _ := exec_knotSweep_of_sweep hs hlt
    refine ⟨fun hbasic => hrun.trans (congrArg _ (if_pos hbasic)), fun hbasic hfall hidle hfew => ?_,
      fun hbasic hfall hbusy => ?_, fun hbasic hfall hknots => ?_, fun hbasic hfall hknots => ?_⟩
    all_goals refine hrun.trans (congrArg _ ((if_neg (Bool.eq_false_iff.mp hbasic)).trans ?_))
    · exact (if_pos hfall).trans (if_pos (by simp [g, b, hidle, hfew]))
    · refine (if_pos hfall).trans (if_neg ?_)
      rw [Bool.and_eq_true, Option.isNone_iff_eq_none, decide_eq_true_eq]
      exact fun hboth => hbusy.elim (fun h => h hboth.1) (Nat.not_lt.mpr hboth.2)
    · exact (if_neg (Bool.eq_false_iff.mp hfall)).trans (if_pos hknots)
    · exact (if_neg (Bool.eq_false_iff.mp hfall)).trans (if_neg (Bool.eq_false_iff.mp hknots))
  case resend =>
    intro cl t left
    have hrun := exec_fallbackResendDone_of_resend (cluster := cluster) hr
    refine ⟨fun hno => hrun.trans (congrArg _ (if_neg ?_)),
      fun hin hbasic hleft => hrun.trans (congrArg _ ((if_pos ⟨hin, hbasic⟩).trans (if_neg hleft))),
      fun hin hbasic hleft => hrun.trans (congrArg _ ((if_pos ⟨hin, hbasic⟩).trans (if_pos hleft)))⟩
    rintro ⟨hin, hbasic⟩
    exact hno.elim (fun h => h hin) (by simp [hbasic])
  case abort =>
    have hrun := exec_hangAbortTimeout_of_action (s := s) (id := id) (ctx := ctx) (due := due)
      (by rw [hk, Option.bind_some, hdue])
    refine ⟨fun hno => hrun.trans (congrArg _ (if_neg ?_)), fun hover hbasic => hrun.trans (congrArg _ (if_pos ⟨hover, hbasic⟩))⟩
    rintro ⟨hover, hbasic⟩
    exact hno.elim (Nat.not_lt.mpr hover) (by simp [hbasic])

end Sys2Proof.Machine
end

/-! # The link of an Iazan port (R439, R442 to R446) -/
section
namespace Sys2Proof.Machine

/-- R439: the state in which a port has kept a link flit's GT, chip and AVOID, and flooded where AVOID turned. -/
def flitKept (p : Nat) (f : LinkFlit) (s : State) : State :=
  let m := modPort p (fun q => { q with lastFlit := hubGt s, neighbour := f.chip, navoid := f.avoid }) s
  if (portOf s p).navoid ≠ f.avoid then floodLinkState m else m

/-- R442: a flit kept goes on by the state of its port. -/
def flitByState (p : Nat) (f : LinkFlit) (s : State) : State :=
  match (portOf s p).st with
  | .training => trainFlit p f s
  | .live => liveFlit p f s
  | _ => s

section ByState
variable {p : Nat} {f : LinkFlit} {s : State}

theorem flitByState_of_training (h : (portOf s p).st = .training) : flitByState p f s = trainFlit p f s := by
  rw [flitByState, h]

theorem flitByState_of_live (h : (portOf s p).st = .live) : flitByState p f s = liveFlit p f s := by
  rw [flitByState, h]

theorem flitByState_of_other (htrain : (portOf s p).st ≠ .training) (hlive : (portOf s p).st ≠ .live) :
    flitByState p f s = s := by
  unfold flitByState
  split
  · contradiction
  · contradiction
  · rfl

end ByState

/-- R443: the state in which a port has sent its link flit. -/
def flitSent (p : Nat) (s : State) : State :=
  modPort p (fun q => { q with
    lastSent := hubGt s, sentFlit := some (linkFlitOf s p), tx := [linkFlitWords (linkFlitOf s p)], nakDue := false
    freed := q.freed.map (· - 255), txAfter := if q.checked then q.txAfter + 1 else q.txAfter }) s

section Ports
variable {port : BitVec 3} {s : State}

theorem exec_iazanPhyUp_of_up (hup : (portOf s port.toNat).phy = true) : exec (.iazanPhyUp port) s = .next s :=
  congrArg Host.Outcome.next (if_neg (by simp [hup]))

theorem exec_iazanPhyDown_of_down (hdown : (portOf s port.toNat).phy = false) : exec (.iazanPhyDown port) s = .next s :=
  congrArg Host.Outcome.next (if_neg (by simp [hdown]))

/-- A port row of a hub that does not serve, or of no port, changes nothing. -/
theorem exec_portRows_of_no_port (f : LinkFlit) (h : serving s = false ∨ 6 ≤ port.toNat) :
    exec (.iazanPhyUp port) s = .next s ∧ exec (.iazanPhyDown port) s = .next s ∧
    exec (.linkFlitReceive port f) s = .next s ∧ exec (.linkFlitSend port) s = .next s := by
  have hno : ¬ (serving s = true ∧ port.toNat < 6) := by
    rintro ⟨hs, hp⟩
    exact h.elim (by simp [hs]) (Nat.not_le.mpr hp)
  exact ⟨congrArg Host.Outcome.next (if_neg fun hall => hno ⟨hall.1, hall.2.1⟩),
    congrArg Host.Outcome.next (if_neg fun hall => hno ⟨hall.1, hall.2.1⟩),
    congrArg Host.Outcome.next (if_neg fun hall => hno ⟨hall.1, hall.2.1⟩),
    congrArg Host.Outcome.next (if_neg fun hall => hno ⟨hall.1, hall.2.1⟩)⟩

theorem exec_flitRows_of_no_link (f : LinkFlit) (h : (portOf s port.toNat).phy = false ∨ (portOf s port.toNat).st = .down) :
    exec (.linkFlitReceive port f) s = .next s ∧ exec (.linkFlitSend port) s = .next s := by
  have hno : ¬ ((portOf s port.toNat).phy = true ∧ (portOf s port.toNat).st ≠ .down) := by
    rintro ⟨hphy, hst⟩
    exact h.elim (by simp [hphy]) hst
  exact ⟨congrArg Host.Outcome.next (if_neg fun hall => hno hall.2.2),
    congrArg Host.Outcome.next (if_neg fun hall => hno hall.2.2)⟩

theorem exec_liveRows_of_not_live (h : (portOf s port.toNat).st ≠ .live) :
    exec (.linkFlitTimeout port) s = .next s ∧ exec (.checkFailureLimit port) s = .next s :=
  ⟨congrArg Host.Outcome.next (if_neg fun hall => h hall.2.1), congrArg Host.Outcome.next (if_neg fun hall => h hall.2.1)⟩

theorem exec_iazanFencedRetry_of_not_fenced (h : (portOf s port.toNat).st ≠ .fenced) :
    exec (.iazanFencedRetry port) s = .next s :=
  congrArg Host.Outcome.next (if_neg fun hall => h hall.2.1)

variable (hs : serving s = true)
include hs

section Times

theorem exec_linkFlitTimeout_of_live (hst : (portOf s port.toNat).st = .live) : exec (.linkFlitTimeout port) s =
    .next (if (portOf s port.toNat).lastFlit + 40000 ≤ hubGt s then goDown port.toNat s else s) :=
  congrArg Host.Outcome.next (if_congr ((and_iff_right hs).trans (and_iff_right hst)) rfl rfl)

/-- R444: 16 failed checks within the time take the port down. -/
theorem exec_checkFailureLimit_of_live (hst : (portOf s port.toNat).st = .live) : exec (.checkFailureLimit port) s =
    .next (if 16 ≤ ((portOf s port.toNat).failures.filter fun g => decide (hubGt s < g + 4000000)).length then
      goDown port.toNat (hubError 6 3 0 0 0 (modPort port.toNat (fun q => { q with
        retrainPulses := q.retrainPulses + 1, retrain := satInc q.retrain }) s)) else s) :=
  congrArg Host.Outcome.next (if_congr ((and_iff_right hs).trans (and_iff_right hst)) rfl rfl)

theorem exec_iazanFencedRetry_of_fenced (hst : (portOf s port.toNat).st = .fenced) : exec (.iazanFencedRetry port) s =
    .next (if (portOf s port.toNat).fencedAt + 4000000000 ≤ hubGt s then enterTraining port.toNat s else s) :=
  congrArg Host.Outcome.next (if_congr ((and_iff_right hs).trans (and_iff_right hst)) rfl rfl)

end Times

variable (hp : port.toNat < 6)
include hp

theorem exec_iazanPhyUp_of_down (hphy : (portOf s port.toNat).phy = false) :
    let b := modPort port.toNat (fun q => { q with phy := true }) s
    exec (.iazanPhyUp port) s = .next (if portUsable b port.toNat then enterTraining port.toNat b else b) :=
  congrArg Host.Outcome.next (if_pos ⟨hs, hp, hphy⟩)

/-- R442: a PHY that falls takes its port down unless the port is DOWN already. -/
theorem exec_iazanPhyDown_of_up (hphy : (portOf s port.toNat).phy = true) (hlen : port.toNat < s.iz.ports.length) :
    let b := modPort port.toNat (fun q => { q with phy := false }) s
    exec (.iazanPhyDown port) s = .next (if (portOf s port.toNat).st = .down then b else goDown port.toNat b) := by
  refine congrArg Host.Outcome.next ((if_pos ⟨hs, hp, hphy⟩).trans (if_congr ?_ rfl rfl))
  rw [portOf_modPort_of_present _ hlen]

section Flits
variable (hphy : (portOf s port.toNat).phy = true) (hst : (portOf s port.toNat).st ≠ .down)
include hphy hst

theorem exec_linkFlitReceive_of_bad {f : LinkFlit} (hf : f.checkOk = false) : exec (.linkFlitReceive port f) s =
    .next (modPort port.toNat (fun q => { q with rxFlits := 0 }) (checkFailed port.toNat s)) :=
  congrArg Host.Outcome.next ((if_pos ⟨hs, hp, hphy, hst⟩).trans (if_pos hf))

/-- R439, R442: a good flit goes on by the state its port then has. -/
theorem exec_linkFlitReceive_of_good {f : LinkFlit} (hf : f.checkOk = true) : exec (.linkFlitReceive port f) s =
    .next (flitByState port.toNat f (flitKept port.toNat f s)) := by
  have hkept : flitKept port.toNat f s = if decide ((portOf s port.toNat).navoid ≠ f.avoid) = true then floodLinkState
      (modPort port.toNat (fun q => { q with lastFlit := hubGt s, neighbour := f.chip, navoid := f.avoid }) s)
      else modPort port.toNat (fun q => { q with lastFlit := hubGt s, neighbour := f.chip, navoid := f.avoid }) s :=
    (if_congr decide_eq_true_iff rfl rfl).symm
  rw [hkept]
  exact congrArg Host.Outcome.next ((if_pos ⟨hs, hp, hphy, hst⟩).trans ((if_neg (by simp [hf])).trans rfl))

theorem exec_linkFlitSend_of_link :
    let b := flitSent port.toNat s
    exec (.linkFlitSend port) s = .next (if liveDue (portOf b port.toNat) then goLive port.toNat (portOf b port.toNat).agreed b
      else b) :=
  congrArg Host.Outcome.next (if_pos ⟨hs, hp, hphy, hst⟩)

end Flits
end Ports

/-- Settles O56: each row by its port's PHY and state, and by the time or the flit's check. -/
theorem iazanPortRowsComplete : Obligations.IazanPortRowsComplete := by
  refine ⟨fun port s hs hp => ?_, fun port f s => exec_portRows_of_no_port f⟩
  intro p q
  refine ⟨fun hphy => ?up, fun hphy hlen => ?fall, fun hst => ?live, exec_liveRows_of_not_live, fun hst => ?fenced,
    exec_iazanFencedRetry_of_not_fenced, fun hphy hst => ⟨fun f => exec_linkFlitReceive_of_bad hs hp hphy hst, fun f hf => ?good,
      exec_linkFlitSend_of_link hs hp hphy hst⟩, fun h f => exec_flitRows_of_no_link f h⟩
  case up =>
    have hrun := exec_iazanPhyUp_of_down hs hp hphy
    exact ⟨fun husable => hrun.trans (congrArg _ (if_pos husable)),
      fun husable => hrun.trans (congrArg _ (if_neg (Bool.eq_false_iff.mp husable))), exec_iazanPhyDown_of_down hphy⟩
  case fall =>
    have hrun := exec_iazanPhyDown_of_up hs hp hphy hlen
    exact ⟨fun hdown => hrun.trans (congrArg _ (if_pos hdown)), fun hdown => hrun.trans (congrArg _ (if_neg hdown)),
      exec_iazanPhyUp_of_up hphy⟩
  case live =>
    have hsilent := exec_linkFlitTimeout_of_live hs hst
    have hfailed := exec_checkFailureLimit_of_live hs hst
    exact ⟨fun h => hsilent.trans (congrArg _ (if_pos h)), fun h => hsilent.trans (congrArg _ (if_neg (Nat.not_le.mpr h))),
      fun h => hfailed.trans (congrArg _ (if_neg (Nat.not_le.mpr h))), fun h => hfailed.trans (congrArg _ (if_pos h))⟩
  case fenced =>
    have hrun := exec_iazanFencedRetry_of_fenced hs hst
    exact ⟨fun h => hrun.trans (congrArg _ (if_pos h)), fun h => hrun.trans (congrArg _ (if_neg (Nat.not_le.mpr h)))⟩
  case good =>
    have hrun := exec_linkFlitReceive_of_good hs hp hphy hst hf
    exact ⟨fun h => hrun.trans (congrArg _ (flitByState_of_training h)), fun h => hrun.trans (congrArg _ (flitByState_of_live h)),
      fun htrain hlive => hrun.trans (congrArg _ (flitByState_of_other htrain hlive))⟩

end Sys2Proof.Machine
end

/-! # Last gasp (R567 to R580) -/
section
namespace Sys2Proof.Machine

/-! ## The record's words (R571 to R574) -/

@[simp] theorem padWords_length (n : Nat) (ws : List Word) : (padWords n ws).length = n := by
  rw [padWords, List.length_append, List.length_take, List.length_replicate]
  omega

theorem recordCrock_length (x : CrockEntry) : (recordCrock x).length = 2 := by
  unfold recordCrock
  split
  · rfl
  · rfl

/-- Words 32 to 95: the crock entries fill the end of their 64 words. -/
theorem crockWords_length (src : Nat) (crock : List CrockEntry) :
    (List.replicate (if src = 0 then 64 else 64 - 2 * min 32 crock.length) (0 : Word) ++
      (if src = 0 then [] else (crock.take 32).flatMap recordCrock)).length = 64 := by
  have hentries : ((crock.take 32).flatMap recordCrock).length = 2 * min 32 crock.length := by
    rw [List.length_flatMap, List.map_congr_left fun x _ => recordCrock_length x, List.map_const', List.sum_replicate,
      List.length_take, smul_eq_mul, Nat.mul_comm]
  rw [List.length_append, List.length_replicate]
  split
  · rfl
  · rw [hentries]
    omega

section Body
variable (cause : Nat) (reason : BitVec 8) (discarded : Nat) (s : State)

theorem recordBody_length : (recordBody cause reason discarded s).length = 1020 := by
  have hcrock := crockWords_length s.pw.staging.crockSrc s.pw.staging.crock
  rw [List.length_append] at hcrock
  simp only [recordBody, List.length_append, List.length_cons, List.length_nil, List.length_replicate,
    padWords_length] at hcrock ⊢
  omega

theorem recordBody_magic : (recordBody cause reason discarded s).getD 0 0 = lgMagic := rfl

/-- Word 1: the SEQ, the CAUSE and the reason above the chip. -/
theorem recordBody_word_one : (recordBody cause reason discarded s).getD 1 0 =
    pk [(32, 32, s.pw.nextSeq.toNat), (24, 8, cause), (16, 8, reason.toNat), (0, 16, (chipOf s).toNat)] := rfl

theorem toNat_recordBody_word_one : ((recordBody cause reason discarded s).getD 1 0).toNat =
    s.pw.nextSeq.toNat * 2 ^ 32 + cause % 2 ^ 8 * 2 ^ 24 + reason.toNat * 2 ^ 16 + (chipOf s).toNat := by
  have hseq := s.pw.nextSeq.isLt
  have hreason := reason.isLt
  have hchip := (chipOf s).isLt
  rw [recordBody_word_one]
  simp only [pk, List.foldl, BitVec.toNat_ofNat, Nat.shiftLeft_eq]
  omega

theorem recordSeq_recordBody : recordSeq (recordBody cause reason discarded s) = s.pw.nextSeq := by
  have hseq := s.pw.nextSeq.isLt
  have hreason := reason.isLt
  have hchip := (chipOf s).isLt
  refine BitVec.eq_of_toNat_eq ?_
  rw [recordSeq, fieldB, BitVec.toNat_ofNat, toNat_recordBody_word_one, Nat.shiftRight_eq_div_pow]
  omega

theorem recordCause_recordBody : recordCause (recordBody cause reason discarded s) = cause % 2 ^ 8 := by
  have hreason := reason.isLt
  have hchip := (chipOf s).isLt
  rw [recordCause, bits, toNat_recordBody_word_one, Nat.shiftRight_eq_div_pow]
  omega

theorem recordReason_recordBody : recordReason (recordBody cause reason discarded s) = reason.toNat := by
  have hreason := reason.isLt
  have hchip := (chipOf s).isLt
  rw [recordReason, bits, toNat_recordBody_word_one, Nat.shiftRight_eq_div_pow]
  omega

end Body

/-! ## The seal (R574) -/

theorem fieldB_seal_seq (q : BitVec 32) : fieldB 32 (pk [(32, 32, q.toNat)]) 32 = q := by
  have hq := q.isLt
  refine BitVec.eq_of_toNat_eq ?_
  simp only [fieldB, pk, List.foldl, BitVec.toNat_ofNat, Nat.shiftLeft_eq, Nat.shiftRight_eq_div_pow]
  omega

section Seal
variable (gt : GT) {body : List Word} (hlen : body.length = 1020)
include hlen

theorem sealRecord_getD_of_body {k : Nat} (hk : k < 1020) : (sealRecord gt body).getD k 0 = body.getD k 0 :=
  List.getD_append _ _ _ _ (by omega)

theorem sealRecord_getD_of_seal (k : Nat) : (sealRecord gt body).getD (1020 + k) 0 =
    [pk [(32, 32, (recordSeq body).toNat)], recordCheck body, wn gt, 0].getD k 0 := by
  rw [sealRecord, List.getD_append_right _ _ _ _ (by omega), hlen, Nat.add_sub_cancel_left]

theorem recordSeq_sealRecord : recordSeq (sealRecord gt body) = recordSeq body := by
  rw [recordSeq, sealRecord_getD_of_body gt hlen (by omega), ← recordSeq]

theorem recordCheck_sealRecord : recordCheck (sealRecord gt body) = recordCheck body := by
  have htake : (sealRecord gt body).take 1020 = body.take 1020 := by
    rw [sealRecord, ← hlen, List.take_left, List.take_length]
  rw [recordCheck, recordSeq_sealRecord gt hlen, sealRecord_getD_of_body gt hlen (by omega), htake, ← recordCheck]

/-- A sealed body that begins with the magic word is valid. -/
theorem recordValid_sealRecord (hmagic : body.getD 0 0 = lgMagic) : recordValid (sealRecord gt body) = true := by
  have hlength : (sealRecord gt body).length = 1024 := by
    rw [sealRecord, List.length_append, hlen]
    rfl
  have hseq : fieldB 32 ((sealRecord gt body).getD 1020 0) 32 = recordSeq (sealRecord gt body) := by
    rw [recordSeq_sealRecord gt hlen]
    exact (congrArg (fieldB 32 · 32) (sealRecord_getD_of_seal gt hlen 0)).trans (fieldB_seal_seq _)
  have hcheck : (sealRecord gt body).getD 1021 0 = recordCheck (sealRecord gt body) := by
    rw [recordCheck_sealRecord gt hlen]
    exact sealRecord_getD_of_seal gt hlen 1
  have hfirst : (sealRecord gt body).getD 0 0 = lgMagic := (sealRecord_getD_of_body gt hlen (by omega)).trans hmagic
  unfold recordValid
  rw [hlength, hfirst, hseq, hcheck]
  simp

end Seal

/-! ## Recognition (R567 to R573, R414) -/

/-- R571: the body written at recognition; a rung 6 that runs gives its own CAUSE and the tray's reason. -/
def gaspBody (cause : Nat) (s : State) : List Word :=
  recordBody (if s.rec_.tray.reason.isSome then 2 else cause) (s.rec_.tray.reason.getD 0) s.errors.flight.length (drainIntake s)

/-- R567, R569: the state in which the hub and observation have stopped. -/
def gaspShed (s : State) : State :=
  let a := alwaysOn (drainIntake s)
  { a with power := .lastGasp, pw := { a.pw with shed := true, obsOff := true, lgDone := false } }

section Recognise
variable (cause : Nat) (s : State)

theorem recognise_of_device : recognise cause true s = { gaspShed s with pw := { (gaspShed s).pw with
    phase := .body, record := gaspBody cause s, slot := (recordSeq (gaspBody cause s)).toNat % 2
    flushes := s.pw.flushes + 1 } } := rfl

theorem recognise_of_no_device :
    recognise cause false s = endSequence true (sealRecord (hubGt (gaspShed s)) (gaspBody cause s)) (gaspShed s) := rfl

theorem gaspBody_length : (gaspBody cause s).length = 1020 := recordBody_length _ _ _ _

theorem recordSeq_gaspBody : recordSeq (gaspBody cause s) = s.pw.nextSeq := recordSeq_recordBody _ _ _ _

theorem recordValid_gaspBody (gt : GT) : recordValid (sealRecord gt (gaspBody cause s)) = true :=
  recordValid_sealRecord gt (gaspBody_length cause s) (recordBody_magic _ _ _ _)

theorem recordSeq_sealed_gaspBody (gt : GT) : recordSeq (sealRecord gt (gaspBody cause s)) = s.pw.nextSeq :=
  (recordSeq_sealRecord gt (gaspBody_length cause s)).trans (recordSeq_gaspBody cause s)

theorem recordCause_gaspBody_of_no_rung (h : s.rec_.tray.reason = none) (hcause : cause < 256) :
    recordCause (gaspBody cause s) = cause := by
  rw [gaspBody, recordCause_recordBody, h]
  exact Nat.mod_eq_of_lt hcause

theorem recordCause_gaspBody_of_rung {r : BitVec 8} (h : s.rec_.tray.reason = some r) : recordCause (gaspBody cause s) = 2 := by
  rw [gaspBody, recordCause_recordBody, h]
  rfl

theorem recordReason_gaspBody {r : BitVec 8} (h : s.rec_.tray.reason = some r) :
    recordReason (gaspBody cause s) = r.toNat := by
  rw [gaspBody, recordReason_recordBody, h, Option.getD_some]

end Recognise

section Rows
variable {s : State}

theorem exec_pfWarnRecognise_of_recognisable (h : recognisable s = true) (nv : Bool) :
    exec (.pfWarnRecognise nv) s = .next (recognise 1 nv { s with pw := { s.pw with warn := true } }) :=
  congrArg Host.Outcome.next (if_pos h)

theorem exec_retentionRequestRecognise_of_recognisable (h : recognisable s = true) (nv : Bool) :
    exec (.retentionRequestRecognise nv) s = .next (recognise 3 nv s) :=
  congrArg Host.Outcome.next (if_pos h)

theorem exec_recognitions_of_other (h : s.power = .off ∨ s.power = .lastGasp ∨ s.power = .retained) (nv : Bool) :
    exec (.pfWarnRecognise nv) s = .next s ∧ exec (.retentionRequestRecognise nv) s = .next s := by
  have hno : ¬ recognisable s = true := by
    rcases h with h | h | h <;> simp [recognisable, h]
  exact ⟨congrArg Host.Outcome.next (if_neg hno), congrArg Host.Outcome.next (if_neg hno)⟩

/-! ## The sequence (R568, R574 to R577) -/

/-- R574: after the body its record is sealed, or the sequence ends with NV_FAILED. -/
theorem exec_nvRows_of_body (hpow : s.power = .lastGasp) (hphase : s.pw.phase = .body) :
    let sealed := sealRecord (hubGt s) s.pw.record
    exec .nvDurable s = .next { s with pw := { s.pw with phase := .sealing, record := sealed, flushes := s.pw.flushes + 1 } } ∧
    exec .nvFlushTimeout s = .next (endSequence true sealed s) := by
  refine ⟨congrArg Host.Outcome.next ?_, congrArg Host.Outcome.next ?_⟩ <;> simp only [hpow, hphase]

theorem exec_nvRows_of_sealing (hpow : s.power = .lastGasp) (hphase : s.pw.phase = .sealing) :
    exec .nvDurable s = .next (endSequence false s.pw.record s) ∧
    exec .nvFlushTimeout s = .next (endSequence true s.pw.record s) := by
  refine ⟨congrArg Host.Outcome.next ?_, congrArg Host.Outcome.next ?_⟩ <;> simp only [hpow, hphase]

theorem exec_nvRows_of_no_sequence (h : s.power ≠ .lastGasp ∨ s.pw.phase = .idle) :
    exec .nvDurable s = .next s ∧ exec .nvFlushTimeout s = .next s := by
  have hno : ∀ phase, phase ≠ .idle → s.power = .lastGasp → s.pw.phase ≠ phase := fun phase hbusy hpow hphase =>
    h.elim (fun hother => hother hpow) fun hidle => hbusy (hphase.symm.trans hidle)
  refine ⟨congrArg Host.Outcome.next ?_, congrArg Host.Outcome.next ?_⟩
  all_goals
    split
    next hpow hphase => exact absurd hphase (hno _ (by decide) hpow)
    next hpow hphase => exact absurd hphase (hno _ (by decide) hpow)
    next => rfl

end Rows

/-- Settles O37: recognition by the device, the sequence's rows by its phase. -/
theorem lastGaspRowsComplete : Obligations.LastGaspRowsComplete := by
  refine ⟨fun s hpow => ?recognised, fun s h nv => exec_recognitions_of_other h nv,
    fun s hpow hphase => exec_nvRows_of_body hpow hphase, fun s hpow hphase i failed hi => ?sealing,
    fun s => exec_nvRows_of_no_sequence⟩
  case recognised =>
    have h : recognisable s = true := decide_eq_true hpow
    refine ⟨⟨_, exec_pfWarnRecognise_of_recognisable h true, ?_⟩, ⟨_, exec_retentionRequestRecognise_of_recognisable h true, ?_⟩,
      ⟨_, exec_pfWarnRecognise_of_recognisable h false, ?_⟩,
      ⟨_, exec_retentionRequestRecognise_of_recognisable h false, rfl, rfl, rfl⟩⟩
    · rw [recognise_of_device]
      exact ⟨rfl, rfl, rfl, rfl, rfl, rfl, rfl, congrArg (·.toNat % 2) (recordSeq_gaspBody 1 _), recordSeq_gaspBody 1 _,
        gaspBody_length 1 _, fun hno => recordCause_gaspBody_of_no_rung 1 _ hno (by omega), rfl⟩
    · rw [recognise_of_device]
      exact ⟨rfl, rfl, rfl, rfl, congrArg (·.toNat % 2) (recordSeq_gaspBody 3 _), gaspBody_length 3 _,
        fun hno => recordCause_gaspBody_of_no_rung 3 _ hno (by omega),
        fun r hr => ⟨recordCause_gaspBody_of_rung 3 _ hr, recordReason_gaspBody 3 _ hr⟩⟩
    · rw [recognise_of_no_device]
      exact ⟨rfl, rfl, rfl, rfl, congrArg (· + 1) (recordSeq_sealed_gaspBody 1 _ _), _, rfl, recordValid_gaspBody 1 _ _⟩
  case sealing =>
    obtain ⟨hdurable, htimeout⟩ := exec_nvRows_of_sealing hpow hphase
    rcases hi with hi | hi <;> cases hi
    · exact hdurable
    · exact htimeout

end Sys2Proof.Machine
end

/-! # The firmware (R475 to R480, R505, R506) -/
section
namespace Sys2Proof.Machine

/-! ## The firmware's record -/

theorem startLoad_fw (s : State) : (startLoad s).fw = { s.fw with
    state := .loading, latched := s.fw.base, load := s.fw.load + 1, header := [], pieces := [], awaited := 1
    started := false } := by
  rw [startLoad, askImage, hmAsk_eq]
  rfl

/-- R505: an entry into basic service gives the state and stops the firmware; its other acts leave the firmware's record. -/
theorem basicEntry_fw (st : FwState) (s : State) : (basicEntry st s).fw = { s.fw with state := st, started := false } :=
  (keeps_basicEntry_of_entered (firm := true)).fw rfl

section Rows
variable {s : State}

/-! ## FW_GO (R475, R478) -/

theorem exec_fwGo_of_partial {w : Word} {strb : BitVec 8} (hs : serving s = true) (h : bit w 0 = false ∨ strb ≠ 0xFF) :
    exec (.fwGo w strb) s = .next (hrDone 0 s) := by
  refine congrArg Host.Outcome.next ?_
  by_cases hstrb : strb = 0xFF
  · rw [hstrb, hrWrite_whole _ hs]
    exact if_pos (.inl (h.resolve_right (not_not_intro hstrb)))
  · exact hrWrite_of_partial _ hs hstrb

theorem exec_fwGo_of_go {w : Word} (hs : serving s = true) (hgo : bit w 0 = true) : exec (.fwGo w 0xFF) s =
    .next (if s.fw.state = .loading then hrDone 0 s
      else if s.fw.state = .running then startLoad (basicEntry .loading (hrDone 0 s)) else startLoad (hrDone 0 s)) := by
  have hgo : bit w 0 ≠ false := by simp [hgo]
  refine congrArg Host.Outcome.next ((hrWrite_whole _ hs).trans (if_congr ?_ rfl rfl))
  exact or_iff_right hgo

/-! ## FIRMWARE_READY (R476, R479, R506) -/

/-- R476: the state in which the firmware runs, with the image's version and state version. -/
def fwReady (s : State) : State :=
  modFw (fun f => { f with
    state := .running, major := fieldB 16 (s.fw.header.getD 1 0) 48, minor := fieldB 16 (s.fw.header.getD 1 0) 32
    stateVer := some (fieldB 16 (s.fw.header.getD 3 0) 32) }) s

/-- R479: event 0x0300 says whether the state area was lost. -/
def fwReadyRaised (lost : Bool) (s : State) : State :=
  raiseEvent 0x0300 3 [wn (fwReady s).fw.major.toNat, wn (fwReady s).fw.minor.toNat, wn (b2n lost)] {} 0 (fwReady s)

theorem exec_firmwareReady_of_loading (hs : serving s = true) (hst : s.fw.state = .loading) (hon : s.fw.started = true) :
    let lost := decide (s.fw.stateVer ≠ some (fieldB 16 (s.fw.header.getD 3 0) 32))
    exec .firmwareReady s = .next (if lost then clearStateArea (fwReadyRaised lost s)
      else reportHeld (concludeCuts (fwReadyRaised lost s))) :=
  congrArg Host.Outcome.next (if_pos ⟨hst, hon, hs⟩)

theorem exec_firmwareReady_of_other (h : s.fw.state ≠ .loading ∨ s.fw.started = false ∨ serving s = false) :
    exec .firmwareReady s = .next s := by
  refine congrArg Host.Outcome.next (if_neg ?_)
  rintro ⟨hst, hon, hs⟩
  rcases h with h | h | h
  · exact h hst
  · simp [h] at hon
  · simp [h] at hs

/-! ## The firmware's clocks (R480) -/

section Clocks

theorem exec_firmwareWatchdogSignal_of_started (hon : s.fw.started = true) :
    exec .firmwareWatchdogSignal s = .next { s with fw := { s.fw with lastSignal := hubGt s } } :=
  congrArg Host.Outcome.next (if_pos hon)

theorem exec_firmwareWatchdog_of_started (hon : s.fw.started = true) :
    exec .firmwareWatchdog s = .next (if s.fw.lastSignal + 8000000 ≤ hubGt s then failFirmware s else s) :=
  congrArg Host.Outcome.next (if_congr (and_iff_right hon) rfl rfl)

theorem exec_firmwareStartTimeout_of_started (hon : s.fw.started = true) (hst : s.fw.state = .loading) :
    exec .firmwareStartTimeout s = .next (if s.fw.startGt + 400000000 ≤ hubGt s then failFirmware s else s) :=
  congrArg Host.Outcome.next (if_congr ((and_iff_right hst).trans (and_iff_right hon)) rfl rfl)

/-- With no firmware started its clocks change nothing. -/
theorem exec_firmwareClocks_of_not_started (hoff : s.fw.started = false) :
    exec .firmwareWatchdogSignal s = .next s ∧ exec .firmwareWatchdog s = .next s ∧ exec .firmwareStartTimeout s = .next s :=
  ⟨congrArg Host.Outcome.next (if_neg (by simp [hoff])), congrArg Host.Outcome.next (if_neg (by simp [hoff])),
    congrArg Host.Outcome.next (if_neg (by simp [hoff]))⟩

theorem failFirmware_of_running (hst : s.fw.state = .running) : failFirmware s = basicEntry .failed s := if_pos hst

theorem failFirmware_of_loading (hst : s.fw.state = .loading) (hon : s.fw.started = true) :
    failFirmware s = endLoadFw .failed s :=
  (if_neg (by rw [hst]; decide)).trans (if_pos ⟨hst, hon⟩)

end Clocks
end Rows

/-- Settles O32: FW_GO by the firmware's state, FIRMWARE_READY by its state version, the clocks by the hub's GT. -/
theorem firmwareRowsComplete : Obligations.FirmwareRowsComplete := by
  refine ⟨⟨fun w s hs hgo => ?go, fun _ _ _ hs h => exec_fwGo_of_partial hs h, fun s => ?load, basicEntry_fw,
      fun s hs hst hon => ?ready, fun _ => ⟨rfl, rfl, rfl, rfl, rfl⟩, fun _ => exec_firmwareReady_of_other⟩,
    fun s hon => ?watchdog, fun s hon hst => ?start, fun _ => failFirmware_of_running, fun _ => failFirmware_of_loading,
    fun _ => exec_firmwareClocks_of_not_started⟩
  case go =>
    have hrun := exec_fwGo_of_go hs hgo
    exact ⟨fun hst => hrun.trans (congrArg _ (if_pos hst)),
      fun hst => hrun.trans (congrArg _ ((if_neg (by rw [hst]; decide)).trans (if_pos hst))),
      fun hload hrunning => hrun.trans (congrArg _ ((if_neg hload).trans (if_neg hrunning)))⟩
  case load =>
    rw [startLoad_fw]
    exact ⟨rfl, rfl, rfl⟩
  case ready =>
    intro ver r e
    have hrun := exec_firmwareReady_of_loading hs hst hon
    refine ⟨fun hver => ?_, fun hver => ?_⟩
    · rw [show decide (s.fw.stateVer ≠ some (fieldB 16 (s.fw.header.getD 3 0) 32)) = true from decide_eq_true hver] at hrun
      exact hrun
    · rw [show decide (s.fw.stateVer ≠ some (fieldB 16 (s.fw.header.getD 3 0) 32)) = false from
        decide_eq_false (not_not_intro hver)] at hrun
      exact hrun
  case watchdog =>
    have hrun := exec_firmwareWatchdog_of_started hon
    exact ⟨exec_firmwareWatchdogSignal_of_started hon, fun h => hrun.trans (congrArg _ (if_neg (Nat.not_le.mpr h))),
      fun h => hrun.trans (congrArg _ (if_pos h))⟩
  case start =>
    have hrun := exec_firmwareStartTimeout_of_started hon hst
    exact ⟨fun h => hrun.trans (congrArg _ (if_neg (Nat.not_le.mpr h))), fun h => hrun.trans (congrArg _ (if_pos h))⟩

end Sys2Proof.Machine
end
